-- ==== Sys2Proof/Word.lean ====
section
/-! DEFINITION. The word types of the HZT8 module (00_scope R9, R12): bytes, byte strings, and finite maps held as sorted lists. -/

namespace Sys2Proof

/-- One byte; bit 0 is the least significant (R12). -/
abbrev Byte := BitVec 8

/-- Bytes in ascending address order. -/
abbrev Bytes := List Byte

/-- A 32-bit vector element or word. -/
abbrev W32 := BitVec 32

/-- A 64-bit scalar register, slot word or setup register. -/
abbrev W64 := BitVec 64

/-- A finite map from numbers, keys strictly rising. -/
abbrev SMap (α : Type) := List (Nat × α)

/-- A physical engine number E0-E191 (R7). -/
abbrev EngId := Fin 192

/-- A quadrant number Q0-Q7 (R7). -/
abbrev QuadId := Fin 8

/-- A stack number M0-M7 (R7). -/
abbrev StackId := Fin 8

/-- A memory channel of a stack (R7). -/
abbrev MchId := Fin 32

/-- An optical port P0-P15 (R7). -/
abbrev PortId := Fin 16

/-- A wavelength lane of a port (R7). -/
abbrev LaneId := Fin 8

end Sys2Proof
end

