-- ==== Sys2Proof/Machine/Map.lean ====
section
/-! DEFINITION. Finite maps and byte memories held as lists in one canonical form, and little-endian fields (R12). -/

namespace Sys2Proof.Machine

/-- The entry of a key. -/
def SMap.find? {α : Type} : SMap α → Nat → Option α
  | [], _ => none
  | (k, v) :: t, i => if k = i then some v else SMap.find? t i

/-- The entry of a key, or a default. -/
def SMap.get {α : Type} (m : SMap α) (i : Nat) (d : α) : α := (SMap.find? m i).getD d

/-- Insert or replace an entry; keys stay rising. -/
def SMap.set {α : Type} : SMap α → Nat → α → SMap α
  | [], i, v => [(i, v)]
  | (k, u) :: t, i, v =>
    if i < k then (i, v) :: (k, u) :: t
    else if i = k then (i, v) :: t
    else (k, u) :: SMap.set t i v

/-- Remove an entry. -/
def SMap.erase {α : Type} : SMap α → Nat → SMap α
  | [], _ => []
  | (k, u) :: t, i => if k = i then t else (k, u) :: SMap.erase t i

/-- A map whose unlisted keys read as zero: writing zero removes the entry. -/
def SMap.put {n : Nat} (m : SMap (BitVec n)) (i : Nat) (v : BitVec n) : SMap (BitVec n) :=
  if v = 0 then SMap.erase m i else SMap.set m i v

/-- Entries whose key satisfies a test. -/
def SMap.keep {α : Type} (m : SMap α) (p : Nat → Bool) : SMap α := m.filter (fun kv => p kv.1)

/-- The lowest key at or above `i` that is not in use. -/
def SMap.firstFree {α : Type} (m : SMap α) : Nat → Nat → Nat
  | i, 0 => i
  | i, fuel + 1 => if (SMap.find? m i).isSome then SMap.firstFree m (i + 1) fuel else i

/-- The canonical form of a map: keys strictly rising. -/
def SMap.wf {α : Type} : SMap α → Bool
  | [] => true
  | [_] => true
  | (k, _) :: (k', v) :: t => decide (k < k') && SMap.wf ((k', v) :: t)

/-- A byte memory: cells with strictly rising addresses, none equal to the zero that an unlisted address reads as. -/
abbrev Memory := List Host.Cell

/-- The canonical form of a memory. -/
def Memory.wf : Memory → Bool
  | [] => true
  | [(_, b)] => b != 0
  | (a, b) :: (a', b') :: t => b != 0 && decide (a < a') && Memory.wf ((a', b') :: t)

/-- One byte. -/
def Memory.read : Memory → Nat → Byte
  | [], _ => 0
  | (a, b) :: t, i => if a = i then b else Memory.read t i

/-- Remove the cell of an address. -/
def Memory.drop : Memory → Nat → Memory
  | [], _ => []
  | (a, b) :: t, i => if a = i then t else (a, b) :: Memory.drop t i

/-- Insert or replace a cell. -/
def Memory.insert : Memory → Nat → Byte → Memory
  | [], i, v => [(i, v)]
  | (a, b) :: t, i, v =>
    if i < a then (i, v) :: (a, b) :: t
    else if i = a then (i, v) :: t
    else (a, b) :: Memory.insert t i v

/-- Write one byte, keeping the canonical form. -/
def Memory.write (m : Memory) (i : Nat) (v : Byte) : Memory :=
  if v = 0 then Memory.drop m i else Memory.insert m i v

/-- The `n` bytes from `a` on. -/
def Memory.readN (m : Memory) (a n : Nat) : Bytes := (List.range n).map (fun i => Memory.read m (a + i))

/-- Write a byte string from `a` on. -/
def Memory.writeN (m : Memory) (a : Nat) : Bytes → Memory
  | [] => m
  | b :: t => Memory.writeN (Memory.write m a b) (a + 1) t

/-- Write zeros over `n` bytes from `a` on. -/
def Memory.zero (m : Memory) (a n : Nat) : Memory := m.filter (fun c => decide (c.1 < a ∨ a + n ≤ c.1))

/-- A little-endian number from bytes (R12). -/
def leNat : Bytes → Nat
  | [] => 0
  | b :: t => b.toNat + 256 * leNat t

/-- The `n` little-endian bytes of a number (R12). -/
def leBytes : Nat → Nat → Bytes
  | 0, _ => []
  | n + 1, v => BitVec.ofNat 8 v :: leBytes n (v / 256)

/-- The little-endian field of `n` bytes at offset `o`; bytes past the end read zero. -/
def field (b : Bytes) (o n : Nat) : Nat := leNat ((b.drop o).take n)

/-- Bits `lo … lo + len - 1` of a number. -/
def bits (v lo len : Nat) : Nat := v / 2 ^ lo % 2 ^ len

/-- One bit of a number. -/
def bit (v i : Nat) : Bool := v.testBit i

/-- A number's low `n` bits read as two's complement. -/
def toInt (n v : Nat) : Int :=
  let u := v % 2 ^ n
  if u < 2 ^ (n - 1) then (u : Int) else (u : Int) - (2 ^ n : Nat)

/-- The low `n` bits of an integer. -/
def ofInt (n : Nat) (v : Int) : Nat := (v % ((2 ^ n : Nat) : Int)).toNat

/-- The number of one bits among the low `n`. -/
def popcount (n v : Nat) : Nat := ((List.range n).filter (fun i => v.testBit i)).length

/-- Division rounding up. -/
def ceilDiv (a b : Nat) : Nat := (a + b - 1) / b

/-- A list padded with zero bytes, or cut, to `n`. -/
def padTo (n : Nat) (b : Bytes) : Bytes := (b ++ List.replicate (n - b.length) 0).take n

end Sys2Proof.Machine
end

