-- ==== Sys2Proof/Machine/Aes.lean ====
section
/-! DEFINITION. AES-256 and its XTS mode, which R311 and R399 name: the cipher and the mode are those of their public standards
(log 41). -/

namespace Sys2Proof.Machine

/-! ### AES-256 -/

/-- Multiplication by x in GF(2⁸). -/
def xtime (a : Byte) : Byte := if a.msb then (a <<< 1) ^^^ 0x1B else a <<< 1

def gmul (a : Byte) : Nat → Byte → Byte
  | 0, _ => 0
  | n + 1, b => (if b.getLsbD 0 then a else 0) ^^^ gmul (xtime a) n (b >>> 1)

/-- The inverse, as the 254th power; 0 stays 0. -/
def ginv (a : Byte) : Byte :=
  let m := fun (x y : Byte) => gmul x 8 y
  let a2 := m a a
  let a4 := m a2 a2
  let a8 := m a4 a4
  let a16 := m a8 a8
  let a32 := m a16 a16
  let a64 := m a32 a32
  let a128 := m a64 a64
  m (m (m a2 a4) (m a8 a16)) (m (m a32 a64) a128)

def sbox (a : Byte) : Byte :=
  let b := ginv a
  b ^^^ b.rotateLeft 1 ^^^ b.rotateLeft 2 ^^^ b.rotateLeft 3 ^^^ b.rotateLeft 4 ^^^ 0x63

def xorBytes (a b : Bytes) : Bytes := (a.zip b).map (fun (x, y) => x ^^^ y)

/-- The next word of the key schedule from the last eight words. -/
def keyWord (i : Nat) (rcon : Byte) (w : List Bytes) : Bytes :=
  let t := w.getLastD []
  let t1 := if i % 8 = 0 then xorBytes ((t.drop 1 ++ t.take 1).map sbox) [rcon, 0, 0, 0] else if i % 8 = 4 then t.map sbox else t
  xorBytes (w.headD []) t1

/-- Key schedule words from number `i` on; `w` holds the last eight. -/
def keyWords : Nat → Nat → Byte → List Bytes → List Bytes
  | 0, _, _, _ => []
  | n + 1, i, rcon, w =>
    let x := keyWord i rcon w
    x :: keyWords n (i + 1) (if i % 8 = 0 then xtime rcon else rcon) (w.drop 1 ++ [x])

/-- The fifteen round keys. -/
def roundKeys (key : Bytes) : List Bytes :=
  let w0 := (List.range 8).map (fun i => (key.drop (4 * i)).take 4)
  let w := w0 ++ keyWords 52 8 1 w0
  (List.range 15).map (fun r => ((w.drop (4 * r)).take 4).flatten)

def shiftRows (b : Bytes) : Bytes := (List.range 16).map (fun i => b.getD ((i + 4 * (i % 4)) % 16) 0)

def mixColumn (c : Bytes) : Bytes :=
  let g := fun (i : Nat) => c.getD (i % 4) 0
  (List.range 4).map (fun i => xtime (g i) ^^^ (xtime (g (i + 1)) ^^^ g (i + 1)) ^^^ g (i + 2) ^^^ g (i + 3))

def mixColumns (b : Bytes) : Bytes := (List.range 4).flatMap (fun c => mixColumn ((b.drop (4 * c)).take 4))

def aesRounds : List Bytes → Bytes → Bytes
  | [], b => b
  | [k], b => xorBytes (shiftRows (b.map sbox)) k
  | k :: t, b => aesRounds t (xorBytes (mixColumns (shiftRows (b.map sbox))) k)

/-- One block under a key. -/
def aesBlock (ks : List Bytes) (b : Bytes) : Bytes := aesRounds (ks.drop 1) (xorBytes b (ks.headD []))

/-! ### The inverse cipher -/

def invSbox (a : Byte) : Byte := ginv (a.rotateLeft 1 ^^^ a.rotateLeft 3 ^^^ a.rotateLeft 6 ^^^ 0x05)

def invShiftRows (b : Bytes) : Bytes := (List.range 16).map (fun i => b.getD ((i + 12 * (i % 4)) % 16) 0)

def invMixColumn (c : Bytes) : Bytes :=
  let g := fun (m : Byte) (i : Nat) => gmul (c.getD (i % 4) 0) 4 m
  (List.range 4).map (fun i => g 14 i ^^^ g 11 (i + 1) ^^^ g 13 (i + 2) ^^^ g 9 (i + 3))

def invMixColumns (b : Bytes) : Bytes := (List.range 4).flatMap (fun c => invMixColumn ((b.drop (4 * c)).take 4))

/-- The rounds backwards; the keys from the last but one to the first. -/
def aesInvRounds : List Bytes → Bytes → Bytes
  | [], b => b
  | [k], b => xorBytes ((invShiftRows b).map invSbox) k
  | k :: t, b => aesInvRounds t (invMixColumns (xorBytes ((invShiftRows b).map invSbox) k))

/-- One block back under a key. -/
def aesInvBlock (ks : List Bytes) (b : Bytes) : Bytes := aesInvRounds (ks.reverse.drop 1) (xorBytes b (ks.getLastD []))

/-! ### XTS (R311) -/

/-- The tweak of the next block: the product with x in GF(2¹²⁸), the bytes taken as one little-endian number. -/
def nextTweak (t : Nat) : Nat := (2 * t) % 2 ^ 128 ^^^ (if bit t 127 then 0x87 else 0)

/-- The blocks of a data unit under a block cipher, from a tweak on. -/
def xtsBlocks (f : Bytes → Bytes) : Nat → Nat → Bytes → Bytes
  | 0, _, _ => []
  | n + 1, t, b => xorBytes (f (xorBytes (b.take 16) (leBytes 16 t))) (leBytes 16 t) ++ xtsBlocks f n (nextTweak t) (b.drop 16)

/-- The two halves of a 512-bit key as round keys: that of the data and that of the tweak. -/
def xtsKeys (key : Nat) : List Bytes × List Bytes := (roundKeys (leBytes 32 (key % 2 ^ 256)), roundKeys (leBytes 32 (key / 2 ^ 256)))

/-- A line as the stack stores it (R311): the tweak is DPA[47:6], the line's number. -/
def xtsSeal (key line : Nat) (b : Bytes) : Bytes :=
  let (k1, k2) := xtsKeys key
  xtsBlocks (aesBlock k1) 4 (field (aesBlock k2 (leBytes 16 line)) 0 16) b

/-- A stored line decrypted. -/
def xtsOpen (key line : Nat) (b : Bytes) : Bytes :=
  let (k1, k2) := xtsKeys key
  xtsBlocks (aesInvBlock k1) 4 (field (aesBlock k2 (leBytes 16 line)) 0 16) b

end Sys2Proof.Machine
end

