-- ==== Sys2Proof/Machine/Crypt.lean ====
section
/-! DEFINITION. AES-256-GCM, which R399 names: the cipher and mode are those of their public standards (log 41). -/

namespace Sys2Proof.Machine

/-! ### GCM -/

/-- A big-endian number from bytes, and back. -/
def beNat (b : Bytes) : Nat := b.foldl (fun n x => 256 * n + x.toNat) 0
def beBytes (n v : Nat) : Bytes := (leBytes n v).reverse

/-- Product in the field of GHASH: bit 127 is the coefficient of 1. -/
def gfMul (x : Nat) : Nat → Nat → Nat → Nat
  | 0, _, z => z
  | n + 1, v, z => gfMul x n (if v % 2 = 1 then v / 2 ^^^ (0xE1 * 2 ^ 120) else v / 2) (if bit x n then z ^^^ v else z)

def padBlock (b : Bytes) : Bytes := b ++ leBytes ((16 - b.length % 16) % 16) 0

def ghash (h : Nat) : Nat → Bytes → Nat → Nat
  | 0, _, y => y
  | n + 1, b, y => if b.isEmpty then y else ghash h n (b.drop 16) (gfMul (y ^^^ beNat (b.take 16)) 128 h 0)

/-- The key stream over a text, counter from `c`. -/
def ctrStream (ks : List Bytes) (iv : Bytes) : Nat → Nat → Bytes → Bytes
  | 0, _, _ => []
  | n + 1, c, t => if t.isEmpty then [] else xorBytes (t.take 16) (aesBlock ks (iv ++ beBytes 4 (c % 2 ^ 32))) ++ ctrStream ks iv n (c + 1) (t.drop 16)

def gcmTag (ks : List Bytes) (iv aad ct : Bytes) : Bytes :=
  let h := beNat (aesBlock ks (leBytes 16 0))
  let x := padBlock aad ++ padBlock ct ++ beBytes 8 (8 * aad.length) ++ beBytes 8 (8 * ct.length)
  xorBytes (beBytes 16 (ghash h (x.length / 16 + 1) x 0)) (aesBlock ks (iv ++ beBytes 4 1))

/-- Encrypt: ciphertext and tag. -/
def gcmSeal (key iv aad pt : Bytes) : Bytes × Bytes :=
  let ks := roundKeys key
  let ct := ctrStream ks iv (pt.length / 16 + 1) 2 pt
  (ct, gcmTag ks iv aad ct)

/-- Check and decrypt. -/
def gcmOpen (key iv aad ct tag : Bytes) : Option Bytes :=
  let ks := roundKeys key
  if gcmTag ks iv aad ct = tag then some (ctrStream ks iv (ct.length / 16 + 1) 2 ct) else none

end Sys2Proof.Machine
end

