-- ==== Sys2Proof/Machine/Regs.lean ====
section
/-! DEFINITION. The setup registers that hold a value: fields, access codes and reset values by BAR0 offset (R609 to R630 and
the field maps R609 names). Registers computed from other state have no entry here. -/

namespace Sys2Proof.Machine

/-- Access codes (R16); `wo` reads 0. -/
inductive RAcc where
  | ro
  | rw
  | rwl
  | rw1c
  | wo
  deriving DecidableEq, Repr

/-- A register field: lowest bit, width, access, reset value. -/
structure RField where
  lo : Nat
  len : Nat
  acc : RAcc
  reset : Nat
  deriving DecidableEq, Repr

def ro (lo len : Nat) (r : Nat := 0) : RField := ⟨lo, len, .ro, r⟩
def rw (lo len : Nat) (r : Nat := 0) : RField := ⟨lo, len, .rw, r⟩
def rwl (lo len : Nat) (r : Nat := 0) : RField := ⟨lo, len, .rwl, r⟩
def rw1c (lo len : Nat) : RField := ⟨lo, len, .rw1c, 0⟩

/-! ### Block bases (R609) -/

def bPWR : Nat := 0x10000
def bHIF : Nat := 0x20000
def bTEN : Nat := 0x30000
def bMEM : Nat := 0x40000
def bFAB : Nat := 0x60000
def bENG : Nat := 0x80000
def bQDR : Nat := 0xA0000
def bSRV : Nat := 0xB0000
def bRAS : Nat := 0xC0000
def bTLM : Nat := 0xD0000
def bTST : Nat := 0xE0000

/-- Block number in the order of R15, its base and its size (R609, R654). -/
def blockOf (off : Nat) : Option (Nat × Nat × Nat) :=
  if off < 0x10000 then some (0, 0, 0x10000)
  else if off < 0x20000 then some (1, bPWR, 0x10000)
  else if off < 0x30000 then some (2, bHIF, 0x10000)
  else if off < 0x40000 then some (3, bTEN, 0x10000)
  else if off < 0x60000 then some (4, bMEM, 0x20000)
  else if off < 0x80000 then some (5, bFAB, 0x20000)
  else if off < 0xA0000 then some (6, bENG, 0x20000)
  else if off < 0xB0000 then some (7, bQDR, 0x10000)
  else if off < 0xC0000 then some (8, bSRV, 0x10000)
  else if off < 0xD0000 then some (9, bRAS, 0x10000)
  else if off < 0xE0000 then some (10, bTLM, 0x10000)
  else if off < 0x100000 then some (11, bTST, 0x20000)
  else none

/-- The lock-violation register of a block (R616). -/
def lockvOf (base size : Nat) : Nat := base + size - 8

/-- GLB registers (R618, R607). -/
def glbFields (o : Nat) : List RField :=
  if o = 0x00 then [ro 0 16 0x1FA7, ro 16 16 0x5A38]
  else if o = 0x08 then [ro 0 4 0, ro 4 4 2, ro 8 8 1]
  else if o = 0x10 then [ro 0 1 0, ro 1 8 200, ro 9 8 192, ro 17 4 8, ro 21 4 8, ro 25 5 16, ro 30 7 64, ro 37 13 4096,
    ro 50 1 1, ro 51 1 1, ro 52 1 1, ro 53 1 1]
  else if o = 0x18 then [ro 0 15 16384, ro 15 11 1024, ro 26 9 256, ro 35 9 256, ro 44 9 256]
  else if o = 0x20 then [ro 0 7]
  else if o = 0x28 then [⟨0, 1, .rw1c, 1⟩, rw1c 1 7]
  else if o = 0x30 then [ro 0 23]
  else if o = 0x40 then [rw 0 64]
  else []

/-- PWR registers (R586). -/
def pwrFields (o : Nat) : List RField :=
  if o = 0x00 then [rwl 0 1, rwl 1 11 2000, rwl 12 8 95, rw 20 12 20, rw 32 12 1000, rw 44 12 0]
  else if o = 0x08 then [ro 0 8, rw1c 8 1, ro 16 24]
  else if o = 0x10 then [ro 0 48]
  else if o = 0x18 then [ro 0 38]
  else if o = 0x20 then [ro 0 46]
  else if o = 0x28 ∨ o = 0x30 ∨ o = 0x38 then [ro 0 48]
  else if 0x100 ≤ o ∧ o < 0x140 then [rw 0 8 100, ro 8 16, ro 24 8 200, ro 32 3 4, ro 35 1, rw1c 36 1, ro 37 8]
  else []

/-- HIF registers (R434); the MSI-X table and its pending bits are plain storage in the layout of PCI Express, whose vector
control starts masked (log 21). -/
def hifFields (o : Nat) : List RField :=
  if o = 0x00 then [rw 0 1]
  else if o = 0x08 ∨ o = 0x10 ∨ o = 0x18 then [rw 6 58]
  else if o = 0x20 then [rw 0 4 4, rw 4 4 4, rw 8 8, rw 16 1]
  else if o = 0x28 then [ro 0 2, ro 8 8]
  else if o = 0x30 then [ro 0 64]
  else if o = 0x38 then [ro 0 6, ro 8 7]
  else if 0x48 ≤ o ∧ o ≤ 0x60 then [ro 0 48]
  else if 0x8000 ≤ o ∧ o < 0x9000 then (if o % 16 = 0 then [rw 2 62] else [rw 0 32, rw 32 1 1])
  else if 0x9000 ≤ o ∧ o < 0x9020 then [ro 0 64]
  else []

/-- TEN registers (R620). -/
def tenFields (o : Nat) : List RField :=
  if 0x1000 ≤ o ∧ o < 0x9000 then
    (let w := (o - 0x1000) % 0x200
     if w = 0 then [rw 0 1]
     else if w = 8 then [ro 46 1]
     else if 0x100 ≤ w then (if w % 16 = 0 then [rw 12 52] else [rw 0 52])
     else [])
  else []

/-- MEM registers (R329 to R332). -/
def memFields (o : Nat) : List RField :=
  if o < 0x8000 then
    (let w := o % 0x1000
     if w ≤ 0x18 then [ro 0 64]
     else if w ≤ 0x48 then [ro 0 48]
     else if 0x100 ≤ w ∧ w < 0x200 then [ro 0 7 0x7F, ro 7 7 0x7F, ro 14 5 0x1F, ro 19 2]
     else if 0x200 ≤ w ∧ w < 0x300 then [ro 0 48]
     else if 0x300 ≤ w ∧ w < 0x400 then [ro 0 64]
     else [])
  else if o = 0x8000 then [rw 0 16 4096, rw 16 8 20]
  else if o = 0x8008 then [ro 0 54]
  else []

/-- FAB registers (R427). -/
def fabFields (o : Nat) : List RField :=
  if o = 0x00 then [rwl 0 1, rwl 8 8 10, rwl 16 4 4, rwl 20 12 20]
  else if o = 0x08 then [ro 0 12]
  else if o = 0x10 then [rw 0 1 1]
  else if o = 0x18 then [ro 0 5 7, rw1c 5 1]
  else if o = 0x20 then [rwl 0 11]
  else if o = 0x28 then [ro 0 22]
  else if o = 0x38 ∨ o = 0x40 then [ro 0 48]
  else if 0x1000 ≤ o ∧ o < 0x2000 then
    (let w := o % 0x100
     if w = 0 then [rw 0 1 1, rwl 1 1, ⟨2, 1, .wo, 0⟩]
     else if w = 8 then [ro 0 47]
     else if w ≤ 0x38 then [ro 0 48]
     else [])
  else []

/-- ENG registers that hold a value (R269, R296, R623): SATMAP, CLEARING, EN and CLEAR_FAIL of an engine are here; its state
and the watchdog's ACTIVE are computed. -/
def engFields (o : Nat) : List RField :=
  if o = 0x00 then [ro 0 28 0x200000, ro 28 4 5, ro 32 28 0x100000, ro 60 4 5]
  else if o = 0x08 then [ro 0 28 0x10000, ro 28 4 4, ro 32 28 0x20000, ro 60 4 2]
  else if 0x1000 ≤ o ∧ o < 0x19000 then
    (let w := (o - 0x1000) % 0x200
     if w ≤ 0x88 then [ro 0 48]
     else if w = 0x90 then [ro 0 24]
     else if 0x100 ≤ w ∧ w ≤ 0x170 then [ro 0 48]
     else if w = 0x178 then [ro 0 13, ro 16 32]
     else if w = 0x180 then [ro 0 16, rw 16 8 0x40, rw 24 1 1, ro 25 1, rw1c 26 1]
     else [])
  else []

/-- QDR registers (R375). -/
def qdrFields (o : Nat) : List RField :=
  if o = 0x00 then [rwl 0 1, rwl 8 8 32]
  else if 0x10 ≤ o ∧ o ≤ 0x40 then [ro 0 48]
  else if 0x100 ≤ o ∧ o < 0x300 then [rwl 0 14]
  else []

/-- SRV registers (R511). -/
def srvFields (o : Nat) : List RField :=
  if o = 0x00 then [rwl 0 1, rwl 1 1 1, rwl 8 8 100]
  else if o = 0x08 then [ro 16 8]
  else if o = 0x10 then [ro 0 8 0, ro 8 8 192, ro 16 8 0, ro 24 8 192, ro 32 8 24]
  else if 0x20 ≤ o ∧ o ≤ 0x58 then [ro 0 48]
  else if o = 0x60 then [ro 0 16]
  else []

/-- RAS registers (R560). -/
def rasFields (o : Nat) : List RField :=
  if o = 0x00 then [rwl 0 1, rwl 8 8 100]
  else if o = 0x08 then [ro 0 1, ro 4 7, ro 16 12]
  else if 0x10 ≤ o ∧ o ≤ 0x38 then [ro 0 48]
  else if 0x100 ≤ o ∧ o < 0x188 then [ro 0 48]
  else []

/-- TLM registers (R626). -/
def tlmFields (o : Nat) : List RField :=
  if o = 0x00 then [rw 0 1]
  else if o = 0x08 then [ro 0 32]
  else if o = 0x10 then [ro 0 64]
  else if o = 0x18 then [ro 0 40]
  else if 0x100 ≤ o ∧ o < 0x420 then [ro 0 48]
  else if o = 0x420 then [ro 0 16]
  else if o = 0x428 then [ro 0 8]
  else []

/-- TST registers (R424, R628). -/
def tstFields (o : Nat) : List RField :=
  if o = 0x00 then [rw 0 1]
  else if 0x100 ≤ o ∧ o < 0x300 then
    (let w := o % 0x20
     if w = 0x00 then [rw 0 24]
     else if w = 0x08 then [rw 0 24, rw 24 8, rw 32 8]
     else if w = 0x10 then [rw 0 6]
     else [ro 0 48])
  else []

/-- The fields of the 64-bit register at an 8-byte aligned offset; none where no value is held. -/
def regFields (off : Nat) : List RField :=
  match blockOf off with
  | none => []
  | some (n, base, size) =>
    let o := off - base
    if off = lockvOf base size then [ro 0 48, ro 48 16]
    else if n = 0 then glbFields o else if n = 1 then pwrFields o else if n = 2 then hifFields o
    else if n = 3 then tenFields o else if n = 4 then memFields o else if n = 5 then fabFields o
    else if n = 6 then engFields o else if n = 7 then qdrFields o else if n = 8 then srvFields o
    else if n = 9 then rasFields o else if n = 10 then tlmFields o else tstFields o

def fieldReset (l : List RField) : Nat := (l.map (fun f => f.reset * 2 ^ f.lo)).foldl (· + ·) 0

/-- The value of a register after a reset that clears its block. -/
def resetVal (off : Nat) : W64 := BitVec.ofNat 64 (fieldReset (regFields off))

end Sys2Proof.Machine
end

