-- ==== Sys2Proof/Config.lean ====
section
/-! DEFINITION. What the manual leaves open and what differs between modules: free values without a body. A statement about
one of them holds whatever it is. -/

namespace Sys2Proof

/-- The payload of the NaN that a conversion writes, by format code: R99 says NaN and gives no bits (log 10). -/
opaque Config.nanPayload : Nat → Nat

/-- What becomes of a stored word or line with more errors than its code detects (R652): 0 detected, 1 miscorrected,
2 undetected; by the free-value counter (log 11). -/
opaque Config.eccOutcome : Nat → Nat

/-- The bits in error that a miscorrection adds (R652), by the free-value counter (log 11). -/
opaque Config.eccMask : Nat → Nat

/-- The stored bits of an element after a sum left the 80-bit window (R86 sets LOVF and states no stored bits), by the exact sum
(log 12). -/
opaque Config.laccOverflow : Int → BitVec 80

/-- The order in which the injected reordering delivers a window of messages (R425: fixed, not stated; log 14). -/
opaque Config.reorderPick : Nat → Nat → Nat

/-- Which candidate is sampled where the procedure of R492 names none: a quotient by TEMP that is OVF, or a sum that is no
number; by the draw and the candidates (R213; log 16). -/
opaque Config.sampleOpen : Nat → List (Nat × Nat) → Nat

/-- The balancer's target where the quotient of R499 has no value, as before any work item has completed (log 17). -/
opaque Config.poolTarget : Nat → Nat

/-- The term exponent of a fold that reuses scales no fold has formed (R182 gives σ = 0 and no exponent; log 15), by the operation word. -/
opaque Config.foldExp : Nat → Nat

/-- The parameters of an expert: R351 says that a slot entry names them, and LOAD_EXPERT_SLOT carries none (R465; log 145); by slot and
parameter index. -/
opaque Config.expertParam : Nat → Nat → BitVec 32

/-- Bytes of reserved memory that hold return buffers beyond one return of the greatest length: R301 names the buffers among its contents and gives
no size (log 63). -/
opaque Config.returnSpace : Nat

/-- The code length that a compressor gives an exponent symbol of a wire block (R412: derived from the block's symbol counts, by a
method not stated; log 18), by the free-value counter and the symbol. -/
opaque Config.wireLen : Nat → Nat → Nat

/-- The bits of a collective maximum or minimum where an operand has no value, a NaN or OVF (R421 compares by value; log 19), by the
format and the two operands. -/
opaque Config.collOpen : Nat → Nat → Nat → Nat

/-- Fuses of the module (R550; log 47): the SHA-384 of the firmware public key of a key slot, and of the key that authorises unlocks,
and the serial number. -/
opaque Config.keyHash : Nat → Bytes
opaque Config.debugKeyHash : Bytes
opaque Config.serial : Nat

/-- What the random number generator gives, by the free-value counter (R555; log 48). -/
opaque Config.random : Nat → Nat

/-- A byte of a domain record whose write was broken off (R641 says only that its CRC fails; log 49). -/
opaque Config.tornByte : Nat → Byte

end Sys2Proof
end

