-- ==== Sys2Proof/Machine/Num.lean ====
section
/-! DEFINITION. Exact numbers, rounding, number formats, L16 arithmetic, checksums and random words (03, 06). -/

namespace Sys2Proof.Machine

/-- An exact rational `n / d` with `d > 0`. -/
structure Q where
  n : Int
  d : Nat
  deriving DecidableEq, Repr

def Q.ofInt (i : Int) : Q := ⟨i, 1⟩
/-- The value `m · 2^e`. -/
def Q.dy (m e : Int) : Q := if 0 ≤ e then ⟨m * ((2 ^ e.toNat : Nat) : Int), 1⟩ else ⟨m, 2 ^ (-e).toNat⟩
def Q.mul (a b : Q) : Q := ⟨a.n * b.n, a.d * b.d⟩
/-- The quotient by a positive rational; by zero it is the dividend's numerator over one (never used so). -/
def Q.div (a b : Q) : Q := if b.n ≤ 0 then ⟨a.n, 1⟩ else ⟨a.n * (b.d : Int), a.d * b.n.toNat⟩
def Q.add (a b : Q) : Q := ⟨a.n * (b.d : Int) + b.n * (a.d : Int), a.d * b.d⟩
def Q.neg (a : Q) : Q := ⟨-a.n, a.d⟩
def Q.abs (a : Q) : Q := ⟨(a.n.natAbs : Int), a.d⟩
def Q.le (a b : Q) : Bool := decide (a.n * (b.d : Int) ≤ b.n * (a.d : Int))
def Q.lt (a b : Q) : Bool := decide (a.n * (b.d : Int) < b.n * (a.d : Int))
def Q.isZero (a : Q) : Bool := decide (a.n = 0)

/-- How a conversion rounds (R94, R95): to nearest-even, or stochastically by a drawn 32-bit word. -/
inductive Rnd where
  | rne
  | sto (u : Nat)
  deriving DecidableEq, Repr

/-- Round `n / d` to an integer (R94, R95; `d` positive). -/
def roundDiv (r : Rnd) (n : Int) (d : Nat) : Int :=
  let f := n / (d : Int)
  let m := (n % (d : Int)).toNat
  match r with
  | .rne => if 2 * m < d then f else if d < 2 * m then f + 1 else if f % 2 = 0 then f else f + 1
  | .sto u => if u < m * 2 ^ 32 / d then f + 1 else f

def Q.round (r : Rnd) (a : Q) : Int := roundDiv r a.n a.d

/-- Right shift rounding to nearest, ties to even (the rne of R86). -/
def rneShift (w : Int) (k : Nat) : Int := roundDiv .rne w (2 ^ k)

/-- ⌊log₂ a⌋ of a positive rational. -/
def Q.floorLog2 (a : Q) : Int :=
  let n := a.n.toNat
  let g : Int := (n.log2 : Int) - (a.d.log2 : Int)
  if 0 ≤ g then (if a.d * 2 ^ g.toNat ≤ n then g else g - 1)
  else (if a.d ≤ n * 2 ^ (-g).toNat then g else g - 1)

/-! ### Format codes (R74) -/

def fNONE : Nat := 0
def fRAW : Nat := 1
def fI8 : Nat := 2
def fI4 : Nat := 3
def fSC8 : Nat := 4
def fI32 : Nat := 5
def fI64 : Nat := 6
def fLACC : Nat := 7
def fL16 : Nat := 8
def fBF16 : Nat := 9
def fE4M3 : Nat := 10
def fE5M2 : Nat := 11
def fFP32 : Nat := 12

/-- Codes 0xD–0xF are reserved (R74). -/
def fmtReserved (f : Nat) : Bool := decide (13 ≤ f)

/-- Element size in bits (R74). -/
def fmtBits (f : Nat) : Nat :=
  if f = fI4 then 4 else if f = fI32 ∨ f = fFP32 then 32 else if f = fI64 then 64
  else if f = fL16 ∨ f = fBF16 then 16 else if f = fLACC then 128 else 8

/-! ### Scales (R77, R78, R79) -/

/-- The significand of an E4M3 scale (R71). -/
def e4m3Sig (b : Nat) : Nat := if bits b 3 4 = 0 then bits b 0 3 else 8 + bits b 0 3
/-- The scale exponent of an E4M3 scale (R77). -/
def e4m3Exp (b : Nat) : Int := if bits b 3 4 = 0 then -9 else (bits b 3 4 : Int) - 10
/-- The value of a non-negative E4M3 scale. -/
def e4m3Val (b : Nat) : Q := Q.dy (e4m3Sig b) (e4m3Exp b)
/-- A block scale or E4M3 row scale that R79 refuses: negative or NaN. -/
def e4m3Bad (b : Nat) : Bool := bit b 7 || decide (b % 256 = 0x7F)
/-- A tensor scale that R79 refuses, by TSCALE. -/
def tscaleBad (ts v : Nat) : Bool :=
  if ts = 0 then false else if ts = 1 then e4m3Bad v || decide (v % 256 = 0) else if ts = 2 then decide (v % 256 = 0xFF) else true
/-- Significand and scale exponent of a scale byte: format 0 none, 1 E4M3, 2 E8M0 (R77, R78). -/
def scaleParts (f v : Nat) : Nat × Int :=
  if f = 1 then (e4m3Sig v, e4m3Exp v) else if f = 2 then (1, (v % 256 : Nat) - (127 : Int)) else (1, 0)
def scaleVal (f v : Nat) : Q := Q.dy ((scaleParts f v).1 : Int) (scaleParts f v).2

/-! ### Floating formats (R77, R82, R83) -/

/-- A decoded floating value. -/
inductive FVal where
  | nan
  | inf (neg : Bool)
  | fin (q : Q)
  deriving DecidableEq, Repr

/-- Bits of the mantissa field. -/
def mantBits (f : Nat) : Nat := if f = fBF16 then 7 else if f = fE4M3 then 3 else if f = fE5M2 then 2 else 23
/-- Bits of the exponent field. -/
def expBits (f : Nat) : Nat := if f = fE4M3 then 4 else if f = fE5M2 then 5 else 8
/-- The exponent of the smallest normal number. -/
def minExp (f : Nat) : Int := if f = fE4M3 then -6 else if f = fE5M2 then -14 else -126
/-- The largest finite magnitude's code. -/
def maxFinite (f : Nat) : Nat :=
  if f = fE4M3 then 0x7E else if f = fE5M2 then 0x7B else if f = fBF16 then 0x7F7F else 0x7F7FFFFF
/-- The sign bit's place. -/
def signBit (f : Nat) : Nat := mantBits f + expBits f

/-- The value of a floating code (R77, R82). -/
def floatDecode (f v : Nat) : FVal :=
  let mb := mantBits f
  let m := bits v 0 mb
  let e := bits v mb (expBits f)
  let s := bit v (signBit f)
  let sg : Int := if s then -1 else 1
  if f = fE4M3 ∧ e = 15 ∧ m = 7 then .nan
  else if f ≠ fE4M3 ∧ e = 2 ^ expBits f - 1 then (if m = 0 then .inf s else .nan)
  else if e = 0 then .fin (Q.dy (sg * m) (minExp f - mb))
  else .fin (Q.dy (sg * (m + 2 ^ mb : Nat)) (minExp f - mb + (e - 1)))

/-- The NaN a conversion writes: 0x7F in E4M3 (R99); elsewhere some NaN, its sign and payload free (log 10). -/
def nanCode (f : Nat) : Nat :=
  let p := Config.nanPayload f
  if f = fE4M3 then 0x7F
  else (p % 2) * 2 ^ signBit f + (2 ^ expBits f - 1) * 2 ^ mantBits f + (1 + p / 2 % (2 ^ mantBits f - 1))

/-- The code of an infinity, or of ±448 in E4M3 (R83). -/
def overflowCode (f : Nat) (neg : Bool) : Nat :=
  (if neg then 2 ^ signBit f else 0) + (if f = fE4M3 then 0x7E else (2 ^ expBits f - 1) * 2 ^ mantBits f)

/-- Round a value to a floating format: its code and whether it overflowed (R82, R83, R92). A negative value that rounds to zero keeps its sign
(log 127). -/
def floatEncode (f : Nat) (r : Rnd) (q : Q) : Nat × Bool :=
  if q.n = 0 then (0, false) else
  let k := max (Q.floorLog2 q.abs) (minExp f)
  let ulp := k - mantBits f
  let z := Q.round r (q.mul (Q.dy 1 (-ulp)))
  let neg := decide (q.n < 0)
  let code := ((k - minExp f).toNat) * 2 ^ mantBits f + z.natAbs
  if maxFinite f < code then (overflowCode f neg, true)
  else ((if neg then 2 ^ signBit f else 0) + code, false)

/-! ### Logarithms and powers (R209) -/

/-- One bit of a logarithm by squaring a mantissa `x / 2^p` in [1, 2), cut down or rounded up. -/
def logBits (p : Nat) (up : Bool) : Nat → Nat → Nat → Nat
  | 0, _, acc => acc
  | k + 1, x, acc =>
    let y := if up then ceilDiv (x * x) (2 ^ p) else x * x / 2 ^ p
    if 2 ^ (p + 1) ≤ y then logBits p up k (if up then ceilDiv y 2 else y / 2) (2 * acc + 1)
    else logBits p up k y (2 * acc)

/-- The power of a rational. -/
def Q.npow (a : Q) (n : Nat) : Q := ⟨a.n ^ n, a.d ^ n⟩

/-- ⌊2^k · log₂ x⌋ for a rational x that lies between `lo` and `hi`: with 160-bit mantissas from below and above, and where these differ
exactly, as ⌊log₂ (lo^(2^k))⌋ (R209). Where `lo` is not `hi`, for the constants of R208, the two ends agree. -/
def floorLogScaled (k : Nat) (lo hi : Q) : Int :=
  let one (up : Bool) (a : Q) : Int :=
    let g := Q.floorLog2 a
    let b := a.mul (Q.dy 1 (160 - g))
    let x := if up then ceilDiv b.n.toNat b.d else b.n.toNat / b.d
    g * ((2 ^ k : Nat) : Int) + (logBits 160 up k x 0 : Nat)
  let a := one false lo
  let b := one true hi
  if a = b then a else Q.floorLog2 (lo.npow (2 ^ k))

/-- Whether a positive rational is a power of two. -/
def Q.isPow2 (a : Q) : Bool :=
  let g := Q.floorLog2 a
  decide ((a.mul (Q.dy 1 (-g))).n.toNat = (a.mul (Q.dy 1 (-g))).d)

/-- The intermediate of R209: log₂ of a positive value in units of 2⁻²⁴, rounded to nearest. -/
def logInter (a : Q) : Int :=
  if a.isPow2 then Q.floorLog2 a * 16777216
  else (floorLogScaled 25 a a + 1) / 2

/-- ⌊m-th root of x⌋ built bit by bit, below `2^b`. -/
def rootBits (m x : Nat) : Nat → Nat → Nat
  | 0, acc => acc
  | b + 1, acc => if (acc + 2 ^ b) ^ m ≤ x then rootBits m x b (acc + 2 ^ b) else rootBits m x b acc

/-- ⌊2^(f/1024) · 2^k⌋ for `f < 1024`. -/
def powFloor (f k : Nat) : Nat := rootBits 1024 (2 ^ (f + 1024 * k)) (k + 1) 0

/-- 2^(λ/1024), rounded to 24 significand bits to nearest (R209). -/
def powInter (lam : Int) : Q :=
  let g := lam / 1024
  let f := (lam % 1024).toNat
  if f = 0 then Q.dy 1 g else Q.dy (((powFloor f 24 + 1) / 2 : Nat) : Int) (g - 23)

/-- 2^(λ/1024) rounded to 24 fraction bits to nearest, ties to even, in units of 2⁻²⁴ (R209, EXP2). -/
def powFix (lam : Int) : Int :=
  let g := lam / 1024
  let f := (lam % 1024).toNat
  if f = 0 then Q.round .rne (Q.dy 1 (g + 24))
  else
    let t := g + 25
    if t < 0 then 0 else ((rootBits 1024 (2 ^ (f + 1024 * t.toNat)) (t.toNat + 1) 0 + 1) / 2 : Nat)

/-! ### L16 (R97 to R99, R208) -/

def lZERO : Nat := 0x4000
def lOVF : Nat := 0xC000
def lSign (c : Nat) : Bool := bit c 15
/-- The log field λ · 1024. -/
def lField (c : Nat) : Int := toInt 15 (c % 32768)
def lIsZero (c : Nat) : Bool := decide (c % 65536 = lZERO)
def lIsOvf (c : Nat) : Bool := decide (c % 65536 = lOVF)

/-- A result with an underflow mark (R98). -/
structure LRes where
  code : Nat
  under : Bool
  deriving DecidableEq, Repr

/-- The code of a sign and a log field, OVF above the range and zero below it (R98). -/
def lPack (neg : Bool) (lam : Int) : LRes :=
  if 16383 < lam then ⟨lOVF, false⟩
  else if lam < -16383 then ⟨lZERO, true⟩
  else ⟨(if neg then 32768 else 0) + ofInt 15 lam, false⟩

def lMul (a b : Nat) : LRes :=
  if lIsOvf a || lIsOvf b then ⟨lOVF, false⟩
  else if lIsZero a || lIsZero b then ⟨lZERO, false⟩
  else lPack (lSign a != lSign b) (lField a + lField b)

def lDiv (a b : Nat) : LRes :=
  if lIsOvf a || lIsOvf b || lIsZero b then ⟨lOVF, false⟩
  else if lIsZero a then ⟨lZERO, false⟩
  else lPack (lSign a != lSign b) (lField a - lField b)

/-- Node `s` of Φ⁺ at D = s/32, in units of 2⁻¹⁴ (R208). -/
def nodePlus (s : Nat) : Int :=
  if s = 0 then 16384 else
  let k := 200
  let x := rootBits 32 (2 ^ (32 * k - s)) (k + 1) 0
  (floorLogScaled 15 ⟨(2 ^ k + x : Nat), 2 ^ k⟩ ⟨(2 ^ k + x + 1 : Nat), 2 ^ k⟩ + 1) / 2

/-- Φ⁻ at D = s/m, rounded to units of 2^(-u) (R208). -/
def phiMinus (s m u : Nat) : Int :=
  let k := 200
  let x := rootBits m (2 ^ (m * k - s)) (k + 1) 0
  (floorLogScaled (u + 1) ⟨(2 ^ k - x - 1 : Nat), 2 ^ k⟩ ⟨(2 ^ k - x : Nat), 2 ^ k⟩ + 1) / 2

/-- Node `s` of Φ⁻ at D = s/32, in units of 2⁻¹⁴ (R208); at D = 1 the value −1 is exact. -/
def nodeMinus (s : Nat) : Int := if s = 32 then -16384 else phiMinus s 32 14

/-- The function phi of R208. -/
def phi (minus : Bool) (d : Nat) : Int :=
  if 12288 ≤ d then 0
  else if minus && decide (d < 1024) then phiMinus d 1024 10
  else
    let s := d / 32
    let node := fun i => if minus then nodeMinus i else nodePlus i
    let m := node (s + 1) - node s
    let f := d % 32
    rneShift (node s * 32 + m * (f : Int)) 9

def lNeg (a : Nat) : Nat :=
  if lIsZero a || lIsOvf a then a % 65536 else (a % 65536) ^^^ 32768

def lAdd (a b : Nat) : LRes :=
  if lIsOvf a || lIsOvf b then ⟨lOVF, false⟩
  else if lIsZero a then ⟨b % 65536, false⟩
  else if lIsZero b then ⟨a % 65536, false⟩
  else
    let (x, y) := if lField a ≥ lField b then (a, b) else (b, a)
    let d := (lField x - lField y).toNat
    if lSign a = lSign b then lPack (lSign a) (lField x + phi false d)
    else if d = 0 then ⟨lZERO, false⟩
    else lPack (lSign x) (lField x + phi true d)

def lSub (a b : Nat) : LRes := lAdd a (lNeg b)

def lSqr (a : Nat) : LRes :=
  if lIsOvf a then ⟨lOVF, false⟩ else if lIsZero a then ⟨lZERO, false⟩ else lPack false (2 * lField a)

/-- The root halves λ, rounding to nearest-even. -/
def lSqrt (a : Nat) : LRes :=
  if lIsOvf a then ⟨lOVF, false⟩ else if lIsZero a then ⟨lZERO, false⟩
  else if lSign a then ⟨lOVF, false⟩ else lPack false (rneShift (lField a) 1)

/-- The order of R98 by value, as a number that rises with the value (no OVF). -/
def lKey (a : Nat) : Int :=
  if lIsZero a then 0 else if lSign a then -(lField a + 16384) else lField a + 16384

def lMax (a b : Nat) : Nat := if lIsOvf a || lIsOvf b then lOVF else if lKey a < lKey b then b % 65536 else a % 65536
def lMin (a b : Nat) : Nat := if lIsOvf a || lIsOvf b then lOVF else if lKey b < lKey a then b % 65536 else a % 65536

/-- A comparison of R177: 0 equal, 1 not equal, 2 less, 3 less or equal, 4 greater, 5 greater or equal. -/
def condHolds (c : Nat) (a b : Int) : Bool :=
  if c = 0 then decide (a = b) else if c = 1 then decide (a ≠ b) else if c = 2 then decide (a < b)
  else if c = 3 then decide (a ≤ b) else if c = 4 then decide (b < a) else decide (b ≤ a)

def lCmp (c a b : Nat) : Bool := if lIsOvf a || lIsOvf b then decide (c = 1) else condHolds c (lKey a) (lKey b)

/-- EXP2 (R98, R209): λ of the result is the operand's value in Q5.10. -/
def lExp2 (a : Nat) : LRes :=
  if lIsOvf a then ⟨lOVF, false⟩ else if lIsZero a then ⟨0, false⟩
  else if ¬ lSign a ∧ 4096 ≤ lField a then ⟨lOVF, false⟩
  else
    let v := powFix (lField a)
    let v := if lSign a then -v else v
    lPack false (rneShift v 14)

/-- Conversion of a rational to L16 (R99, R209). -/
def lOfQ (r : Rnd) (q : Q) : LRes :=
  if q.n = 0 then ⟨lZERO, false⟩
  else if Q.le ⟨65536, 1⟩ q.abs then ⟨lOVF, false⟩
  else lPack (decide (q.n < 0)) (roundDiv r (logInter q.abs) 16384)

/-- LOG2 (R98): the operand's λ as an L16 value. -/
def lLog2 (a : Nat) : LRes :=
  if lIsOvf a || lIsZero a || lSign a then ⟨lOVF, false⟩ else lOfQ .rne ⟨lField a, 1024⟩

/-- The linear value of an L16 code through the intermediate of R209 (not OVF). -/
def lToQ (a : Nat) : Q :=
  if lIsZero a then ⟨0, 1⟩
  else if lSign a then (powInter (lField a)).neg else powInter (lField a)

/-! ### Checksums -/

def crcStep (poly : Nat) : Nat → Nat → Nat
  | 0, c => c
  | k + 1, c => crcStep poly k (if c % 2 = 1 then (c / 2) ^^^ poly else c / 2)

def crcBytes (poly : Nat) : Nat → Bytes → Nat
  | c, [] => c
  | c, b :: t => crcBytes poly (crcStep poly 8 (c ^^^ b.toNat)) t

/-- CRC-32C (reflected polynomial 0x82F63B78, initial and final complement). -/
def crc32c (b : Bytes) : Nat := crcBytes 0x82F63B78 0xFFFFFFFF b ^^^ 0xFFFFFFFF

/-! ### Random words (R100) -/

structure Ph where
  c0 : Nat
  c1 : Nat
  c2 : Nat
  c3 : Nat
  deriving DecidableEq, Repr

def philoxRounds : Nat → Nat → Nat → Ph → Ph
  | 0, _, _, c => c
  | n + 1, k0, k1, c =>
    let p0 := 0xD2511F53 * c.c0
    let p1 := 0xCD9E8D57 * c.c2
    let m := 4294967296
    philoxRounds n ((k0 + 0x9E3779B9) % m) ((k1 + 0xBB67AE85) % m)
      ⟨(p1 / m) ^^^ c.c1 ^^^ k0, p1 % m, (p0 / m) ^^^ c.c3 ^^^ k1, p0 % m⟩

/-- Word `w` of the Philox-4x32-10 block at a counter of a stream (R100). -/
def philox (seed stream counter w : Nat) : Nat :=
  let m := 4294967296
  let r := philoxRounds 10 (seed % m) (seed / m % m) ⟨counter % m, counter / m % m, stream % m, 0⟩
  if w % 4 = 0 then r.c0 else if w % 4 = 1 then r.c1 else if w % 4 = 2 then r.c2 else r.c3

/-! ### Long-accumulator elements (R84 to R91) -/

/-- One long-accumulator element (R84). -/
structure LEl where
  w : BitVec 80
  l : BitVec 10
  h : BitVec 10
  empty : Bool
  ovr : Bool
  lovf : Bool
  deriving DecidableEq, Repr

def LEl.clear : LEl := ⟨0, 0, 0, true, false, false⟩

/-- The element's value W · 2^L; EMPTY counts as zero (R92). -/
def LEl.val (x : LEl) : Q := if x.empty then ⟨0, 1⟩ else Q.dy x.w.toInt x.l.toInt

/-- Store W: outside the 80-bit range LOVF is set and the stored bits are free (log 12). -/
def LEl.store (w l h : Int) (ovr lovf : Bool) : LEl :=
  if -(2 ^ 79 : Int) ≤ w ∧ w < 2 ^ 79 then ⟨BitVec.ofInt 80 w, BitVec.ofInt 10 l, BitVec.ofInt 10 h, false, ovr, lovf⟩
  else ⟨Config.laccOverflow w, BitVec.ofInt 10 l, BitVec.ofInt 10 h, false, ovr, true⟩

/-- The branch "e > H" of R86 on exact W, L, H and the OVERSPAN flag. -/
def raiseHigh (w l h e : Int) (ovr : Bool) : Int × Int × Int × Bool :=
  if h < e then
    if l < e - 32 then (rneShift w (e - 32 - l).toNat, e - 32, e, true) else (w, l, e, ovr)
  else (w, l, h, ovr)

/-- The rest of R86: W, L and OVERSPAN after the term. -/
def addLow (w l h t e : Int) (ovr : Bool) : Int × Int × Bool :=
  if l ≤ e then (w + t * ((2 ^ (e - l).toNat : Nat) : Int), l, ovr)
  else if h - e ≤ 32 then (w * ((2 ^ (l - e).toNat : Nat) : Int) + t, e, ovr)
  else
    let (w1, l1) := if h - 32 < l then (w * ((2 ^ (l - (h - 32)).toNat : Nat) : Int), h - 32) else (w, l)
    (w1 + rneShift t (l1 - e).toNat, l1, true)

/-- Add a term T at exponent e (R86). -/
def LEl.addTerm (x : LEl) (t e : Int) : LEl :=
  if x.empty then LEl.store t e e x.ovr x.lovf
  else
    let (w, l, h, ov) := raiseHigh x.w.toInt x.l.toInt x.h.toInt e x.ovr
    let (w, l, ov) := addLow w l h t e ov
    LEl.store w l h ov x.lovf

/-- A LACC record (R90). -/
structure LRec where
  w : Int
  l : Int
  h : Int
  empty : Bool
  ovr : Bool
  lovf : Bool
  deriving DecidableEq, Repr

def LRec.ofBytes (b : Bytes) : LRec :=
  let f := field b 14 1
  ⟨toInt 80 (field b 0 10), toInt 16 (field b 10 2), toInt 16 (field b 12 2), bit f 0, bit f 1, bit f 2⟩

def LEl.toBytes (x : LEl) : Bytes :=
  leBytes 10 x.w.toNat ++ leBytes 2 (ofInt 16 x.l.toInt) ++ leBytes 2 (ofInt 16 x.h.toInt)
    ++ leBytes 2 ((if x.empty then 1 else 0) + (if x.ovr then 2 else 0) + (if x.lovf then 4 else 0))

/-- A record whose H exceeds its L by more than 32 is malformed (R91). -/
def LRec.bad (r : LRec) : Bool := !r.empty && decide (r.l + 32 < r.h)

/-- Merge a record (R91; a malformed record is refused before). -/
def LEl.merge (x : LEl) (r : LRec) : LEl :=
  if r.empty then x
  else if x.empty then LEl.store r.w r.l r.h (x.ovr || r.ovr) (x.lovf || r.lovf)
  else
    let (w, l, h, ov) := raiseHigh x.w.toInt x.l.toInt x.h.toInt r.h x.ovr
    let (w, l, ov) := addLow w l h r.w r.l ov
    LEl.store w l h (ov || r.ovr) (x.lovf || r.lovf)

end Sys2Proof.Machine
end

