-- ==== Sys2Proof/Types.lean ====
section
/-! DEFINITION. Types of what arrives from outside the module: read completions, verdicts and readings, used as operands of
commands. -/

namespace Sys2Proof

/-- How a read of host memory ends (R462, R471, R474). -/
inductive HostRead where
  /-- Data, with the PCI Express poisoned bit. -/
  | ok (data : Bytes) (poisoned : Bool)
  /-- No completion after 50 µs and one retry, Unsupported Request or Completer Abort. -/
  | failed
  /-- The head's window check refused the proxied read. -/
  | range
  /-- The proxy request or its answer stayed undelivered. -/
  | undelivered
  deriving DecidableEq, Repr

/-- The output row that an expert's program leaves for one pair (R352); where the program leaves it, no rule states (log 64). -/
structure ExpertOut where
  tok : Nat
  gid : Nat
  row : Bytes
  deriving DecidableEq, Repr

/-- What the collective unit knows of a chunk that reaches it (R420 to R422): its number, the member modules by logical rank, the rank it
comes from, the operation (0 sum, 1 maximum, 2 minimum, 3 kept as it is), element format, whether the result goes to every
rank, whether compressed, and the work item that waits for it, whose channel has the mode. -/
structure CollPart where
  coll : Nat
  ranks : List Nat
  rank : Nat
  op : Nat
  fmt : Nat
  all : Bool
  compress : Bool
  item : Option Nat
  deriving DecidableEq, Repr

/-- What training finds for an MCH that is trained (R313): every lane within its margins; data lanes and a command/address lane replaced by
spares; or failed. -/
inductive Trained where
  | pass
  | repaired (spare0 spare1 ca : Option Nat)
  | failed
  deriving DecidableEq, Repr

end Sys2Proof
end

