-- ==== Sys2Proof/Syntax.lean ====
section
/-! DEFINITION. The commands of the module: one constructor per row of the opcode table. A slot operation names its
engine and carries the 64-bit slot word of R159 (the row fixes OP); another command carries the operands its rule names
and, as operands, what arrives from outside the module. -/

namespace Sys2Proof

/-- A command of the module: one constructor per row of the opcode table. -/
inductive Instr where
  /-- TB_D, R46. TB slot builds a dense table set of 8 tables from Loam activations and writes it at issue + 3, multicasting to the lockstep group when MCAST is set. -/
  | tbD (e : EngId) (w : W64)
  /-- TB_S, R48. TB slot builds a 2:5 table set of 26-entry tables for one group. -/
  | tbS (e : EngId) (w : W64)
  /-- TB_P, R64. TB slot builds a bit-plane table set in Gray-code order. -/
  | tbP (e : EngId) (w : W64)
  /-- LA_D, R51. Dense table-mode lookup-accumulate of 256 radix-3 weight bytes into an accumulator tile. -/
  | laD (e : EngId) (half : Fin 2) (w : W64)
  /-- LA_S, R52. 2:5 table-mode lookup-accumulate of 64 quartets into an accumulator tile. -/
  | laS (e : EngId) (half : Fin 2) (w : W64)
  /-- LA_C, R59. Column-mode accumulate of one radix-3 column word against 8 activation values, with the index checked against K. -/
  | laC (e : EngId) (half : Fin 2) (w : W64)
  /-- LA_CS, R59. Column-mode accumulate of one 2:5 column word against 8 activation values. -/
  | laCs (e : EngId) (half : Fin 2) (w : W64)
  /-- LA_P, R67. Bit-plane lookup-accumulate of one plane line, weighted by the plane, with the optional OFS subtraction. -/
  | laP (e : EngId) (half : Fin 2) (w : W64)
  /-- IADD, R176. VX I32 add, wrapping. -/
  | iadd (e : EngId) (w : W64)
  /-- ISUB, R176. VX I32 subtract, wrapping. -/
  | isub (e : EngId) (w : W64)
  /-- IMIN, R176. VX I32 signed minimum. -/
  | imin (e : EngId) (w : W64)
  /-- IMAX, R176. VX I32 signed maximum. -/
  | imax (e : EngId) (w : W64)
  /-- VX_AND, R176. VX bitwise AND. -/
  | vxAnd (e : EngId) (w : W64)
  /-- VX_OR, R176. VX bitwise OR. -/
  | vxOr (e : EngId) (w : W64)
  /-- VX_XOR, R176. VX bitwise XOR. -/
  | vxXor (e : EngId) (w : W64)
  /-- SHL, R176. VX I32 shift left by SH or per element. -/
  | shl (e : EngId) (w : W64)
  /-- SHRA, R176. VX I32 arithmetic shift right. -/
  | shra (e : EngId) (w : W64)
  /-- SHRL, R176. VX I32 logical shift right. -/
  | shrl (e : EngId) (w : W64)
  /-- ICMP, R177. VX signed compare writing predicate bits. -/
  | icmp (e : EngId) (w : W64)
  /-- SEL, R176. VX select of VA or VB by predicate. -/
  | sel (e : EngId) (w : W64)
  /-- LMUL, R98. L16 multiply by adding log magnitudes. -/
  | lmul (e : EngId) (w : W64)
  /-- LDIV, R98. L16 divide by subtracting log magnitudes. -/
  | ldiv (e : EngId) (w : W64)
  /-- LADD, R208. L16 add through the Phi tables. -/
  | ladd (e : EngId) (w : W64)
  /-- LSUB, R208. L16 subtract through the Phi tables. -/
  | lsub (e : EngId) (w : W64)
  /-- LSQR, R98. L16 square by a one-place shift of the log magnitude. -/
  | lsqr (e : EngId) (w : W64)
  /-- LSQRT, R98. L16 square root by a one-place shift of the log magnitude. -/
  | lsqrt (e : EngId) (w : W64)
  /-- LEXP2, R209. L16 base-2 exponential. -/
  | lexp2 (e : EngId) (w : W64)
  /-- LLOG2, R209. L16 base-2 logarithm. -/
  | llog2 (e : EngId) (w : W64)
  /-- LCMP, R98. L16 compare by value writing predicate bits, OVF unordered. -/
  | lcmp (e : EngId) (w : W64)
  /-- LMAX, R98. L16 maximum by value. -/
  | lmax (e : EngId) (w : W64)
  /-- LMIN, R98. L16 minimum by value. -/
  | lmin (e : EngId) (w : W64)
  /-- LNEG, R176. L16 sign flip leaving zero and OVF unchanged. -/
  | lneg (e : EngId) (w : W64)
  /-- VX_CVT, R177. VX format conversion between I32, BF16, E4M3, E5M2, FP32 and L16 with nearest-even rounding. -/
  | vxCvt (e : EngId) (w : W64)
  /-- RMAX, R179. Masked maximum over the vector elements, broadcast to all elements. -/
  | rmax (e : EngId) (w : W64)
  /-- RSUM, R179. Masked sum in a fixed pairwise tree, broadcast to all elements. -/
  | rsum (e : EngId) (w : W64)
  /-- VX_MOV, R176. VX register move. -/
  | vxMov (e : EngId) (w : W64)
  /-- BCAST, R176. Broadcast of a scalar to every vector element. -/
  | bcast (e : EngId) (w : W64)
  /-- TOS, R176. Move of one vector element to a scalar register, sign-extended. -/
  | tos (e : EngId) (w : W64)
  /-- XCHG, R180. Pull of a vector register from another lockstep group member. -/
  | xchg (e : EngId) (w : W64)
  /-- PLOGIC, R177. Predicate logic AND, OR, XOR or AND-NOT. -/
  | plogic (e : EngId) (w : W64)
  /-- IOTA, R176. Writes each element's index into it. -/
  | iota (e : EngId) (w : W64)
  /-- FOLD, R86. Folds the chains of a tile into its long-accumulator elements with their scales. -/
  | fold (e : EngId) (w : W64)
  /-- RQ_CVT, R92. Converts long-accumulator elements to an output format in the Loam store, optionally through the output compressor. -/
  | rqCvt (e : EngId) (w : W64)
  /-- MERGE, R91. Merges 256 LACC records into long-accumulator elements. -/
  | merge (e : EngId) (w : W64)
  /-- ANP, R364. Active-neuron predictor decision writing per-position bitmaps and their union. -/
  | anp (e : EngId) (w : W64)
  /-- ANP_MEASUREMENT, R370. ANP with theta 0xC000 counts audited elements and misses under the tile's audit mask and removes it. -/
  | anpMeasurement (e : EngId) (w : W64)
  /-- RQ_CLR, R188. Clears a tile's chains, long-accumulator elements and OVF bit. -/
  | rqClr (e : EngId) (w : W64)
  /-- MV_LD, R190. Loads a rotated 256-B store row into a vector register. -/
  | mvLd (e : EngId) (w : W64)
  /-- MV_ST, R191. Stores a vector register into a local store row, setting or checking the line tag. -/
  | mvSt (e : EngId) (w : W64)
  /-- MV_STR, R192. Stores a vector register into another engine's Loam store. -/
  | mvStr (e : EngId) (w : W64)
  /-- MV_ACW, R193. Accumulate-on-write of I32 or I64 values into a local or remote Loam row. -/
  | mvAcw (e : EngId) (w : W64)
  /-- MV_AGSET, R189. Loads an address generator from four scalar registers. -/
  | mvAgset (e : EngId) (w : W64)
  /-- MV_THSET, R189. Sets a table handle to an immediate. -/
  | mvThset (e : EngId) (w : W64)
  /-- MV_THADD, R189. Adds a signed immediate to a table handle's base modulo 1,024. -/
  | mvThadd (e : EngId) (w : W64)
  /-- XOPEN, R260. Opens a compressed weight block in an expander context, checking its header and starting its checker. -/
  | xopen (e : EngId) (w : W64)
  /-- MV_SLD, R189. Loads 8 B from a store into a scalar register. -/
  | mvSld (e : EngId) (w : W64)
  /-- MV_SST, R189. Stores a scalar register as 8 B of RAW data. -/
  | mvSst (e : EngId) (w : W64)
  /-- SY_NOP, R138. SY no-operation, a yield point when YIELD is set. -/
  | syNop (e : EngId) (w : W64)
  /-- SEND, R129. Queues a token to a counter of a logical engine of the same work item. -/
  | send (e : EngId) (w : W64)
  /-- WAIT, R130. Token wait that stalls until a counter reaches its threshold, then subtracts the decrement. -/
  | wait (e : EngId) (w : W64)
  /-- STACK_LOAD, R197. DMA from module memory to a local store. -/
  | stackLoad (e : EngId) (w : W64)
  /-- STACK_STORE, R197. DMA from a local store to module memory. -/
  | stackStore (e : EngId) (w : W64)
  /-- HOST_LOAD, R197. DMA from host memory to a local store. -/
  | hostLoad (e : EngId) (w : W64)
  /-- HOST_STORE, R197. DMA from a local store to host memory. -/
  | hostStore (e : EngId) (w : W64)
  /-- PLANE_GATHER, R199. DMA that forms plane lines in the Kaolin store from KV blocks. -/
  | planeGather (e : EngId) (w : W64)
  /-- MARL_GATHER, R200. DMA of 32-B Marl reads by an index list. -/
  | marlGather (e : EngId) (w : W64)
  /-- PEER, R197. DMA from a local store to a store of another logical engine. -/
  | peer (e : EngId) (w : W64)
  /-- STACK_COPY, R197. DMA from module memory to module memory. -/
  | stackCopy (e : EngId) (w : W64)
  /-- FMT_FENCE, R109. Format fence that drains named tiles and rows and sets their new tags. -/
  | fmtFence (e : EngId) (w : W64)
  /-- QSEND, R338. Sends gate scores of a group of tokens to the Quadrille router for one selection instance. -/
  | qsend (e : EngId) (w : W64)
  /-- SVSEND, R486. Delivers one part of a step's logits to the serving unit. -/
  | svsend (e : EngId) (w : W64)
  /-- END, R203. Stops issue on the engine and closes any open compressor row. -/
  | endOp (e : EngId) (w : W64)
  /-- BRC, R205. Conditional branch on a scalar with two delay bundles. -/
  | brc (e : EngId) (w : W64)
  /-- JMP, R205. Unconditional branch with two delay bundles. -/
  | jmp (e : EngId) (w : W64)
  /-- LOOP, R206. Starts a zero-overhead loop over the next BODY bundles. -/
  | loop (e : EngId) (w : W64)
  /-- SADD, R204. Scalar 64-bit add. -/
  | sadd (e : EngId) (w : W64)
  /-- SSUB, R204. Scalar 64-bit subtract. -/
  | ssub (e : EngId) (w : W64)
  /-- SAND, R204. Scalar AND. -/
  | sand (e : EngId) (w : W64)
  /-- SOR, R204. Scalar OR. -/
  | sor (e : EngId) (w : W64)
  /-- SXOR, R204. Scalar XOR. -/
  | sxor (e : EngId) (w : W64)
  /-- SSHL, R204. Scalar shift left. -/
  | sshl (e : EngId) (w : W64)
  /-- SSHR, R204. Scalar logical shift right. -/
  | sshr (e : EngId) (w : W64)
  /-- SSRA, R204. Scalar arithmetic shift right. -/
  | ssra (e : EngId) (w : W64)
  /-- SMIN, R204. Scalar signed minimum. -/
  | smin (e : EngId) (w : W64)
  /-- SMAX, R204. Scalar signed maximum. -/
  | smax (e : EngId) (w : W64)
  /-- SLT, R204. Scalar signed less-than. -/
  | slt (e : EngId) (w : W64)
  /-- SLTU, R204. Scalar unsigned less-than. -/
  | sltu (e : EngId) (w : W64)
  /-- SLI, R204. Loads a sign-extended immediate into a scalar. -/
  | sli (e : EngId) (w : W64)
  /-- SLIH, R204. Loads an immediate into the upper half of a scalar. -/
  | slih (e : EngId) (w : W64)
  /-- BUSY_REPEAT, R126. An engine-port access that received BUSY is repeated in the next cycle. -/
  | busyRepeat (e : EngId)
  /-- TOKEN_RELEASE, R131. A queued token leaves the send queue once every earlier store has been acknowledged. -/
  | tokenRelease (e : EngId) (cycles : Nat)
  /-- TOKEN_ARRIVAL, R129. An arriving token adds its increment to a token counter, saturating at 65,535. -/
  | tokenArrival (src : EngId) (dst : EngId) (tk : Fin 32)
  /-- WAIT_SATISFIED, R130. A stalled wait resumes issue once its counter reaches the threshold. -/
  | waitSatisfied (e : EngId) (cycles : Nat)
  /-- STORE_ACK, R26. A store's target acknowledges it, freeing the outstanding remote store limit. -/
  | storeAck (e : EngId) (cycles : Nat)
  /-- DMA_COMPLETION, R132. The last byte of a DMA is written and acknowledged and its completion token is added. -/
  | dmaCompletion (e : EngId) (n : Nat) (rd : HostRead)
  /-- DMA_FAILURE, R198. An issued transfer that fails a tag check, host read, index or proxy delivery stops the work item without its token. -/
  | dmaFailure (e : EngId) (n : Nat) (rd : HostRead)
  /-- NETWORK_WRITE_ARRIVAL, R273. A STR, remote ACW or PEER write arrives at a store's network port and is served by traffic class. -/
  | networkWriteArrival (src : EngId) (dst : EngId)
  /-- KAOLIN_WRITEBACK, R285. A corrected Kaolin word is written back in a later free cycle unless a write reached it first. -/
  | kaolinWriteback (e : EngId) (loam : Bool) (word : Nat)
  /-- CHECKER_DONE, R261. An expander context's checker finishes scanning every sub-stream of its block. -/
  | checkerDone (e : EngId) (xc : Fin 2) (cycles : Nat)
  /-- KAOLIN_SCRUB, R290. Scrub reads and corrects one Kaolin row every 8 microseconds. -/
  | kaolinScrub (e : EngId)
  /-- YIELD_OVERRUN, R140. The yield watchdog count exceeds ENG_YWD_LIMIT and faults the program. -/
  | yieldOverrun (e : EngId) (cycles : Nat)
  /-- SUSPEND_REQUEST, R142. The dispatcher asks a TC1-TC3 work item to continue to its next yield points and stop. -/
  | suspendRequest (item : Nat)
  /-- SUSPEND, R143. Once every engine has reached a yield point and drained, each writes its yield frame and the item is suspended. -/
  | suspend (item : Nat)
  /-- RESUME, R145. A suspended work item restores its yield frames on free engines of its pool and continues at RESUME. -/
  | resume (item : Nat) (engines : List EngId)
  /-- WORK_ITEM_START, R501. The dispatcher assigns free engines of the pool to a waiting work item and starts its program. -/
  | workItemStart (item : Nat) (engines : List EngId)
  /-- TC0_START, R503. A TC0 work item within share starts on warm-reserve engines or by suspending lower-class items. -/
  | tc0Start (item : Nat) (engines : List EngId)
  /-- PROGRAM_COPY, R152. The dispatcher copies an image's code into an engine's instruction store. -/
  | programCopy (e : EngId) (image : Nat)
  /-- ENGINE_PART_END, R203. An engine's part ends when its stores, DMA, queued operations and checkers have completed after END. -/
  | enginePartEnd (e : EngId)
  /-- WORK_ITEM_STOP, R154. The other engines of a faulting or stopped work item stop at their next bundle boundary. -/
  | workItemStop (item : Nat)
  /-- WORK_ITEM_COMPLETE, R203. The work item ends when every engine has ended, and its completion records are issued. -/
  | workItemComplete (item : Nat) (outs : List ExpertOut)
  /-- ENGINE_CLEAR, R292. An engine passing to another tenant, or after reset or unlock, has every store, register and tile cleared. -/
  | engineClear (e : EngId)
  /-- CLEARING_DONE, R293. Clearing completes, CLEARING returns to 0 and the engine is offered to the new tenant. -/
  | clearingDone (e : EngId)
  /-- CLEAR_FAIL, R294. Clearing not ended within 3 microseconds disables the engine. -/
  | clearFail (e : EngId)
  /-- ENGINE_POOL_MOVE, R498. An engine whose work item has ended moves to the other pool as the balancer decided. -/
  | enginePoolMove (e : EngId)
  /-- REEL_BALANCER_EVALUATION, R499. Every 1 ms the Reel balancer computes a decode-pool target and schedules moves. -/
  | reelBalancerEvaluation
  /-- INSTANCE_OPEN, R334. A waiting QSEND opens a selection instance once one is free. -/
  | instanceOpen
  /-- ADMISSION, R342. Once an instance holds the scores of all tokens it admits pairs up to capacity and computes gate weights. -/
  | admission (inst : Nat)
  /-- BUNDLE_SEND, R353. Once return buffers are reserved, a bundle of admitted pairs leaves for its destination module or rack. -/
  | bundleSend (inst : Nat) (dest : Nat)
  /-- BUNDLE_ARRIVAL, R351. A bundle message reaches a destination or ingress module, which splits or queues its pairs. -/
  | bundleArrival
  /-- EXPERT_WORK_START, R351. A destination starts an expert work item over the pairs of one instance and slot. -/
  | expertWorkStart (job : Nat) (engines : List EngId)
  /-- RETURN_ARRIVAL, R361. A return reaches the origin's Quadrille and is buffered, or discarded as stale. -/
  | returnArrival
  /-- MERGE_ROWS, R354. Once a token's pairs have returned, Quadrille merges and writes its row and adds the merge token. -/
  | mergeRows (inst : Nat) (tok : Nat)
  /-- EXPERT_TIMEOUT, R359. At the first tick after the deadline with returns missing, the instance fails or degrades by policy. -/
  | expertTimeout (inst : Nat)
  /-- QSEND_INCOMPLETE, R358. An instance lacking scores at its deadline or after all engines ended closes and completes with TENANT_FAULT. -/
  | qsendIncomplete (inst : Nat)
  /-- PREDICTOR_EVALUATION, R371. At the end of a step the predictor adds counts to its window and evaluates it on closing. -/
  | predictorEvaluation (item : Nat) (p : Nat)
  /-- NORM_WATCH_DECISION, R228. After earlier steps have decided, a watch point checks the step statistic and updates its running mean. -/
  | normWatchDecision (item : Nat) (idx : Nat)
  /-- COMMIT_POINT, R487. When all engines have ended and logits are in, the serving unit reads status, epoch and cancel marks and decides each entry. -/
  | commitPoint (item : Nat)
  /-- SLOT_SAMPLE, R489. A sampling lane draws a slot's token, runs stop detection and writes the slot record. -/
  | slotSample
  /-- DOORBELL_POLL, R448. The watcher's interval for a channel expires and it reads the doorbell word and CQ_CI. -/
  | doorbellPoll (key : Nat)
  /-- DOORBELL_READ, R447. A doorbell read returns; the word is checked and new descriptors or epochs are acted on. -/
  | doorbellRead (key : Nat) (rd : HostRead) (cis : List (Nat × Nat))
  /-- NOTIFY, R469. A member receives a doorbell change forwarded by the head's watcher. -/
  | notify (cis : List (Nat × Nat))
  /-- WAKE_WRITE, R449. A BAR2 wake word write makes the watcher read the named channel's doorbell within 100 ns. -/
  | wakeWrite (off : Nat) (len : Nat) (val : Nat)
  /-- DESCRIPTOR_ARRIVAL, R451. Fetched descriptors and argument entries arrive from host memory and SQ_CI is written. -/
  | descriptorArrival (ch : Nat) (rd : HostRead) (ra : HostRead)
  /-- HOST_READ_TIMEOUT, R474. A host read without completion after 50 microseconds and one retry fails by its kind. -/
  | hostReadTimeout (tag : Nat)
  /-- WORK, R455. A WORK descriptor is validated and queued to start, or completes with its failure status. -/
  | work (ch : Nat) (grp : List Nat)
  /-- CANCEL, R456. A CANCEL descriptor marks slots cancelled and writes idle-cancel records. -/
  | cancel (ch : Nat)
  /-- NOP, R456. A NOP descriptor completes with one OK record. -/
  | nop (ch : Nat)
  /-- CREATE_CHANNEL, R443. Admin command that creates a channel and returns its handle. -/
  | createChannel
  /-- DESTROY_CHANNEL, R445. Admin command that puts a channel into DESTROYING and ends its work. -/
  | destroyChannel
  /-- CHANNEL_DESTROY_COMPLETE, R445. After its last work item has ended the channel becomes FREE and the DESTROY completes. -/
  | channelDestroyComplete (ch : Nat)
  /-- HALT_CHANNEL, R445. Admin command that halts a channel's fetching and starts. -/
  | haltChannel
  /-- RESUME_CHANNEL, R445. Admin command that returns a halted channel to ACTIVE. -/
  | resumeChannel
  /-- LOAD_PROGRAM, R151. Admin command that checks and keeps a program image for a tenant. -/
  | loadProgram (rd : HostRead)
  /-- UNLOAD_PROGRAM, R465. Admin command that removes a program image once no work item uses it. -/
  | unloadProgram
  /-- REG_STREAM, R104. Admin command that registers a random stream or rejects it on collision. -/
  | regStream
  /-- DEREG_STREAM, R105. Admin command that deregisters a stream handle. -/
  | deregStream
  /-- STREAM_REMOVAL, R105. A deregistered entry is removed once every work item naming it has completed. -/
  | streamRemoval (t : Nat) (h : Nat)
  /-- ASSIGN_GRANULES, R465. Admin command that assigns Free granules to an owner. -/
  | assignGranules
  /-- RELEASE_GRANULES, R306. Admin command that sets granules to Zeroing and starts zeroing them. -/
  | releaseGranules
  /-- GRANULE_ZEROING_COMPLETE, R306. A granule has been written as zeros and becomes Free. -/
  | granuleZeroingComplete (g : Nat)
  /-- COPY, R465. Admin command that copies data between host and module memory. -/
  | copy
  /-- COPY_COMPLETE, R465. A COPY running alongside later admin descriptors finishes and completes. -/
  | copyComplete (id : Nat) (rd : HostRead)
  /-- MEM_FENCE, R318. Admin command that flushes every write-combining buffer entry of the member. -/
  | memFence
  /-- LOAD_NORMWATCH, R229. Admin command that loads a channel's norm-watch configuration table. -/
  | loadNormwatch (rd : HostRead)
  /-- QUERY_NORMWATCH, R230. Admin command that writes a channel's 255 norm-watch state records to the host. -/
  | queryNormwatch
  /-- LOAD_PREDICTOR, R365. Admin command that loads a channel's predictor table, resetting state and audit streams. -/
  | loadPredictor (rd : HostRead)
  /-- LOAD_EXPERT_SLOT, R351. Admin command that loads an expert slot table entry. -/
  | loadExpertSlot
  /-- SET_EVENT_RING, R468. Admin command that sets an event ring and writes events held since bring-up. -/
  | setEventRing
  /-- LOAD_UPLINK_KEY, R399. Admin command that loads an AES-256-GCM key into an uplink port. -/
  | loadUplinkKey (rd : HostRead) (selfTest : Bool)
  /-- LOAD_CIRCUITS, R466. Admin command that loads the pod's circuit plan. -/
  | loadCircuits (rd : HostRead)
  /-- REPAIR_EDIT, R315. Admin command that removes an MCH from the repair record. -/
  | repairEdit
  /-- DECLARE_RELOADABLE, R537. Admin command that declares Shared granules reloadable and records their checksums. -/
  | declareReloadable
  /-- SET_POOLS, R500. Admin command that sets the prefill and decode pool limits and WARM. -/
  | setPools
  /-- REG_ACCESS, R465. Admin command that reads or writes a member's BAR0 register. -/
  | regAccess
  /-- COMPLETION_RECORD_WRITE, R460. A waiting completion record is written once the completion ring has room. -/
  | completionRecordWrite (ch : Nat)
  /-- CQ_STALL, R460. A completion ring full for 100 ms puts the channel into ERROR. -/
  | cqStall (ch : Nat)
  /-- INTERRUPT_SIGNAL, R461. An MSI-X message is sent for a vector at most once per microsecond, covering records written meanwhile. -/
  | interruptSignal (v : Nat)
  /-- ASPM_L1_ENTRY, R432. After 100 microseconds without host traffic and no TC0 channel, the module requests L1. -/
  | aspmL1Entry
  /-- D3HOT_ENTRY, R432. The host moves the function to D3hot, accepted only when only the admin channel is open. -/
  | d3hotEntry
  /-- FUNCTION_LEVEL_RESET, R433. A function-level reset stops the watcher and work and carries out the host interface reset. -/
  | functionLevelReset
  /-- PROXY_READ, R470. The head receives a proxied host read request and issues it to PCI Express. -/
  | proxyRead
  /-- PROXY_WRITE, R470. The head receives a proxied host write and answers once it is issued. -/
  | proxyWrite
  /-- PROXY_INTERRUPT, R470. The head receives a proxied MSI-X request and signals the vector. -/
  | proxyInterrupt
  /-- PROXY_RESPONSE, R471. A member receives a proxy response and treats its status as the head's outcome. -/
  | proxyResponse
  /-- ADMIN_EN_WRITE, R435. A write of HIF_CTRL.ADMIN_EN starts the admin channel after checks or begins stopping it. -/
  | adminEnWrite (v : Bool)
  /-- ADMIN_STOP_COMPLETE, R435. The admin channel returns to state 0 once every fetched admin descriptor has completed. -/
  | adminStopComplete
  /-- TEN_CTRL_EN_WRITE, R621. A write of TEN_CTRL.EN enables a tenant after window checks, or disables it and releases its resources. -/
  | tenCtrlEnWrite (req : Fin 3) (t : Fin 64) (v : Bool)
  /-- TENANT_ENABLE_EFFECT, R621. A pending enable takes effect once the previous disable has removed the tenant's resources. -/
  | tenantEnableEffect (t : Fin 64)
  /-- FAB_BYP_CTRL_WRITE, R408. A write of FAB_BYP_CTRL.CMD commands the by-pass switches to by-pass or through. -/
  | fabBypCtrlWrite (req : Fin 3) (v : Bool)
  /-- FAB_PORT_EN_WRITE, R384. A write of FAB_PORT_CTRL.EN forces a port DOWN or releases it. -/
  | fabPortEnWrite (req : Fin 3) (p : PortId) (en : Bool) (enc : Bool)
  /-- FAB_PORT_RETRAIN, R427. A write of 1 to FAB_PORT_CTRL.RETRAIN forces a port to retrain. -/
  | fabPortRetrain (req : Fin 3) (p : PortId)
  /-- ENG_STORE_CTRL_EN_WRITE, R291. A write of ENG_STORE_CTRL.EN removes an engine from or returns it to the dispatcher. -/
  | engStoreCtrlEnWrite (req : Fin 3) (e : EngId) (en : Bool) (ceLimit : BitVec 8)
  /-- PWR_QCLK_REQ_WRITE, R567. A write of a quadrant clock request changes its clock, clamped to the grade. -/
  | pwrQclkReqWrite (req : Fin 3) (q : QuadId) (val : BitVec 8)
  /-- LOCK_SET, R615. Setting a block's LOCK field makes its RWL fields read only until reset. -/
  | lockSet (req : Fin 3) (block : Fin 5)
  /-- TLM_FREEZE_WRITE, R627. A write of TLM_CTRL.FREEZE holds or releases the published telemetry snapshot. -/
  | tlmFreezeWrite (req : Fin 3) (v : Bool)
  /-- TST_INJ_ENABLE_WRITE, R629. A write of TST_INJ_ENABLE.EN under a test grant enables or stops all fault injection. -/
  | tstInjEnableWrite (req : Fin 3) (v : Bool)
  /-- TST_INJ_DROP_WRITE, R630. A write of TST_INJ_DROP.N sets and restarts a port's drop count. -/
  | tstInjDropWrite (req : Fin 3) (p : PortId) (n : BitVec 24)
  /-- TST_INJ_FLIP_WRITE, R630. A write of TST_INJ_FLIP sets and restarts a port's flip count. -/
  | tstInjFlipWrite (req : Fin 3) (p : PortId) (n : BitVec 24) (byte : BitVec 8) (mask : BitVec 8)
  /-- TST_INJ_REORDER_WRITE, R630. A write of TST_INJ_REORDER.WINDOW takes effect at the next message boundary. -/
  | tstInjReorderWrite (req : Fin 3) (p : PortId) (w : BitVec 6)
  /-- RW1C_WRITE, R16. A write of 1 to an RW1C status bit clears it. -/
  | rw1cWrite (req : Fin 3) (off : Nat) (val : Nat)
  /-- MEM_ERRLOG_READ, R332. A read of MEM_ERRLOG returns the latest uncorrectable line and clears VALID. -/
  | memErrlogRead (req : Fin 3)
  /-- LOCKV_READ, R616. A read of a BLOCK_LOCKV register resets LAST_OFFSET and rearms LOCK_VIOLATION. -/
  | lockvRead (req : Fin 3) (block : Fin 12)
  /-- PWR_STATUS_READ, R612. A read of PWR_STATUS resets RAIL_MIN_MV to the current rail. -/
  | pwrStatusRead (req : Fin 3)
  /-- SRV_TC0_WORST_READ, R612. A read of SRV_TC0_WORST clears the worst TC0 start. -/
  | srvTc0WorstRead (req : Fin 3)
  /-- HALF_READ_LATCH, R611. A 4-B read of a register's low half latches the upper half for the requester. -/
  | halfReadLatch (req : Fin 3) (off : Nat)
  /-- REGISTER_WRITE, R16. A write to a register without behaviour of its own, ignored and counted when locked or refused. -/
  | registerWrite (req : Fin 3) (off : Nat) (n : Nat) (val : Nat)
  /-- GET_STATUS, R642. Management command returning the status bytes and clearing the latched alert cause. -/
  | getStatus (f : Bytes)
  /-- REG_READ, R641. Management command that reads a BAR0 register. -/
  | regRead (f : Bytes)
  /-- REG_WRITE, R641. Management command that writes a BAR0 register. -/
  | regWrite (f : Bytes)
  /-- DOMAIN_READ, R641. Management command that returns the domain record sector. -/
  | domainRead (f : Bytes)
  /-- DOMAIN_WRITE, R641. Management command that stores a domain record in flash. -/
  | domainWrite (f : Bytes)
  /-- UNLOCK_CHALLENGE, R555. Management or JTAG command that draws a nonce for a test grant or debug unlock. -/
  | unlockChallenge (jtag : Bool) (f : Bytes)
  /-- UNLOCK_RESPONSE, R555. Management or JTAG command that verifies a signed response and grants the scope. -/
  | unlockResponse (jtag : Bool) (f : Bytes)
  /-- NONCE_EXPIRY, R555. An unlock nonce becomes invalid 10 s after it was drawn. -/
  | nonceExpiry
  /-- GET_IDENTITY, R641. Management command returning identity, serial, grade and firmware version. -/
  | getIdentity (f : Bytes)
  /-- FLIT_RECEIVE, R387. A port receives a flit, accepts an in-order good DATA flit and takes its ACK and credits. -/
  | flitReceive (p : PortId) (flit : Bytes) (ue : Bool) (corr : Nat)
  /-- NACK_RECEIVE, R388. A received NACK makes the transmitter resend buffered flits from its ACK. -/
  | nackReceive (p : PortId)
  /-- REPLAY_TIMEOUT, R388. 12 microseconds without ACK progress resends from the oldest buffered flit. -/
  | replayTimeout (p : PortId)
  /-- PORT_RETRAIN_TIMER, R384. 1 ms after DOWN a port retrains unless the cause was CABLE or EN. -/
  | portRetrainTimer (p : PortId)
  /-- PORT_TRAINING_COMPLETE, R384. Training ends and the port enters UP, DEGRADED or DOWN with its peer identity checked. -/
  | portTrainingComplete (p : PortId) (lanes : BitVec 8) (peerMod : Nat) (peerRack : Nat) (peerPort : Nat) (rtt : Nat)
  /-- LANE_LOCK_LOSS, R381. A lane losing wavelength lock leaves service and the port restripes. -/
  | laneLockLoss (p : PortId) (lane : LaneId)
  /-- LANE_RETURN, R384. A lane returning to service joins at the next 5-flit boundary. -/
  | laneReturn (p : PortId) (lane : LaneId)
  /-- LASER_CHECK, R380. Every 100 microseconds feed power is measured and low lanes leave service. -/
  | laserCheck (p : PortId) (powers : List Int)
  /-- RING_TUNING, R381. One reference flit per lane per 100 microseconds keeps ring tuning. -/
  | ringTuning (p : PortId) (lane : LaneId)
  /-- MESSAGE_DELIVERY, R394. A whole message reaches its destination, is decrypted, decompressed, checked and delivered in flow order. -/
  | messageDelivery (busy : Bool)
  /-- TRANSPORT_ACK, R397. A received transport acknowledgement releases the message or restarts its timer when busy. -/
  | transportAck
  /-- E2E_TIMEOUT, R397. A message unacknowledged within E2E_RTO is resent, or after the last retry reported undelivered. -/
  | e2eTimeout
  /-- STATE_FLOOD, R400. A port or circuit state change is flooded to the rack or pod. -/
  | stateFlood
  /-- ROUTE_RECOMPUTE, R400. Within 10 microseconds of a view change control core 3 recomputes route and circuit tables. -/
  | routeRecompute
  /-- PAVANE_REQ, R415. Every 10 microseconds a parent sends a PAVANE REQ to each child. -/
  | pavaneReq (p : PortId)
  /-- PAVANE_EXCHANGE, R416. A child receiving a REQ computes offset and delay, steers or steps its counter and answers. -/
  | pavaneExchange (p : PortId)
  /-- PAVANE_RESP, R415. A parent receives a PAVANE RESP and records T4. -/
  | pavaneResp (p : PortId)
  /-- PAVANE_PARENT_LOSS, R417. A parent port leaving UP switches to the alternate parent or enters HOLDOVER. -/
  | pavaneParentLoss
  /-- BARRIER_ARRIVE, R418. The group root receives a member's ARRIVE and sends RELEASE when all have arrived. -/
  | barrierArrive
  /-- BARRIER_RELEASE, R418. A member receives RELEASE with the release time. -/
  | barrierRelease
  /-- BARRIER_START, R418. A member's counter reaches the release time and it starts the waiting work items. -/
  | barrierStart
  /-- BARRIER_TIMEOUT, R419. An unreachable member or the barrier deadline aborts the barrier. -/
  | barrierTimeout (g : BitVec 16)
  /-- BARRIER_ABORT, R419. A member receiving ABORT completes its waiting items with FABRIC_UNREACHABLE. -/
  | barrierAbort
  /-- COLLECTIVE_DATA, R421. A chunk owner receives collective data and reduces it in canonical order. -/
  | collectiveData (c : CollPart)
  /-- BYP_CHANGE, R409. The by-pass switches reach their commanded position. -/
  | bypChange
  /-- BYP_FAULT, R409. A switch not in position within 5 ms sets FAULT. -/
  | bypFault (mask : BitVec 3)
  /-- INTERNAL_FLIT_REPLAY, R27. A flit failing its CRC on an internal link is replayed, and 16 failures declare the link failed. -/
  | internalFlitReplay (l : Fin 17) (n : Nat)
  /-- WCB_FLUSH_TIMER, R318. 2 microseconds after allocation a WCB entry is flushed. -/
  | wcbFlushTimer
  /-- PATROL_SCRUB_READ, R310. Patrol scrub reads and corrects the next line of an MCH. -/
  | patrolScrubRead (st : StackId)
  /-- REFRESH, R324. Per-bank refresh takes its slot at the temperature-dependent rate. -/
  | refresh (st : StackId)
  /-- MCH_CALIBRATION, R327. Every 100 ms each MCH quiesces, recalibrates and repairs failing lanes with spares. -/
  | mchCalibration (st : StackId) (c : MchId) (bad : List Nat) (ca : Option Nat) (restored : Bool)
  /-- STACK_TEMP_READ, R325. Every 1 ms a stack's case temperature is read and the refresh rate set. -/
  | stackTempRead (st : StackId) (temp : Nat)
  /-- SELF_REFRESH_ENTRY, R326. A stack idle for SR_IDLE enters self-refresh. -/
  | selfRefreshEntry (st : StackId)
  /-- SELF_REFRESH_EXIT, R326. A request wakes a stack from self-refresh within 0.6 microseconds. -/
  | selfRefreshExit (st : StackId)
  /-- REFILL_START, R541. A quarantined granule enters REFILLING once admin copies into it have completed. -/
  | refillStart (g : Nat)
  /-- REFILL_CHECK, R541. After rewriting a granule the refill reads it back and makes it CLEAN on a match. -/
  | refillCheck (g : Nat) (rd : HostRead) (flips : List (Nat × Nat))
  /-- REFILL_RETRY, R541. 10 ms after a failed attempt the refill runs once more, or the granule becomes FAILED. -/
  | refillRetry (g : Nat)
  /-- PEER_REFILL_READ, R543. A peer module serves or refuses a refill read. -/
  | peerRefillRead
  /-- STALLED_READ_TIMEOUT, R540. A read waiting on a quarantined granule beyond STALL_LIMIT is refused with WEIGHT_POISON. -/
  | stalledReadTimeout (e : EngId)
  /-- BG_SLICE, R545. A background activity reaching its deferral limit takes its bounded slice. -/
  | bgSlice (activity : Nat) (unit : Nat)
  /-- TELEMETRY_SAMPLE, R627. Every 10 ms the sampler forms a snapshot and publishes it unless frozen. -/
  | telemetrySample
  /-- POWER_SAMPLE, R565. Every 100 ns rail voltage and current are measured and the power limiter adjusts ceilings and holds. -/
  | powerSample (mv : Nat) (amps : Nat) (ceils : List Nat)
  /-- SUPPLY_WARN, R573. The 1.8 V rail reaching 1.71 V stretches clocks and asserts PWR_WARN_N. -/
  | supplyWarn (mv : Nat)
  /-- WARN_RELEASE, R572. After 100 microseconds above 1.73 V the stretched domains ramp back. -/
  | warnRelease
  /-- SUPPLY_RECOVER, R573. At the end of the ramp-back PWR_WARN_N is released and the interval reported. -/
  | supplyRecover
  /-- POWER_RESET, R589. The 1.8 V rail at the reset threshold resets the module and moves the by-pass. -/
  | powerReset (mv : Nat)
  /-- POWER_RESET_RELEASE, R593. With 3.3 V good for 50 ms and 1.8 V above 1.64 V the reset releases and the ROM starts. -/
  | powerResetRelease (slot : Nat) (ga : Nat) (mv : Nat)
  /-- STANDBY_RESET, R589. The 3.3 V rail below 2.9 V stops the module. -/
  | standbyReset
  /-- MODULE_RESET, R589. A filtered MOD_RST_N assertion resets the module to the ROM. -/
  | moduleReset
  /-- PERST_ASSERT, R589. PERST_N asserted on the head carries out a host interface reset of every member. -/
  | perstAssert
  /-- PERST_DEASSERT, R594. PERST_N released starts PCI Express link training. -/
  | perstDeassert
  /-- FAST_OFF, R577. FAST_OFF_N asserted freezes every quadrant clock. -/
  | fastOff
  /-- FAST_OFF_RELEASE, R577. FAST_OFF_N released resumes the quadrants at their clocks. -/
  | fastOffRelease
  /-- THERMAL_SAMPLE, R579. Every 100 microseconds sensors and coolant are read and the thermal state and ceilings updated. -/
  | thermalSample (temps : List Nat) (inlet : Nat) (outlet : Nat) (flow : Nat)
  /-- HW_THERMAL_TRIP, R581. The hardware comparator at 115 °C stops quadrant and network clocks. -/
  | hwThermalTrip
  /-- QUADRANT_RETENTION, R569. After RET_IDLE in GATED the quadrant enters RETENTION. -/
  | quadrantRetention (q : QuadId)
  /-- QUADRANT_PLL_OFF, R569. After PLL_IDLE in RETENTION the quadrant stops its PLL. -/
  | quadrantPllOff (q : QuadId)
  /-- QUADRANT_OFF, R569. After OFF_IDLE the quadrant loses power. -/
  | quadrantOff (q : QuadId)
  /-- QUADRANT_WAKE, R568. A woken quadrant reaches ACTIVE. -/
  | quadrantWake (q : QuadId)
  /-- CLOCK_RAMP_DONE, R567. A quadrant clock ramp completes. -/
  | clockRampDone (q : QuadId)
  /-- QUAD_PLL_UNLOCK, R587. A quadrant PLL losing lock stops its work and the quadrant is cleared. -/
  | quadPllUnlock (q : QuadId)
  /-- CONTROL_CORE_WATCHDOG, R534. A control core missing its 10 ms watchdog makes the module fatal. -/
  | controlCoreWatchdog
  /-- QUADRANT_RESET, R596. The module relocks and clears a quadrant after PLL loss or CLEAR_FAIL. -/
  | quadrantReset (q : QuadId)
  /-- FIRMWARE_ACCEPT, R552. The boot ROM accepts a verified firmware copy and runs it, or stays in the ROM. -/
  | firmwareAccept (a : Bytes) (b : Bytes)
  /-- FIRMWARE_PHASE_COMPLETE, R592. Self-tests, key draw and records complete and BAR0 is served. -/
  | firmwarePhaseComplete (selfTest : Bool) (repairBad : Bool)
  /-- MEMORY_PHASE_COMPLETE, R599. All MCHs are trained, repaired or mapped out and memory is zeroed. -/
  | memoryPhaseComplete (res : List Trained)
  /-- FABRIC_PHASE_COMPLETE, R599. By-pass is through, ports have trained and Pavane is locked. -/
  | fabricPhaseComplete
  /-- COOLANT_RESTORED, R593. Coolant within limits lets the waiting module start its network clocks. -/
  | coolantRestored
  /-- DOMAIN_MESSAGE, R601. A member receives another member's flooded record and host-link state. -/
  | domainMessage
  /-- DOMAIN_ELECTION, R601. A member decides the head on seeing the preferred head's link or after the election deadline. -/
  | domainElection
  /-- DOMAIN_RETRY, R601. 1 s after a failed election or mismatch the member retries the domain phase. -/
  | domainRetry
  /-- DOMAIN_FORMED, R601. The head sets FORMED once all members joined or FORM_WAIT has passed. -/
  | domainFormed
  /-- MEMBER_JOIN, R602. A listed member reaching DOMAIN after formation joins. -/
  | memberJoin (m : Fin 64)
  /-- MEMBER_LEAVE, R602. A member unreachable for 10 ms or reset leaves and its channels go to ERROR. -/
  | memberLeave (m : Fin 64) (cause : Nat)
  /-- HEAD_LOSS, R602. A head lost for 10 ms makes every member reset its host interface and re-elect. -/
  | headLoss (headReset : Bool)
  /-- STANDBY_RAIL_UP, R637. P3V3_SB reaching 3.20 V starts the always-on domain and management target and begins charging the hold-up capacitor. -/
  | standbyRailUp
  /-- HOLDUP_CHARGED, R409. The by-pass hold-up capacitor finishes charging and FAB_BYP_STATUS.HOLDUP_OK becomes 1, letting a waiting through command proceed. -/
  | holdupCharged
  /-- MOD_RST_RELEASE, R589. The filtered deassertion of MOD_RST_N releases the module reset, samples the straps and starts the boot ROM. -/
  | modRstRelease (slot : Nat) (ga : Nat)
  /-- HOST_LINK_UP, R601. PCI Express link training completes with the link in L0, so the host link is up and the member floods its new host-link state. -/
  | hostLinkUp
  /-- D3HOT_EXIT, R432. The host returns the function from D3hot to D0 and descriptor fetching resumes. -/
  | d3hotExit
  /-- LIGHT_RETURN, R384. Light arrives at all lanes of a DARK port, which enters TRAINING. -/
  | lightReturn (p : PortId)
  /-- LIGHT_LOSS, R384. A port stops receiving light and enters DARK or DOWN with cause light. -/
  | lightLoss (p : PortId)
  /-- FLIT_TRANSMIT, R395. At each flit slot a port's transmitter sends the next DATA flit chosen by VC priority and credits, a PAVANE flit, or an IDLE flit carrying ACK and credits. -/
  | flitTransmit (p : PortId)
  /-- PROXY_READ_RETURN, R471. The PCI Express completion of a proxied host read arrives at the head, which sends the KIND 4 response to the member. -/
  | proxyReadReturn (tag : Nat) (rd : HostRead)
  /-- RETURN_BUNDLE_ARRIVAL, R352. A bundle of returns reaches the origin rack's ingress module, which passes each return over the torus to its origin. -/
  | returnBundleArrival
  /-- HUB_PLL_UNLOCK, R534. Loss of lock of a PLL that drives CK_HUB, CK_NOC0 or CK_NOC1 makes the module fatal. -/
  | hubPllUnlock
  /-- CONTROL_CORE_MEMORY_UE, R534. An uncorrectable error in a control core's firmware memory or dispatcher state makes the module fatal. -/
  | controlCoreMemoryUe
  /-- DYNAMIC_ADDRESS_ASSIGN, R639. SETDASA or ENTDAA assigns the management target a dynamic address and switches it to I3C mode. -/
  | dynamicAddressAssign (addr : BitVec 7)
  /-- RSTDAA, R639. RSTDAA returns the management target to its static address and SMBus-compatible mode. -/
  | rstdaa
  /-- MANAGEMENT_CLOCK_TIMEOUT, R640. A management transfer that holds the clock low for more than 25 ms is abandoned without effect. -/
  | managementClockTimeout
  /-- DOMAIN_WRITE_DONE, R641. The flash write of a domain record completes and the target stops answering BUSY. -/
  | domainWriteDone
  /-- BOUNDARY_SCAN, R554. A JTAG boundary-scan instruction is carried out, or refused while any tenant is enabled. -/
  | boundaryScan
  deriving DecidableEq, Repr

end Sys2Proof
end

