-- ==== Sys2Proof/Machine/State.lean ====
section
/-! DEFINITION. The state of one HZT8 module, its fault and refusal reasons, and the state right after a standby reset. Each
field names the rule that gives it; INVENTORY.md lists them with their reset values. -/

namespace Sys2Proof.Machine

/-- Reasons the model itself stops. The faults of the manual are states of the module (R154, R534), so no meaning raises one
of these. -/
inductive Fault where
  /-- Raised by no meaning: kept so that the interface has a named reason. Safe. -/
  | unreachable
  deriving DecidableEq, Repr

/-- Reasons a command has no meaning. -/
inductive Refusal where
  /-- A command whose meaning is not written yet; raised by the dispatch only. Safe. -/
  | notModelled (mnemonic : String)
  deriving DecidableEq, Repr

/-! ### Engines (04, 05, 07, 08) -/

/-- An address generator (R117); bits above STORE read 0. `start` is where its inner run in progress started. -/
structure Ag where
  addr : W32 := 0
  stride0 : W32 := 0
  stride1 : W32 := 0
  count0 : BitVec 16 := 0
  idx0 : BitVec 16 := 0
  wrap : W32 := 0
  store : BitVec 2 := 0
  start : W32 := 0
  deriving DecidableEq, Repr

/-- The scales the last NEWSC fold of a tile formed: significand product and term exponent per position and per row (R182). -/
structure FoldScales where
  pos : List (Nat × Int)
  row : List (Nat × Int)
  deriving DecidableEq, Repr

/-- One accumulator tile: chains (key 256·position + row), tag, sticky OVF, poison mark, long-accumulator elements by the
same key, the last fold's scales, the audit mask (R38, R54, R70, R84, R107, R182, R370), and latent bit errors as masks: of a chain
by its key, of the integer W of an element by 4,096 more (R268, R289, R652). -/
structure Tile where
  chains : SMap W32 := []
  tag : BitVec 8 := 0
  ovf : Bool := false
  mark : Nat := 0
  lacc : SMap LEl := []
  fold : Option FoldScales := none
  audit : Option (Nat × Nat × List Nat) := none
  errs : SMap Nat := []
  deriving DecidableEq, Repr

/-- The three stores an address can name (R117). -/
inductive StoreId where
  | loam
  | kaolin
  | table
  deriving DecidableEq, Repr

/-- One store: bytes, poison marks and line tags by row, latent bit errors by word as masks of flipped bits (R652), words
with a write-back pending (R285). Tags exist in Loam only. -/
structure Store where
  data : Memory := []
  marks : SMap Nat := []
  tags : SMap Nat := []
  errs : SMap Nat := []
  wb : List Nat := []
  deriving DecidableEq, Repr

/-- A write to a store: bytes at addresses, the format of its tag check, its poison mark, and whether one whole row is
written (R191, R287). -/
structure StoreW where
  store : StoreId
  bytes : List (Nat × Byte)
  fmt : Nat
  mark : Nat
  whole : Bool
  deriving DecidableEq, Repr

/-- What a slot operation leaves in flight until its latency has passed (R120). -/
inductive Res where
  | vec (r : Nat) (vals : List (Nat × W32))
  | scal (r : Nat) (v : W64)
  | pred (p : Nat) (v : W64)
  | ag (i : Nat) (a : Ag)
  | th (i : Nat) (v : BitVec 16)
  | set (base : Nat) (bytes : Bytes)
  | la (tile : Nat) (half : Nat) (clr : Bool) (deltas : List (Option Int))
  | fold (tile : Nat) (start : Bool) (terms : List (Int × Int))
  | merge (tile : Nat) (first : Nat) (recs : List LRec)
  | clear (tile : Nat)
  | store (w : StoreW)
  | acw (row : Nat) (w64 : Bool) (vals : List (Nat × Int)) (mark : Nat)
  deriving DecidableEq, Repr

/-- A result in flight: the schedule position at which it becomes visible, its issue position and slot; for a write to a store, the
position in which the store carries it out (R120, R121, R278). -/
structure Pend where
  due : Nat
  issued : Nat
  slot : Nat
  res : Res
  at_ : Nat := 0
  deriving DecidableEq, Repr

/-- What a store held before a write of the engine's own that it has carried out but does not see yet (R120): until when, whether the
write accumulated, and the old bytes and marks. -/
structure Shadow where
  due : Nat
  store : StoreId
  acw : Bool
  bytes : List (Nat × Byte)
  marks : List (Nat × Nat)
  deriving DecidableEq, Repr

/-- A loop in progress: first and last bundle of the body and iterations left after the current one (R206). -/
structure LoopSt where
  first : Nat
  last : Nat
  left : Nat
  deriving DecidableEq, Repr

/-- An expander context (R259 to R265): header facts, the next decoded byte, whether the block failed and with which
status-bearing mark, whether the checker still runs, the tiles that have read it, the schedule position from which an LA may read it
(R194), and the rows of the block read since it opened. -/
structure XCtx where
  opened : Bool := false
  failed : Bool := false
  raw : Bool := false
  layout : Nat := 0
  base : Nat := 0
  extent : Nat := 0
  tensorTag : Nat := 0
  blockIndex : Nat := 0
  pos : Nat := 0
  checking : Bool := false
  tiles : List Nat := []
  mark : Nat := 0
  readyAt : Nat := 0
  rows : List Nat := []
  deriving DecidableEq, Repr

/-- The output compressor's open tensor row (R238 to R247): control word, format, span bases of the eight positions, next
block number, and the elements held, eight positions at a time. -/
structure CmpRow where
  ctl : Nat
  ofmt : Nat
  bases : List Nat
  block : Nat
  held : List (List Int)
  mark : Nat
  lastN : Nat
  deriving DecidableEq, Repr

/-- What an engine's program sees and changes, bundle by bundle (R115); a fault in a bundle restores the value it had at
that bundle's issue (R154). -/
structure Core where
  pc : Nat := 0
  pos : Nat := 0
  branch : List (Nat × Nat) := []
  loops : List LoopSt := []
  /-- bundles that a LOOP of count 0 in the open bundle skips (R206) -/
  skip : Nat := 0
  pend : List Pend := []
  writes : List Nat := []
  occ : SMap Nat := []
  laTile : SMap Nat := []
  scal : SMap W64 := []
  vec : SMap W32 := []
  pred : SMap W64 := []
  th : SMap (BitVec 16) := []
  ag : SMap Ag := []
  tk : SMap (BitVec 16) := []
  tkSat : List Nat := []
  tiles : SMap Tile := []
  loam : Store := {}
  kaolin : Store := {}
  table : Store := {}
  x0 : XCtx := {}
  x1 : XCtx := {}
  cmp : Option CmpRow := none
  consumed : Nat := 0
  mcast : Option (Nat × Nat × Nat) := none
  /-- an XOPEN of this bundle that must wait for its context's checker: context and what the block's header gives (R261) -/
  xwait : Option (Nat × XCtx) := none
  ecc : Nat := 0
  issuedStores : Nat := 0
  /-- a format fence of this bundle: tiles, tile tag, first row, rows, line tag (R201) -/
  fence : Option (Nat × Nat × Nat × Nat × Nat) := none
  /-- own writes carried out and not yet seen by the engine (R120) -/
  shadow : List Shadow := []
  deriving DecidableEq, Repr

/-- One access on the engine port (R272, R275): bytes of one row, its place in the order of R272 (0 the expander, k + 1 slot k), whether it
writes, and the schedule positions of the access and of the bundle that made it. -/
structure Acc where
  store : StoreId
  row : Nat
  lo : Nat
  hi : Nat
  slot : Nat
  write : Bool
  at_ : Nat
  issued : Nat
  deriving DecidableEq, Repr

/-- A write on its way to another engine's store, or a token-carrying PEER part (R192, R193, R198). -/
inductive NetKind where
  | plain (w : StoreW)
  | acw (row : Nat) (w64 : Bool) (vals : List (Nat × Int)) (mark : Nat)
  deriving DecidableEq, Repr

/-- A write between engines on its way: sender, destination, work item, number, what it writes, the traffic class it travels in (R25), and
its place in the order in which messages entered the network. -/
structure NetW where
  src : Nat
  dst : Nat
  item : Nat
  seq : Nat
  kind : NetKind
  tc : Nat := 3
  sent : Nat := 0
  deriving DecidableEq, Repr

/-- A token on its way (R129): sender, destination, counter, increment, work item, traffic class and place among the messages sent. -/
structure TokenMsg where
  src : Nat
  dst : Nat
  tk : Nat
  inc : Nat
  item : Nat
  tc : Nat := 3
  sent : Nat := 0
  deriving DecidableEq, Repr

/-- An entry of the send queue (R131, R195): the store count it must wait for, and what it sends. -/
inductive SqKind where
  | token (dest : Nat) (tk : Nat) (inc : Nat)
  | dma (kind : Nat) (x0 x1 x2 x3 : W64) (tk inc : Nat) (mark : Nat)
  | qsend (x0 x1 x2 x3 : W64) (tk inc : Nat)
  | svsend (x0 x1 x2 x3 : W64) (tk inc : Nat)
  deriving DecidableEq, Repr

structure SqE where
  after : Nat
  kind : SqKind
  deriving DecidableEq, Repr

/-- How a DMA transfer in flight will end (R198): well, or without its token for the named reason. -/
inductive DmaFate where
  | good
  | hostWait
  | stalled (granule : Nat)
  | tagFail
  | index
  /-- the host read failed after its retry -/
  | hostFail
  /-- a granule it reads is quarantined or failed (R540) -/
  | refused
  /-- the head refused the host address -/
  | hostRange
  /-- a proxy message stayed undelivered -/
  | undelivered
  deriving DecidableEq, Repr

/-- A DMA transfer in flight (R132). -/
structure DmaRec where
  id : Nat
  kind : Nat
  x0 : W64
  x1 : W64
  x2 : W64
  x3 : W64
  tk : Nat
  inc : Nat
  mark : Nat
  fate : DmaFate
  /-- host data that has arrived: offset, bytes, poisoned -/
  buf : List (Nat × Bytes × Bool) := []
  /-- when it began to wait for a granule (R540) -/
  since : Nat := 0
  deriving DecidableEq, Repr

/-- Why an engine issues nothing although its program runs (R124). -/
inductive Hold where
  /-- a token wait: counter, threshold, decrement, and whether it is a waiting yield point -/
  | wait (tk thresh dec : Nat) (yield : Bool)
  /-- a full send queue, with the entry that waits for a place -/
  | queue (e : SqE)
  /-- 64 remote stores outstanding -/
  | stores
  /-- an XOPEN that waits for the checker of its context, with the block it opens -/
  | checker (xc : Nat) (x : XCtx)
  deriving DecidableEq, Repr

/-- An effect outside the engine that a bundle's operations leave until the bundle has issued whole. -/
inductive Staged where
  | status (st : Nat) (ev : Nat)
  | event (code : Nat) (detail : List (Nat × Nat))
  | count (off : Nat) (n : Nat)
  | normEl (idx : Nat) (j : Nat) (sq : Nat)
  | ovr (idx : Nat)
  | overspan
  | net (w : NetW)
  | audit (p : Nat) (tok : Nat) (audited misses : Nat)
  | skipTok (p : Nat) (tok : Nat) (skipped : Bool)
  | mset (base : Nat) (bytes : Bytes) (due : Nat)
  | queue (e : SqE)
  | hold (h : Hold)
  | finish
  deriving DecidableEq, Repr

/-- Where an engine's part of a work item stands. -/
inductive EState where
  | idle
  | running
  /-- END issued, outstanding work not yet complete (R203) -/
  | ending
  /-- at a yield point with suspension pending (R142) -/
  | yielded
  /-- its part is over, or it was stopped; the work item has not completed -/
  | done
  | clearing
  deriving DecidableEq, Repr

/-- One Trit Table Engine. -/
structure Engine where
  st : EState := .idle
  item : Nat := 0
  logical : Nat := 0
  core : Core := {}
  snap : Core := {}
  issued : List Instr := []
  acc : List Acc := []
  staged : List Staged := []
  /-- the bundle has issued whole; schedule cycles it takes (1, or 12 for a draining fence) -/
  closed : Option Nat := none
  yieldB : Nat := 0
  stall : Nat := 0
  redo : Bool := false
  /-- schedule cycles that a draining fence still takes (R655) -/
  bubbles : Nat := 0
  /-- cycles of the stall in progress that are accounted for already, and BUSY cycles of it so far (R124) -/
  held : Nat := 0
  cyc : Nat := 0
  /-- when the stall began (R156) -/
  holdAt : Nat := 0
  /-- the last bundle that issued was a yield point (R137) -/
  atYield : Bool := false
  /-- accumulate-on-writes to itself over the network that are not acknowledged: number and row (R109) -/
  selfAcw : List (Nat × Nat) := []
  /-- cycle of the last accesses on the external side, and those accesses: store, bank and source (R270, R273) -/
  extAt : Nat × Nat := (0, 0)
  extAcc : List (StoreId × Nat × Nat) := []
  /-- stall conditions in force; they extend a stall to the latest end among them (R124) -/
  hold : List Hold := []
  wd : Nat := 0
  queue : List SqE := []
  unacked : List Nat := []
  /-- acknowledgements on their way to it: number, sender, place among the messages sent -/
  acks : List (Nat × Nat × Nat) := []
  dma : List DmaRec := []
  nextDma : Nat := 0
  outstanding : Nat := 0
  /-- tenant the engine is bound to until it is cleared (R292, R623) -/
  bound : Option Nat := none
  /-- program image resident in the instruction store (R152) -/
  resident : Option Nat := none
  istoreErr : SMap Nat := []
  pool : Bool := false
  saves : List Nat := []
  satmap : Nat := 0
  scrubCe : List (Nat × Nat) := []
  /-- cleared since its stores last lost their contents or were reset (R292) -/
  clearedOnce : Bool := false
  /-- when clearing began, in unstretched time (R293, R575), and whether a quadrant reset asked for it (R596) -/
  clearAt : Nat := 0
  resetClr : Bool := false
  /-- clearing failed; no work until a quadrant reset completes a clear (R294) -/
  clrFail : Bool := false
  deriving DecidableEq, Repr

/-! ### Programs and work items (04, 12) -/

/-- The facts of a program image header that running it needs (R147). -/
structure Hdr where
  bundles : Nat := 0
  entry : Nat := 0
  logical : Nat := 1
  group : Nat := 0
  ymax : Nat := 0
  yframe : Nat := 0
  kNeed : Nat := 0
  lNeed : Nat := 0
  tNeed : Nat := 0
  deriving DecidableEq, Repr

/-- A yield descriptor (R148). -/
structure YDesc where
  bundle : Nat
  resume : Nat
  loamFirst : Nat
  loamRows : Nat
  liveTiles : Nat
  liveSets : Nat
  deriving DecidableEq, Repr

/-- A kept program image (R151). -/
structure Image where
  tenant : Nat
  bytes : Bytes
  deriving DecidableEq, Repr

/-- Where a work item stands. -/
inductive Phase where
  | waiting
  | running
  | suspending
  | suspended
  | stopping
  /-- every engine ended; serving commit, Quadrille or the norm watch may still be due -/
  | ended
  | complete
  deriving DecidableEq, Repr

/-- A predictor as a decision sees it (R366, R373). -/
structure PredView where
  mode : Nat
  fallen : Bool
  act : Nat
  fallback : Nat
  auditLog2 : Nat
  floor : Nat
  seed : Nat
  stream : Nat
  deriving DecidableEq, Repr

/-- A yield frame (R143): the logical engine, the engine whose area holds it, its registers and live state, the wait it stands
at, whether the engine's part was over. -/
structure Frame where
  logical : Nat
  owner : Nat
  core : Core
  hold : List Hold
  ending : Bool
  /-- the yield descriptor it was saved by -/
  y : YDesc
  deriving DecidableEq, Repr

/-- How an entry of a batch table stands after the commit point (R488, R489). -/
inductive Dec where
  | undecided
  /-- waits for a sampling lane -/
  | sample
  /-- no record -/
  | silent
  /-- a record of a token, finish and modifier FINAL -/
  | rec_ (token finish : Nat) (final : Bool)
  | written
  deriving DecidableEq, Repr

/-- An entry of a SERVE work item's batch table (R478): slot, flags, input tokens, the number of its sequence, and the logit
parts received as (first token, codes) (R486). -/
structure SEntry where
  slot : Nat
  flags : Nat
  ntok : Nat
  seq : Nat
  parts : List (Nat × List Nat) := []
  dec : Dec := .undecided
  deriving DecidableEq, Repr

/-- The serving side of a work item: phase, vocabulary, entries, and its place in commit order once committed (R477, R487). -/
structure ServeSt where
  prefill : Bool
  vocab : Nat
  entries : List SEntry
  commit : Option Nat := none
  deriving DecidableEq, Repr

/-- A work item of a channel, or the expert work of one instance and slot (R351, R452). -/
structure WorkItem where
  chan : Nat := 0
  tenant : Nat := 0
  tc : Nat := 3
  step : Nat := 0
  desc : Nat := 0
  epoch : Nat := 0
  phase : Phase := .waiting
  engines : List Nat := []
  image : Nat := 0
  hdr : Hdr := {}
  yds : List YDesc := []
  params : List Nat := []
  satmap : Nat := 0
  ordered : Bool := false
  irq : Bool := false
  srv : Option ServeSt := none
  barrier : Option (Nat × Nat) := none
  barWait : Bool := false
  tensors : Nat := 0
  routing : Nat := 0
  /-- of the routing table, as validated: EXPERTS by layer, STEP_TOKENS, REPORT_IOVA (R335 to R337) -/
  experts : List Nat := []
  stepTokens : Nat := 0
  repIova : Nat := 0
  service : Nat := 0
  statuses : List (Nat × Nat) := []
  overspan : Bool := false
  rerouted : Bool := false
  raced : List Nat := []
  sated : List Nat := []
  normSq : List (Nat × Nat × Nat) := []
  normOver : List Nat := []
  normDone : List Nat := []
  /-- audits: predictor, token index, elements audited and missed (R370, R371) -/
  audits : List (Nat × Nat × Nat × Nat) := []
  skips : List (Nat × Nat × Bool) := []
  yieldAt : Nat := 0
  announced : Nat := 0
  started : Nat := 0
  /-- throttled time of the module when the item started (R574) -/
  thr0 : Nat := 0
  /-- since when its engines run, and how long they had run before the last suspension (R499, R501) -/
  runAt : Nat := 0
  ran : Nat := 0
  /-- expert work: predictor number and the row the bundle carried (R373) -/
  predRow : Option (Nat × PredView) := none
  frames : List Frame := []
  /-- predictors whose window holds this step (R371) -/
  evald : List Nat := []
  /-- predictors of the returned pairs, one entry a pair (R371) -/
  retPairs : List Nat := []
  /-- expert work: the job it runs -/
  job : Option Nat := none
  /-- routing report entries of closed layers (R363): layer, selected, overflow, unreachable, timeout, skipped tokens -/
  report : List (Nat × Nat × Nat × Nat × Nat × List Nat) := []
  /-- indices of the channel's watch points that this step can write (R228) -/
  normMay : List Nat := []
  /-- TC0: reference point of the bound, whether the start was within share, and whether the conditions of the bound held then
  (R502, R504, R505) -/
  refAt : Nat := 0
  inShare : Bool := false
  boundOk : Bool := false
  /-- its engines were stopped (R154) -/
  stopped : Bool := false
  /-- when its last engine ended -/
  endedAt : Nat := 0
  /-- deadline of its barrier in Pavane time; once released, the time of the release (R418, R419, R505) -/
  barDeadline : Nat := 0
  deriving DecidableEq, Repr
/-! ### Module memory (09, 15) -/

/-- An entry of a write-combining buffer (R317): line number, bytes written by offset, mark, allocation time. -/
structure Wcb where
  line : Nat
  bytes : List (Nat × Byte)
  mark : Nat
  time : Nat
  deriving DecidableEq, Repr

/-- The stacks' contents: data, line marks and symbol errors by line number (masks of flipped bits over the 68 symbols),
granule owners, the write-combining buffers, queued line writes by MCH (32·stack + MCH), the time of each stack's last request,
and the spare lanes left are in the MEM registers (R299 to R328). -/
structure Mem where
  data : Memory := []
  marks : SMap Nat := []
  errs : SMap Nat := []
  owner : SMap Nat := []
  wcb : List Wcb := []
  wq : SMap Nat := []
  lastReq : SMap Nat := []
  zeroing : List Nat := []
  caErr : SMap Nat := []
  banks : SMap Nat := []
  calAt : SMap Nat := []
  deriving DecidableEq, Repr

/-- A reloadable region (R537): its granules and its source. -/
structure Region where
  first : Nat
  count : Nat
  source : Nat
  peerRack : Nat
  peerModule : Nat
  src : Nat
  tenant : Nat
  deriving DecidableEq, Repr

/-- A granule of a reloadable region (R538, R541): state code, reference checksum, refill attempts made, when the next may
start, admin COPYs into it in progress, whether the source data of the running attempt failed. -/
structure Gran where
  code : Nat
  crc : Nat
  tries : Nat := 0
  retryAt : Option Nat := none
  copies : Nat := 0
  failed : Bool := false
  written : Bool := false
  deriving DecidableEq, Repr


/-! ### Streams and predictors (03, 10) -/

/-- An entry of a tenant's stream registry (R102); `handle` is none for a stream the module registered itself. -/
structure StreamE where
  handle : Option Nat
  id : Nat
  seed : Nat
  shared : Bool
  offset : Nat
  length : Nat
  /-- a DEREG_STREAM was read; the entry goes when its last work item ends (R105) -/
  leaving : Bool := false
  deriving DecidableEq, Repr

/-- A predictor's entry, state and window (R365, R371). -/
structure Pred where
  mode : Nat := 0
  act : Nat := 3
  fallback : Nat := 1
  auditLog2 : Nat := 6
  floor : Nat := 0x4000
  limit : Nat := 500
  seed : Nat := 0
  fallen : Bool := false
  tokens : Nat := 0
  audited : Nat := 0
  misses : Nat := 0
  deriving DecidableEq, Repr
/-! ### Host interface (12) -/

/-- A fetched descriptor (R451): its number, 64 bytes, 256-byte argument entry, and when the watcher announced it. -/
structure Desc where
  seq : Nat
  bytes : Bytes
  args : Bytes
  announced : Nat
  deriving DecidableEq, Repr

/-- States of a channel other than FREE (R444). -/
inductive ChState where
  | active
  | halted
  | error
  | destroying
  deriving DecidableEq, Repr

/-- A completion record waiting to be written, with what signals its vector (R457, R460, R461). -/
structure Rec where
  bytes : Bytes
  irq : Bool
  deriving DecidableEq, Repr

/-- A channel of this module (R439 to R460); the admin channel is channel 0 of the head. -/
structure Chan where
  st : ChState := .active
  cause : Nat := 0
  gen : Nat := 0
  tenant : Nat := 0
  sq : Nat := 0
  cq : Nat := 0
  cb : Nat := 0
  arg : Nat := 0
  sqLog : Nat := 4
  cqLog : Nat := 4
  tc : Nat := 1
  /-- ATTR: [0] ORDER, [1] EXPERT_POLICY, [2] POISON_POLICY -/
  attr : Nat := 0
  vector : Option Nat := none
  share : Nat := 0
  piLast : Nat := 0
  /-- descriptors asked for and not yet arrived -/
  asked : Nat := 0
  sqCi : Nat := 0
  epoch : Nat := 0
  cqPi : Nat := 0
  cqCi : Nat := 0
  fetched : List Desc := []
  steps : Nat := 0
  recs : List Rec := []
  fullSince : Option Nat := none
  announced : Nat := 0
  /-- sequence number and flags of the DESTROY descriptor that ends it -/
  destroy : Option (Nat × Nat) := none
  /-- TC0: the reservation bucket in millionths of an engine-µs, when it was brought up to date, and the last TC0_OVER_SHARE (R502) -/
  bucket : Nat := 0
  bucketAt : Nat := 0
  overAt : Option Nat := none
  /-- start of the last work item (R505) -/
  lastStart : Nat := 0
  deriving DecidableEq, Repr

/-- The head's doorbell watcher over one open channel of the domain (R448): control block, class, poll interval, whether a
read is under way. -/
structure Watch where
  handle : Nat
  cb : Nat
  tc : Nat
  tenant : Nat := 255
  interval : Nat := 250
  reading : Bool := false
  last : Nat := 0
  word : Nat := 0
  deriving DecidableEq, Repr

/-- An event ring (R468). -/
structure Ring where
  iova : Nat
  ciIova : Nat
  log2 : Nat
  vector : Option Nat
  pi : Nat := 0
  ci : Nat := 0
  lost : Bool := false
  deriving DecidableEq, Repr

/-- Who waits for a host read (R474). -/
inductive ReadWho where
  | dma (e id : Nat)
  | doorbell (key : Nat)
  | desc (chan n : Nat)
  | copy (id : Nat)
  | refill (granule : Nat)
  | proxy (member tag : Nat)
  | args (chan n : Nat)
  /-- the CQ_CI word of a channel's control block -/
  | cqci (chan : Nat)
  /-- the admin descriptor being carried out -/
  | admin
  deriving DecidableEq, Repr

/-- A host read on its way. -/
structure ReadReq where
  who : ReadWho
  iova : Nat
  len : Nat
  /-- offset of this part within the transfer -/
  off : Nat := 0
  deriving DecidableEq, Repr

/-- A message handed to the transport or delivered by it (R393); addresses are 64·rack + module. -/
structure Msg where
  kind : Nat
  tc : Nat
  peer : Nat
  flow : Nat
  tenant : Nat
  body : Bytes
  deriving DecidableEq, Repr

/-- An interrupt vector's moderation (R461): the time of its last message, and whether one is due. -/
structure Vec where
  last : Option Nat := none
  due : Bool := false
  deriving DecidableEq, Repr


/-- A COPY under way (R464, R465): its descriptor, the member that carries it out, whether the next descriptors wait for it, and
whether its transfer has begun. -/
structure CopySt where
  d : Desc
  member : Nat
  ordered : Bool
  begun : Bool := false
  deriving DecidableEq, Repr
/-! ### Fabric view and routes (11) -/

/-- What a module knows of the fabric (R400): for each module of its rack the ports that carry traffic, the modules passed by,
circuits down (4·rack + circuit), and what modules of other racks report to have no route to in their rack
(128·(64·rack + reporter) + 2·module + parity of the flow). -/
structure View where
  up : SMap Nat := []
  dark : List Nat := []
  circDown : List Nat := []
  far : List Nat := []
  deriving DecidableEq, Repr

/-- The route and circuit tables in force: the view they were computed from, the admitted detours (6·module + direction), and
the circuit plan (R402, R403, R466). -/
structure Tables where
  view : View := {}
  detours : List Nat := []
  plan : Bytes := []
  deriving DecidableEq, Repr

/-! ### Quadrille (10) -/

/-- Where an admitted pair stands (R342 to R361). -/
inductive PairSt where
  | admitted
  | sent
  | returned
  /-- its row is written -/
  | merged
  | unreachable
  | missing
  deriving DecidableEq, Repr

/-- An admitted pair: token, global expert, score, gate weight, map entry, destination (64·rack + module) and slot once chosen,
and its return. -/
structure QPair where
  tok : Nat
  gid : Nat
  score : Nat
  w : Nat
  entry : Nat
  dest : Nat := 0
  slot : Nat := 0
  st : PairSt := .admitted
  row : List Nat := []
  status : Nat := 0
  flags : Nat := 0
  ssq : Nat := 0
  aud : Nat := 0
  miss : Nat := 0
  /-- tick at which the return arrived (R362) -/
  at_ : Nat := 0
  deriving DecidableEq, Repr

/-- A buffer that the origin holds for a return, by the fields that match it, with its size (R353, R361). -/
structure RetBuf where
  handle : Nat
  step : Nat
  epoch : Nat
  layer : Nat
  tok : Nat
  gid : Nat
  size : Nat
  deriving DecidableEq, Repr

/-- The tokens of one QSEND: its logical engine, first token, count, and the tokens whose rows are written (R338, R355). -/
structure QPart where
  logical : Nat
  t0 : Nat
  n : Nat
  done : List Nat := []
  deriving DecidableEq, Repr

/-- A selection instance (R334). -/
structure Inst where
  chan : Nat
  item : Nat
  tenant : Nat
  tc : Nat
  handle : Nat
  step : Nat
  layer : Nat
  epoch : Nat
  lrec : Bytes
  tokens : Nat
  opened : Nat
  scores : SMap (List Nat) := []
  parts : List QPart := []
  admitted : Bool := false
  pairs : List QPair := []
  deadline : Option Nat := none
  /-- throttled time when the deadline was set (R575) -/
  thr0 : Nat := 0
  selected : Nat := 0
  ovr : Nat := 0
  unr : Nat := 0
  tmo : Nat := 0
  skipped : List Nat := []
  /-- the layer's predictor as resolved for the step (R373) -/
  view : Option Pred := none
  deriving DecidableEq, Repr

/-- A QSEND or SVSEND that has left its engine's send queue and waits for its unit. -/
structure UnitReq where
  eng : Nat
  item : Nat
  x0 : W64
  x1 : W64
  x2 : W64
  x3 : W64
  tk : Nat
  inc : Nat
  deriving DecidableEq, Repr

/-- A pair to run at a destination: token, global expert, input row (R350). -/
structure JobPair where
  tok : Nat
  gid : Nat
  input : Bytes
  deriving DecidableEq, Repr

/-- Expert work: the pairs of one instance and slot (R351), with the bundle header that names the instance. -/
structure Job where
  hdr : Bytes
  slot : Nat
  origin : Nat
  pairs : List JobPair
  item : Option Nat := none
  deriving DecidableEq, Repr

/-- An expert slot table entry (R351, R465). -/
structure ExpSlot where
  tenant : Nat
  prog : Nat
  tensors : Nat
  satmap : Nat
  deriving DecidableEq, Repr


/-! ### Norm watch and serving (06, 13) -/

/-- The state of a watch point (R230). -/
structure NwSt where
  m : Nat := 0x4000
  lastMs : Nat := 0x4000
  updates : Nat := 0
  jumps : Nat := 0
  jumpStep : Nat := 0
  deriving DecidableEq, Repr

/-- An open sequence (R476): its number, parameter record, generated count, last committed token, matcher states, cancel mark. -/
structure Seq where
  id : Nat
  spr : Bytes
  n : Nat := 0
  last : Option Nat := none
  autos : List Nat := [0, 0, 0, 0]
  cancel : Bool := false
  deriving DecidableEq, Repr

/-! ### Ports, link retry and transport (11) -/

/-- A DATA flit of a replay buffer: what a resend repeats (R388, R389). -/
structure Flit where
  seq : Nat
  vc : Nat
  som : Bool
  eom : Bool
  payload : Bytes
  deriving DecidableEq, Repr

/-- A message waiting at a port, or partly sent: its VC, traffic class, and the bytes still to send (R393, R395). -/
structure TxMsg where
  vc : Nat
  tc : Nat
  bytes : Bytes
  started : Bool := false
  deriving DecidableEq, Repr

/-- A PAVANE flit to send: request or response, exchange number, timestamps T1, T2 and T4 (R415). -/
structure PavTx where
  resp : Bool
  xseq : Nat
  t1 : Nat
  t2 : Nat
  t4 : Nat
  deriving DecidableEq, Repr

/-- A port (R384 to R399): light, replay buffer and retry state of both directions, credits, messages in both directions, fault
injection, and the Pavane exchange. State, lanes and peer are in FAB_PORT_STATUS. -/
structure Port where
  light : Bool := false
  replay : List Flit := []
  nextSeq : Nat := 0
  /-- SEQ of the next flit to resend -/
  rewind : Option Nat := none
  /-- resends of the oldest flit without ACK progress -/
  tries : Nat := 0
  ackAt : Nat := 0
  expect : Nat := 0
  /-- when a NACK was last sent since the last accepted flit -/
  nackAt : Option Nat := none
  nackDue : Bool := false
  /-- ACK of a NACK received and not yet acted on -/
  nackIn : Option Nat := none
  /-- credits per VC, and credits to return -/
  credit : SMap Nat := []
  owe : SMap Nat := []
  txq : List TxMsg := []
  rx : SMap Bytes := []
  wrr : SMap Nat := []
  downAt : Option Nat := none
  auth : Nat := 0
  /-- DATA flits transmitted since injection was armed, and messages held by the reordering -/
  dropCnt : Nat := 0
  flipCnt : Nat := 0
  held : List (Nat × Bytes) := []
  /-- size of the reordering window in progress -/
  win : Nat := 0
  injRaised : Bool := false
  slots : Nat := 0
  /-- lanes that have returned and join at the next 5-flit boundary (R384) -/
  joining : BitVec 8 := 0
  pavOut : Option PavTx := none
  pavIn : Option (Bytes × Nat) := none
  xseq : Nat := 0
  t4 : Nat := 0
  deriving DecidableEq, Repr

/-- A message kept until it is acknowledged (R397): its sequence number, when it was last sent, resends so far. -/
structure Unacked where
  mseq : Nat
  msg : Msg
  sentAt : Nat
  tries : Nat := 0
  deriving DecidableEq, Repr

/-- A barrier at its root (R418, R419): current sequence number, arrivals, whether it has ended. -/
structure Barrier where
  seq : Nat
  arrived : List Nat
  ovr : Bool := false
  deriving DecidableEq, Repr

/-- A chunk of a collective at its owner or receiver (R420 to R422): the parts by rank in order of arrival, and the reduced bytes. -/
structure Coll where
  parts : List (Nat × Bytes) := []
  result : Option Bytes := none
  mark : Nat := 0
  item : Option Nat := none
  deriving DecidableEq, Repr

/-- The Pavane discipline (R414 to R417): eighths of a tick, eighths left to steer out, good offsets in a row, whether the alternate
parent is followed, and T1, T2 and T3 of the previous exchange with its number. -/
structure Pavane where
  frac : Nat := 0
  steer : Int := 0
  good : Nat := 0
  alt : Bool := false
  prev : Option (Nat × Nat × Nat × Nat) := none
  deriving DecidableEq, Repr

/-! ### Power, bring-up, domain and management (15 to 19) -/

/-- Supply, limiter and thermal control (R564 to R584, R636): what PWR registers do not hold. -/
structure Supply where
  /-- samples of the last 100 ms: time, mV, A, newest first -/
  samples : List (Nat × Nat × Nat) := []
  /-- since when the power is above CAP -/
  capSince : Option Nat := none
  /-- since when the rail is above 1.73 V during a warning -/
  clearAt : Option Nat := none
  rampAt : Option Nat := none
  /-- onset of the throttled interval and the lowest rail in it -/
  onset : Nat := 0
  low : Nat := 0
  /-- PWR_WARN_N, THERM_TRIP_N and FAST_OFF_N asserted -/
  warnPin : Bool := false
  tripPin : Bool := false
  fastPin : Bool := false
  /-- quadrant and network clocks stopped by a trip -/
  clocksOff : Bool := false
  capHold : Bool := false
  thermHold : Bool := false
  /-- ceilings of the limiter and of thermal control by quadrant, in 10 MHz units -/
  limCeil : SMap Nat := []
  thermCeil : SMap Nat := []
  /-- when the thermal ceilings of a die last rose -/
  roseAt : SMap Nat := []
  temps : List Nat := []
  /-- since when inlet above 45 °C or flow below 1.5, inlet above 50 °C, flow below 1.0 L/min -/
  hotAt : Option Nat := none
  inTripAt : Option Nat := none
  flowTripAt : Option Nat := none
  coolantBad : Bool := false
  /-- nanoseconds of the running µs with starts held -/
  holdNs : Nat := 0
  /-- an event of class 0x6 since the last GET_STATUS, and the latest one's code -/
  pwrEvent : Bool := false
  lastEvent : Nat := 0
  deriving DecidableEq, Repr

/-- Rails, resets, host link, boot and fuses (R550 to R553, R589 to R596, R637). -/
structure Boot where
  sb : Bool := false
  sbAt : Nat := 0
  /-- when the boot ROM started -/
  startAt : Nat := 0
  powerRst : Bool := true
  modRst : Bool := false
  perst : Bool := false
  hostUp : Bool := false
  hostAt : Nat := 0
  /-- configuration space and BAR0 are served (step 5 of R594) -/
  bar0 : Bool := false
  memDone : Bool := false
  fabDone : Bool := false
  /-- when the by-pass switches reached through -/
  throughAt : Option Nat := none
  checkA : Nat := 0
  checkB : Nat := 0
  /-- neither copy was accepted -/
  failed : Bool := false
  /-- COMMIT_SVN of the running manifest -/
  commit : Bool := false
  /-- the pools have been set since the ROM started -/
  pooled : Bool := false
  /-- fuses that change: REVOKE, and the count of set bits of SVN_MIN -/
  revoke : Nat := 0
  svnMin : Nat := 0
  deriving DecidableEq, Repr

/-- A member's flooded message (R601): record bytes 0x00 to 0x1B, host link, entry into DOMAIN, when the link state was taken, and
when the first of its messages since that entry reported the link up. -/
structure DomMsg where
  record : Bytes
  link : Bool
  entered : Nat
  taken : Nat
  upAt : Option Nat
  deriving DecidableEq, Repr

/-- Domain formation (R600 to R602): the record's sector in flash, messages by member, own entry into DOMAIN, head decided, retry,
and since when members cannot be reached. -/
structure Domain where
  sector : Option Bytes := some (List.replicate 32 0xFF)
  msgs : SMap DomMsg := []
  entered : Option Nat := none
  head : Option Nat := none
  retryAt : Option Nat := none
  ownDone : Nat := 0
  unreach : SMap Nat := []
  deriving DecidableEq, Repr

/-- The management target and unlocks (R555, R639 to R641): dynamic address, domain write in progress, a drawn nonce with its scope
and time, until when challenges are refused, alert causes already signalled in band. -/
structure Mgmt where
  dyn : Option Nat := none
  writing : Option Bytes := none
  nonce : Option (Nat × Bytes × Nat) := none
  blocked : Nat := 0
  seen : Nat := 0
  deriving DecidableEq, Repr


/-! ### What the module sends -/

/-- An event record (R467). -/
structure Ev where
  code : Nat
  handle : Nat
  tenant : Option Nat
  time : Nat
  detail : Bytes
  deriving DecidableEq, Repr

/-- Everything the module sends to its surroundings, in order. -/
inductive Out where
  | hostWrite (iova : Nat) (data : Bytes)
  | hostRead (tag iova len : Nat)
  | msix (vector : Nat)
  /-- a request to enter ASPM L1 (R432) -/
  | l1Request
  /-- a flit on a lane of a port (R382, R385) -/
  | flit (port lane : Nat) (bytes : Bytes)
  /-- completion of a BAR0 read, of another accepted access, and an Unsupported Request (R431, R610) -/
  | regData (requester offset len value : Nat)
  | unsupported (offset len : Nat)
  /-- response bytes of the management target, an in-band interrupt, and a JTAG answer (R554, R639, R640) -/
  | mgmt (bytes : Bytes)
  | inBand (causes : Nat)
  | jtag (accepted : Bool) (bytes : Bytes)
  deriving DecidableEq, Repr

/-- The state of the module. -/
structure State where
  pending : List Instr := []
  now : Nat := 1
  freeCtr : Nat := 0
  out : List Out := []
  pav : Nat := 0
  eng : SMap Engine := []
  images : SMap Image := []
  items : SMap WorkItem := []
  nextItem : Nat := 1
  /-- writes between engines on their way (R192) -/
  net : List NetW := []
  /-- tokens between engines on their way (R129) -/
  tokens : List TokenMsg := []
  /-- messages that entered the on-die networks so far, and the last class and source served of each path (R25) -/
  netSent : Nat := 0
  netWrr : SMap Nat := []
  netLast : SMap Nat := []
  mem : Mem := {}
  /-- stored registers and counters by BAR0 offset (18) -/
  regs : SMap W64 := []
  evHeld : List Ev := []
  evLost : Bool := false
  /-- stream registries: tenant × 1024 + entry (R102) -/
  streams : SMap StreamE := []
  /-- predictors: channel × 64 + p (R365) -/
  preds : SMap Pred := []
  chans : SMap Chan := []
  /-- generation counts by channel index (R440) -/
  gens : SMap Nat := []
  watch : SMap Watch := []
  rings : SMap Ring := []
  reads : SMap ReadReq := []
  nextTag : Nat := 1
  vecs : SMap Vec := []
  /-- messages handed to the transport, in order -/
  outbox : List Msg := []
  regions : SMap Region := []
  grans : SMap Gran := []
  rack : Nat := 0
  view : View := {}
  tables : Tables := {}
  /-- selection instances by number (R334) -/
  insts : SMap Inst := []
  nextInst : Nat := 1
  qwait : List UnitReq := []
  rbufs : List RetBuf := []
  jobs : SMap Job := []
  nextJob : Nat := 1
  slots : SMap ExpSlot := []
  /-- messages delivered to their units, in order -/
  inbox : List Msg := []
  /-- telemetry amounts gathered since the last published snapshot, by TLM offset (R625) -/
  tlmAcc : SMap Nat := []
  /-- norm watch: configuration words that differ from the default, and states, by 256·channel + index (R222, R229) -/
  nwCfg : SMap Nat := []
  nwSt : SMap NwSt := []
  /-- open sequences by 16,384·channel + slot (R476) -/
  seqs : SMap Seq := []
  nextSeq : Nat := 1
  nextCommit : Nat := 1
  /-- the last 64 work items of each pool: engine-µs and input tokens (R499) -/
  decHist : List Nat := []
  preHist : List (Nat × Nat) := []
  /-- nanoseconds of throttled intervals so far, and whether one runs (R574) -/
  thr : Nat := 0
  throttling : Bool := false
  /-- nanoseconds of FAST_OFF_N freezes so far (R575, R577) -/
  frz : Nat := 0
  /-- when a quadrant entered its power state (R569) -/
  qSince : SMap Nat := []
  /-- engine-µs started by traffic class, and the channel last served in each class (R501) -/
  wrr : SMap Nat := []
  lastCh : SMap Nat := []
  /-- engine moves still scheduled, and whether toward the decode pool (R499) -/
  moves : Nat := 0
  movesUp : Bool := false
  /-- quadrants that the dispatcher has asked to wake (R128, R568) -/
  wakeReq : List Nat := []
  /-- data of host reads that came back through the proxy: who waits, offset, outcome (R470, R471) -/
  arrived : List (ReadWho × Nat × HostRead) := []
  /-- the admin descriptor that another member carries out (R443, R463) -/
  admFwd : Option Nat := none
  copies : SMap CopySt := []
  /-- wake queues by member: channel keys (R449) -/
  wakeq : SMap (List Nat) := []
  /-- link and device power: L1 requested, D3hot, time of the last host traffic (R432) -/
  l1 : Bool := false
  d3hot : Bool := false
  lastHost : Nat := 0
  /-- HIF_CTRL.ADMIN_EN held until readiness (R595) -/
  admHeld : Bool := false
  /-- tenants whose granules are still being zeroed after a disable, and tenants to be enabled once that is over (R438, R621) -/
  tenGone : SMap (List Nat) := []
  tenWant : List Nat := []
  /-- key and salt of the uplink ports, and message counters: 2·port for sending, 2·port + 1 for receiving (R399) -/
  keys : SMap Bytes := []
  nonces : SMap Nat := []
  /-- a circuit plan loaded and not yet in force (R400, R466) -/
  planNext : Option Bytes := none
  /-- barrier groups met in work items: member modules, the root first (R418) -/
  groups : SMap (List Nat) := []
  /-- the repair record: 32·stack + MCH (R315) -/
  repair : List Nat := []
  ports : SMap Port := []
  /-- whole messages received by ports, as (port, VC, bytes), and acknowledgements received -/
  rxMsgs : List (Nat × Nat × Bytes) := []
  acksIn : List Msg := []
  /-- MSEQ of the next message by flow of this source, and the messages not yet acknowledged (R394, R397) -/
  txSeq : SMap Nat := []
  unacked : List Unacked := []
  /-- next MSEQ expected by flow, and messages held until a gap fills (R394) -/
  rxSeq : SMap Nat := []
  rxHeld : List (Nat × Nat × Msg) := []
  /-- messages discarded for their hop count, and for their tenant (R393, R396) -/
  hopDrop : Nat := 0
  tenantDrop : Nat := 0
  /-- a state change still to flood, and a view change still to act on (R400) -/
  floodDue : Bool := false
  viewDue : Bool := false
  /-- by-pass switches on their way: target and when they started; a through command that waits for the capacitor; the BYP_STATE
  pin (R408, R409) -/
  bypMove : Option (Bool × Nat) := none
  bypWait : Bool := false
  bypPin : Bool := true
  pavane : Pavane := {}
  bars : SMap Barrier := []
  /-- releases received: group, sequence number, release time; releases that came late (R418) -/
  releases : List (Nat × Nat × Nat) := []
  lateRel : Nat := 0
  colls : SMap Coll := []
  supply : Supply := {}
  boot : Boot := {}
  dom : Domain := {}
  mgmt : Mgmt := {}
  /-- memory keys drawn so far (R312) -/
  keyDraws : Nat := 0
  /-- the key of module memory (R312): its two halves, that of the data low -/
  memKey : Nat := 0
  /-- MCHs, 32·stack + MCH, that fail their next training after a second command/address parity error (R298) -/
  caFail : List Nat := []
  /-- quadrants whose PLL lost lock, and engines whose clearing failed in a quadrant reset (R587, R596) -/
  pllLost : List Nat := []
  clrDead : List Nat := []
  /-- by 1024·activity + unit: start of the pass or time of the last slot of background work; those in their slice (R544, R545) -/
  bgAt : SMap Nat := []
  bgSlice : List Nat := []
  /-- upper halves latched, by 16·requester + block: offset, value, time; lower halves written, by 2^24·requester + offset (R611) -/
  halfRd : SMap (Nat × Nat × Nat) := []
  halfWr : SMap Nat := []
  /-- blocks that have raised LOCK_VIOLATION since their register was read (R616) -/
  lockvSeen : List Nat := []
  /-- time of the last published snapshot, and the engine totals then, by TLM offset (R625, R627) -/
  tlmAt : Nat := 0
  tlmBase : SMap Nat := []
  deriving DecidableEq, Repr

/-- The module right after a standby reset, with the 3.3 V rail still down and the power reset held (R589, R590; log 3). -/
def State.reset : State := {}

end Sys2Proof.Machine
end

