-- ==== Sys2Proof/Machine/Event.lean ====
section
/-! DEFINITION. State accessors, setup registers and counters, host writes, interrupt signals, and event records (R437, R461,
R467 to R470, R605). -/

namespace Sys2Proof.Machine

/-! ### State accessors -/

def State.engine (s : State) (e : Nat) : Engine := SMap.get s.eng e {}
def State.setEngine (s : State) (e : Nat) (x : Engine) : State := { s with eng := SMap.set s.eng e x }
def State.item (s : State) (i : Nat) : WorkItem := SMap.get s.items i {}
def State.setItem (s : State) (i : Nat) (x : WorkItem) : State := { s with items := SMap.set s.items i x }
def State.chan (s : State) (i : Nat) : Chan := SMap.get s.chans i {}
def State.setChan (s : State) (i : Nat) (x : Chan) : State := { s with chans := SMap.set s.chans i x }
def State.emit (s : State) (o : Out) : State := { s with out := s.out ++ [o] }
/-- A fresh index for a free value. -/
def State.fresh (s : State) : Nat × State := (s.freeCtr, { s with freeCtr := s.freeCtr + 1 })

/-- The stored value of the register at a BAR0 offset. -/
def State.reg (s : State) (off : Nat) : W64 := SMap.get s.regs off (resetVal off)
/-- Set a stored register; a value equal to the reset value is not listed. -/
def State.setReg (s : State) (off : Nat) (v : W64) : State :=
  { s with regs := if v = resetVal off then SMap.erase s.regs off else SMap.set s.regs off v }

/-- Add to a 48-bit counter that wraps (R156, R295). -/
def State.count (s : State) (off n : Nat) : State :=
  s.setReg off (BitVec.ofNat 64 (((s.reg off).toNat + n) % 2 ^ 48))

/-- Write bits `lo … lo + len - 1` of a register. -/
def setBits (v : W64) (lo len x : Nat) : W64 :=
  BitVec.ofNat 64 (v.toNat - bits v.toNat lo len * 2 ^ lo + x % 2 ^ len * 2 ^ lo)

def State.setField (s : State) (off lo len x : Nat) : State := s.setReg off (setBits (s.reg off) lo len x)
def State.getField (s : State) (off lo len : Nat) : Nat := bits (s.reg off).toNat lo len

/-! ### Registers that other units use -/

def rPHASE : Nat := 0x20
def rRESET_CAUSE : Nat := 0x28
def rADMIN_STATUS : Nat := 0x20028
def rDOMAIN_MEMBERS : Nat := 0x20030
def rDOMAIN_CFG : Nat := 0x20038
def rDESC_REJECT : Nat := 0x20048
def rHOST_TIMEOUT : Nat := 0x20050
def rWAKE_DROP : Nat := 0x20058
def rEVENT_LOST : Nat := 0x20060
def tenOff (t w : Nat) : Nat := 0x31000 + 0x200 * t + w
def rRAS_CTRL : Nat := 0xC0000
def rRAS_STATUS : Nat := 0xC0008

/-- Own member index and the head's (R434). -/
def State.self (s : State) : Nat := s.getField rDOMAIN_CFG 8 6
def State.headIx (s : State) : Nat := s.getField rDOMAIN_CFG 0 6
/-- This module is the head of its domain (GLB_STATUS.HEAD, R607). -/
def State.isHead (s : State) : Bool := decide (s.getField rPHASE 4 1 = 1)
/-- HIF_DOMAIN_CFG.FORMED. -/
def State.formed (s : State) : Bool := decide (s.getField rDOMAIN_CFG 14 1 = 1)
def State.fatal (s : State) : Bool := decide (s.getField rRAS_STATUS 0 1 = 1)
def State.tenantEnabled (s : State) (t : Nat) : Bool := decide (t < 64) && decide (s.getField (tenOff t 0) 0 1 = 1)

/-- Add to an amount of the running telemetry interval (R625). -/
def State.tlm (s : State) (off n : Nat) : State :=
  { s with tlmAcc := SMap.set s.tlmAcc off (SMap.get s.tlmAcc off 0 + n) }

/-- Background work of an activity on a unit is within its schedule again (R544, R545): 0 Kaolin scrub, 1 patrol scrub, 2 calibration,
3 ring tuning, 4 telemetry. -/
def State.bgDone (s : State) (a u : Nat) : State :=
  { s with bgAt := SMap.set s.bgAt (1024 * a + u) s.now, bgSlice := s.bgSlice.filter (· != 1024 * a + u) }

/-! ### Host accesses (R437, R469, R470) -/

/-- Whether `n` bytes from an IOVA lie in one enabled window of a tenant (R437, R621). -/
def State.inWindow (s : State) (t iova n : Nat) : Bool :=
  (List.range 16).any (fun w =>
    let base := bits (s.reg (tenOff t (0x100 + 16 * w))).toNat 12 52 * 4096
    let size := bits (s.reg (tenOff t (0x108 + 16 * w))).toNat 0 52 * 4096
    decide (size ≠ 0 ∧ base + size ≤ 2 ^ 64 ∧ base ≤ iova ∧ iova + n ≤ base + size))

def State.send (s : State) (m : Msg) : State := { s with outbox := s.outbox ++ [m] }

/-- The body of a proxy request (R470). -/
def proxyBody (op tc tenant flags tag iova len vec : Nat) (data : Bytes) : Bytes :=
  leBytes 1 op ++ leBytes 1 tc ++ leBytes 1 tenant ++ leBytes 1 flags ++ leBytes 4 tag ++ leBytes 8 iova ++ leBytes 4 len
    ++ leBytes 2 vec ++ leBytes 2 0 ++ data

/-- Chunks of at most 32,768 bytes. -/
def chunks32k : Nat → Bytes → List Bytes
  | 0, _ => []
  | f + 1, b => if b.isEmpty then [] else b.take 32768 :: chunks32k f (b.drop 32768)

/-- Write host memory: on PCI Express by the head, through the proxy by another member (R469, R470). `flow` is the channel
index, or 0 for events and the admin channel; `who` waits for the proxy's answers. -/
def State.hostWr (s : State) (flow tc tenant : Nat) (strict : Bool) (who : Option ReadWho) (iova : Nat) (b : Bytes) : State :=
  if s.isHead then ({ s with lastHost := s.now, l1 := false } : State).emit (.hostWrite iova b)
  else ((chunks32k (b.length / 32768 + 1) b).zipIdx).foldl (fun s (c, i) =>
    let tag := s.nextTag
    let s1 : State := { s with
      nextTag := tag + 1,
      reads := match who with | some w => SMap.set s.reads tag ⟨w, iova + 32768 * i, 0, 32768 * i⟩ | none => s.reads }
    s1.send ⟨3, tc, 64 * s.rack + s.headIx, flow, tenant % 64,
       proxyBody 2 tc tenant (if strict then 1 else 0) (tag % 2 ^ 32) (iova + 32768 * i) c.length 0 c⟩) s

/-- Issue one host read; its data arrives under the tag used. -/
def State.hostRd1 (s : State) (flow tc tenant : Nat) (who : ReadWho) (iova n off : Nat) : State :=
  let tag := s.nextTag
  let poll : Bool := match who with | .doorbell _ => true | _ => false
  let s0 : State := if poll then s else { s with lastHost := s.now, l1 := false }
  let s1 : State := { s0 with nextTag := tag + 1, reads := SMap.set s.reads tag ⟨who, iova, n, off⟩ }
  if s.isHead then s1.emit (.hostRead tag iova n)
  else s1.send ⟨3, tc, 64 * s.rack + s.headIx, flow, tenant % 64, proxyBody 1 tc tenant 0 (tag % 2 ^ 32) iova n 0 []⟩

/-- Issue a host read: whole on the head, in parts of at most 32,768 bytes through the proxy (R470). -/
def State.hostRd (s : State) (flow tc tenant : Nat) (who : ReadWho) (iova n : Nat) : State :=
  if s.isHead then s.hostRd1 flow tc tenant who iova n 0
  else (List.range (ceilDiv n 32768)).foldl (fun s i =>
    s.hostRd1 flow tc tenant who (iova + 32768 * i) (min 32768 (n - 32768 * i)) (32768 * i)) s

/-- Whether a host read or proxied write of a waiter is still on its way. -/
def State.awaiting (s : State) (who : ReadWho) : Bool := s.reads.any (fun kv => kv.2.who == who)

/-- Ask for an interrupt message of a vector (R461); INTERRUPT_SIGNAL sends it. -/
def State.signal (s : State) (flow : Nat) (v : Option Nat) : State :=
  match v with
  | none => s
  | some n =>
    if s.isHead then { s with vecs := SMap.set s.vecs n { SMap.get s.vecs n {} with due := true } }
    else
      let tc := if flow = 0 then 1 else (s.chan flow).tc
      s.send ⟨3, tc, 64 * s.rack + s.headIx, flow, 0, proxyBody 3 tc 0xFF 0 0 0 0 n []⟩

/-! ### Events (R467) -/

/-- DETAIL bytes from fields of (size, value); a field that does not fit is left out (R467). -/
def detailBytes : List (Nat × Nat) → Bytes → Bytes
  | [], acc => padTo 16 acc
  | (n, v) :: t, acc =>
    if acc.length + n ≤ 16 then detailBytes t (acc ++ leBytes n (min v (2 ^ (8 * n) - 1))) else detailBytes t acc

/-- The phase bit of ring entry `pi` (R460): 1 in the first pass, inverted on each later pass. -/
def phaseBit (pi log2 : Nat) : Nat := (pi / 2 ^ log2 + 1) % 2

/-- Write an event to a ring if it has room, else drop it and count it (R468). -/
def State.toRing (s : State) (key : Nat) (e : Ev) : State :=
  match SMap.find? s.rings key with
  | none => s
  | some r =>
    if 2 ^ r.log2 ≤ (r.pi + 2 ^ 32 - r.ci) % 2 ^ 32 then
      ({ s with rings := SMap.set s.rings key { r with lost := true } } : State).count rEVENT_LOST 1
    else
      let b := leBytes 2 e.code ++ leBytes 1 (phaseBit r.pi r.log2 + (if r.lost then 2 else 0)) ++ leBytes 1 s.self
        ++ leBytes 4 e.handle ++ leBytes 8 e.time ++ padTo 16 e.detail
      let s1 : State := { s with rings := SMap.set s.rings key { r with pi := (r.pi + 1) % 2 ^ 32, lost := false } }
      (s1.hostWr 0 1 (if key = 255 then 255 else key) true none (r.iova + 32 * (r.pi % 2 ^ r.log2)) b).signal 0 r.vector

/-- Whether a ring would drop its next record. -/
def State.ringFull (s : State) (key : Nat) : Bool :=
  match SMap.find? s.rings key with
  | none => false
  | some r => decide (2 ^ r.log2 ≤ (r.pi + 2 ^ 32 - r.ci) % 2 ^ 32)

/-- Deliver an event to the device ring, or hold it while that ring does not exist (R468, R605). -/
def State.toDevice (s : State) (e : Ev) : State :=
  if (SMap.find? s.rings 255).isSome then s.toRing 255 e
  else if s.evHeld.length < 256 then { s with evHeld := s.evHeld ++ [e] }
  else ({ s with evLost := true } : State).count rEVENT_LOST 1

/-- Deliver an event to a tenant's ring; a drop there is reported to the device ring (R468, R475; log 22). -/
def State.toTenant (s : State) (t : Nat) (e : Ev) : State :=
  let full := s.ringFull t
  let s1 := s.toRing t e
  if full then s1.toDevice ⟨0x5005, 0, none, s.pav, detailBytes [(1, t), (4, (s1.reg rEVENT_LOST).toNat)] []⟩ else s1

/-- Raise an event of the module or of a tenant (R468); one of class 0x6 is noted for management (R636, R642). -/
def State.raise (s : State) (code handle : Nat) (tenant : Option Nat) (det : List (Nat × Nat)) : State :=
  let e : Ev := ⟨code, handle, tenant, s.pav, detailBytes det []⟩
  let s0 : State := if code / 256 = 0x60 then { s with supply := { s.supply with pwrEvent := s.supply.pwrEvent || code != 0x6001, lastEvent := code } } else s
  let s1 := s0.toDevice e
  match tenant with
  | none => s1
  | some t => s1.toTenant t e

/-- Raise an event for the device ring and every enabled tenant (R468, R539). -/
def State.raiseAll (s : State) (code : Nat) (det : List (Nat × Nat)) : State :=
  let e : Ev := ⟨code, 0, none, s.pav, detailBytes det []⟩
  ((List.range 64).filter s.tenantEnabled).foldl (fun s t => s.toTenant t e) (s.toDevice e)

end Sys2Proof.Machine
end

