-- ==== Sys2Proof/Machine/Route.lean ====
section
/-! DEFINITION. Routes in the rack and the pod, computed from the tables in force (R400 to R403). Directions are numbered +X −X
+Y −Y +Z −Z; port A of a direction is its number, port B six more (R377). -/

namespace Sys2Proof.Machine

/-- Coordinate of a module along axis `ax` (R7). -/
def coord (m ax : Nat) : Nat := m / 4 ^ ax % 4

def withCoord (m ax c : Nat) : Nat := m - coord m ax * 4 ^ ax + c * 4 ^ ax

/-- The next live module of a ring in a direction; dark modules that are passed by are skipped. -/
def stepLive (dark : List Nat) (m dir : Nat) : Nat → Nat
  | 0 => m
  | f + 1 =>
    let ax := dir / 2
    let c := coord m ax
    let n := withCoord m ax (if dir % 2 = 0 then (c + 1) % 4 else (c + 3) % 4)
    if dark.contains n then stepLive dark n dir f else n

def nextMod (v : View) (m dir : Nat) : Nat := stepLive v.dark m dir 4

/-- Live hops from one coordinate to another in a direction. -/
def hopsTo (v : View) (m dir target : Nat) : Nat → Nat
  | 0 => 0
  | f + 1 => let n := nextMod v m dir; if n = target then 1 else 1 + hopsTo v n dir target f

/-- The direction of the next hop by dimension order (R401); none at the destination. -/
def nextDir (v : View) (m dst : Nat) : Option Nat :=
  match [0, 1, 2].find? (fun ax => coord m ax != coord dst ax) with
  | none => none
  | some ax =>
    let target := withCoord m ax (coord dst ax)
    let p := hopsTo v m (2 * ax) target 4
    let q := hopsTo v m (2 * ax + 1) target 4
    some (if p = 1 then 2 * ax else if q = 1 then 2 * ax + 1 else if coord m ax % 2 = 0 then 2 * ax else 2 * ax + 1)

/-- The port a flow takes in a direction: its own column, else the other; whether it is the second (R401). -/
def portFor (v : View) (m dir flow : Nat) : Option (Nat × Bool) :=
  let up := SMap.get v.up m 0
  let a := if flow % 2 = 0 then dir else dir + 6
  let b := if flow % 2 = 0 then dir + 6 else dir
  if bit up a then some (a, false) else if bit up b then some (b, true) else none

/-- A hop of a path: module, direction, dateline bit, whether it belongs to a detour, whether on the second port. -/
structure Hop where
  m : Nat
  dir : Nat
  date : Bool
  det : Bool
  second : Bool
  deriving DecidableEq, Repr

/-- Crossing between coordinates 3 and 0 sets the dateline bit (R401). -/
def crosses (m n ax : Nat) : Bool :=
  (coord m ax == 3 && coord n ax == 0) || (coord m ax == 0 && coord n ax == 3)

/-- The path of a flow with the given detours (R401, R403); none where a hop has no port. -/
def pathTo (v : View) (detours : List Nat) (flow dst : Nat) : Nat → Nat → Nat → Bool → Option (List Hop)
  | 0, _, _, _ => none
  | f + 1, m, lastAx, date =>
    match nextDir v m dst with
    | none => some []
    | some d =>
      let ax := d / 2
      let n := nextMod v m d
      let dt := (if ax = lastAx then date else false) || crosses m n ax
      match portFor v m d flow with
      | some (_, sec) => (pathTo v detours flow dst f n ax dt).map (fun t => ⟨m, d, dt, false, sec⟩ :: t)
      | none =>
        if detours.contains (6 * m + d) then
          let side := 2 * ((ax + 1) % 3) + flow % 2
          let back := 2 * ((ax + 1) % 3) + (flow + 1) % 2
          let m1 := nextMod v m side
          let m2 := nextMod v m1 d
          match portFor v m side flow, portFor v m1 d flow, portFor v m2 back flow with
          | some (_, a), some (_, b), some (_, c) =>
            (pathTo v detours flow dst f n ((ax + 1) % 3) (crosses m2 n ((ax + 1) % 3))).map (fun t =>
              ⟨m, side, ((ax + 1) % 3 == lastAx && date) || crosses m m1 ((ax + 1) % 3), true, a⟩ :: ⟨m1, d, crosses m1 m2 ax, true, b⟩
                :: ⟨m2, back, crosses m2 n ((ax + 1) % 3), true, c⟩ :: t)
          | _, _, _ => none
        else none

/-- The path from a module to another of its rack. -/
def Tables.path (t : Tables) (src flow dst : Nat) : Option (List Hop) := pathTo t.view t.detours flow dst 32 src 3 false

/-- A channel that a hop uses: module, direction, dateline bit. -/
def Hop.chan (h : Hop) : Nat := 12 * h.m + 2 * h.dir + (if h.date then 1 else 0)

/-- Consecutive channels of a path. -/
def depsOf : List Hop → List (Nat × Nat)
  | a :: b :: t => (a.chan, b.chan) :: depsOf (b :: t)
  | _ => []

/-- Remove dependencies whose source no dependency enters, again and again; an acyclic set empties. -/
def peel : Nat → List (Nat × Nat) → List (Nat × Nat)
  | 0, l => l
  | f + 1, l =>
    let r := l.filter (fun e => l.any (fun g => g.2 == e.1))
    if r.length = l.length then l else peel f r

def acyclic (l : List (Nat × Nat)) : Bool := (peel l.length l).isEmpty

/-- Every dependency of the routes of live modules under a set of detours, both columns. -/
def allDeps (v : View) (detours : List Nat) : List (Nat × Nat) :=
  let live := (List.range 64).filter (fun m => SMap.get v.up m 0 != 0)
  live.flatMap (fun a => live.flatMap (fun b => [0, 1].flatMap (fun fl =>
    match pathTo v detours fl b 32 a 3 false with
    | some p => depsOf p
    | none => [])))

/-- Directions of live modules with both ports down towards a live module (R403). -/
def brokenDirs (v : View) : List Nat :=
  (List.range 64).flatMap (fun m => if SMap.get v.up m 0 = 0 then [] else
    (List.range 6).filterMap (fun d =>
      let n := nextMod v m d
      if (portFor v m d 0).isNone && decide (n ≠ m) && SMap.get v.up n 0 != 0 then some (6 * m + d) else none))

/-- Admit detours one after another while the channel dependencies stay acyclic (R403). -/
def admitDetours (v : View) : List Nat → List Nat → List Nat
  | [], acc => acc
  | d :: t, acc => if acyclic (allDeps v (acc ++ [d])) then admitDetours v t (acc ++ [d]) else admitDetours v t acc

/-- The circuits of a rack in the plan that are valid and live (R402): index, egress module, uplink, landing module. -/
def Tables.circuits (t : Tables) (r : Nat) : List (Nat × Nat × Nat × Nat) :=
  (List.range 4).filterMap (fun i =>
    let c := field t.plan (16 * r + 4 * i) 4
    if bit c 14 && !t.view.circDown.contains (4 * r + i) then some (i, bits c 0 6, bits c 6 2, bits c 8 6) else none)

/-- Whether the origin's tables hold a route to a module of its rack. -/
def State.routeLocal (s : State) (m flow : Nat) : Bool := decide (m = s.self) || (s.tables.path s.self flow m).isSome

/-- Whether module `by_` of another rack has reported that it holds no route to module `m` of that rack for such a flow (R346, R400). -/
def View.cutOff (v : View) (by_ m flow : Nat) : Bool := v.far.contains (128 * by_ + 2 * m + flow % 2)

/-- Whether they hold a route to a module (64·rack + module) anywhere in the pod; beyond the uplink the landing module's report counts. -/
def State.routeTo (s : State) (dest flow : Nat) : Bool :=
  let r := dest / 64
  if r = s.rack then s.routeLocal (dest % 64) flow
  else
    let cs := s.tables.circuits r
    match cs[flow % (max cs.length 1)]? with
    | some (_, eg, _, land) => s.routeLocal eg flow && !s.tables.view.cutOff (64 * r + land) (dest % 64) flow
    | none => false

/-- Whether a route to a destination takes a detour or a second port, or a circuit other than the plan's own choice (R405). -/
def State.rerouted (s : State) (dest flow : Nat) : Bool :=
  let r := dest / 64
  let odd := fun (m : Nat) => match s.tables.path s.self flow m with
    | some p => p.any (fun h => h.det || h.second)
    | none => false
  if r = s.rack then odd (dest % 64)
  else
    let cs := s.tables.circuits r
    let full := (List.range 4).filter (fun i => bit (field s.tables.plan (16 * r + 4 * i) 4) 14)
    match cs[flow % (max cs.length 1)]? with
    | some (i, eg, _, _) => odd eg || full[flow % (max full.length 1)]? != some i
    | none => false

/-- A message of a work item sets out for a module: off its flow's own route it marks the item REROUTED (R405). -/
def State.noteRoute (s : State) (it dest flow : Nat) : State :=
  match SMap.find? s.items it with
  | some w => if dest ≠ 64 * s.rack + s.self ∧ s.rerouted dest flow then s.setItem it { w with rerouted := true } else s
  | none => s

/-- A host access of a work item on a member goes to the head (R405, R469). -/
def State.noteProxy (s : State) (it : Nat) : State :=
  if s.isHead then s else s.noteRoute it (64 * s.rack + s.headIx) (s.item it).chan

end Sys2Proof.Machine
end

