-- ==== Sys2Proof/Machine/Wire.lean ====
section
/-! DEFINITION. Compression on the wire (R411 to R413): blocks of floating elements with prefix-coded exponent symbols. -/

namespace Sys2Proof.Machine

/-- Alphabet size, bits of the raw part and element bytes of a format (R412); none for another format. -/
def wireFmt (f : Nat) : Option (Nat × Nat × Nat) :=
  if f = fBF16 then some (256, 8, 2) else if f = fE5M2 then some (32, 3, 1) else if f = fE4M3 then some (16, 4, 1) else none

/-- The exponent symbol and raw part of an element, and back (R412). -/
def wireSplit (f v : Nat) : Nat × Nat :=
  if f = fBF16 then (bits v 7 8, bits v 15 1 * 128 + bits v 0 7)
  else if f = fE5M2 then (bits v 2 5, bits v 7 1 * 4 + bits v 0 2)
  else (bits v 3 4, bits v 7 1 * 8 + bits v 0 3)

def wireJoin (f e r : Nat) : Nat :=
  if f = fBF16 then bits r 7 1 * 2 ^ 15 + e * 2 ^ 7 + bits r 0 7
  else if f = fE5M2 then bits r 2 1 * 2 ^ 7 + e * 4 + bits r 0 2
  else bits r 3 1 * 2 ^ 7 + e * 8 + bits r 0 3

/-- The canonical codes of one length: (length, code, symbol), and the next code (R254). -/
def canonLen (lens : List Nat) (len : Nat) : List Nat → Nat → List (Nat × Nat × Nat) × Nat
  | [], c => ([], c)
  | s :: t, c =>
    if lens.getD s 0 = len then let (l, c') := canonLen lens len t (c + 1); ((len, c, s) :: l, c') else canonLen lens len t c

def canonFrom (lens : List Nat) : Nat → Nat → Nat → List (Nat × Nat × Nat) × Bool × Nat
  | 0, _, c => ([], true, c)
  | n + 1, len, c =>
    let (l, c1) := canonLen lens len (List.range lens.length) c
    let (l2, ok, c2) := canonFrom lens n (len + 1) (if n = 0 then c1 else 2 * c1)
    (l ++ l2, ok && decide (c1 ≤ 2 ^ len), c2)

/-- The code table of a list of lengths, and whether the set is complete or a single symbol of length 1 (R254, R262). -/
def canon (lens : List Nat) : List (Nat × Nat × Nat) × Bool :=
  let (l, ok, c) := canonFrom lens 12 1 0
  (l, ok && lens.all (fun n => decide (n ≤ 12)) && (decide (c = 4096) || (match l with | [(n, _, _)] => decide (n = 1) | _ => false)))

/-- Bits of a byte string, bit p being bit p mod 8 of byte p div 8. -/
def bitsOfBytes (b : Bytes) : List Bool := b.flatMap (fun x => (List.range 8).map (fun i => x.getLsbD i))

/-- Bytes from bits, the last byte padded with 0. -/
def bytesOfBits : Nat → List Bool → Bytes
  | 0, _ => []
  | n + 1, l => if l.isEmpty then [] else
    BitVec.ofNat 8 (((l.take 8).zipIdx.map (fun (b, i) => if b then 2 ^ i else 0)).sum) :: bytesOfBits n (l.drop 8)

/-- Decode the symbols of a sub-stream (R255): every bit must be used. -/
def wireSyms (tab : List (Nat × Nat × Nat)) : List Bool → Nat → Nat → Option (List Nat)
  | [], len, _ => if len = 0 then some [] else none
  | b :: t, len, v =>
    let v1 := 2 * v + (if b then 1 else 0)
    match tab.find? (fun x => x.1 == len + 1 && x.2.1 == v1) with
    | some x => (wireSyms tab t 0 0).map (fun l => x.2.2 :: l)
    | none => if 12 ≤ len + 1 then none else wireSyms tab t (len + 1) v1

/-- Decode one wire block: its element bytes and the bytes it takes; none where a check fails (R412, R413). -/
def wireBlock (b : Bytes) : Option (Bytes × Nat) :=
  let f := field b 0 1
  let fl := field b 1 1
  let n := field b 2 2 + 1
  match wireFmt f with
  | none => none
  | some (a, rb, eb) =>
    if 1 < fl ∨ 4096 < n then none
    else if fl = 1 then (if b.length < 4 + eb * n then none else some ((b.drop 4).take (eb * n), 4 + eb * n))
    else
      let lens := (List.range a).map (fun s => let x := ((b.drop 0x24).getD (s / 2) 0).toNat; if s % 2 = 0 then x % 16 else x / 16)
      let (tab, ok) := canon lens
      let bl := (List.range 8).map (fun s => field b (4 + 4 * s) 4)
      let start := fun (s : Nat) => 0x24 + a / 2 + 4 * ((bl.take s).map (fun x => ceilDiv x 32)).sum
      let raw := start 8
      let total := raw + ceilDiv (n * rb) 8
      if !ok || decide (b.length < total) then none
      else
        let subs := (List.range 8).map (fun s => wireSyms tab ((bitsOfBytes ((b.drop (start s)).take (4 * ceilDiv (bl.getD s 0) 32))).take (bl.getD s 0)) 0 0)
        if !((List.range 8).all (fun s => match subs.getD s none with | some l => decide (l.length = (n + 7 - s) / 8) | none => false)) then none
        else
          let rawBits := leNat ((b.drop raw).take (ceilDiv (n * rb) 8))
          let el := fun (i : Nat) => wireJoin f (((subs.getD (i % 8) none).getD []).getD (i / 8) 0) (bits rawBits (rb * i) rb)
          some ((List.range n).flatMap (fun i => leBytes eb (el i)), total)

/-- Decompress a body of a known original length (R413). -/
def wireDecode : Nat → Bytes → Option Bytes
  | 0, _ => none
  | f + 1, b =>
    if b.isEmpty then some []
    else match wireBlock b with
      | none => none
      | some (x, n) => if n = 0 then none else (wireDecode f (b.drop n)).map (fun y => x ++ y)

/-- One block of up to 4,096 elements: coded where that is smaller, else raw. The code lengths are free values. -/
def wireEncBlock (free f : Nat) (els : List Nat) : Bytes :=
  match wireFmt f with
  | none => []
  | some (a, rb, eb) =>
    let lens := (List.range a).map (fun s => Config.wireLen free s)
    let (tab, ok) := canon lens
    let n := els.length
    let sp := els.map (wireSplit f)
    let sub := fun (s : Nat) => (sp.zipIdx.filter (fun p => p.2 % 8 == s)).flatMap (fun p =>
      match tab.find? (fun x => x.2.2 == p.1.1) with
      | some x => (List.range x.1).map (fun i => bit x.2.1 (x.1 - 1 - i))
      | none => [])
    let usable := ok && sp.all (fun p => tab.any (fun x => x.2.2 == p.1))
    let head := fun (r : Nat) => leBytes 1 f ++ leBytes 1 r ++ leBytes 2 (n - 1)
    let subs := (List.range 8).map sub
    let coded := head 0 ++ subs.flatMap (fun l => leBytes 4 l.length)
      ++ (List.range (a / 2)).flatMap (fun i => leBytes 1 (lens.getD (2 * i) 0 + 16 * lens.getD (2 * i + 1) 0))
      ++ subs.flatMap (fun l => let x := bytesOfBits (l.length + 1) l; x ++ leBytes (4 * ceilDiv l.length 32 - x.length) 0)
      ++ leBytes (ceilDiv (n * rb) 8) ((sp.zipIdx.map (fun p => p.1.2 * 2 ^ (rb * p.2))).sum)
    let raw := head 1 ++ els.flatMap (leBytes eb)
    if usable && decide (coded.length < raw.length) then coded else raw

/-- Compress a body of elements (R411, R412). -/
def wireEncode (f : Nat) : Nat → Nat → Bytes → Bytes
  | 0, _, _ => []
  | k + 1, free, b =>
    match wireFmt f with
    | none => b
    | some (_, _, eb) =>
      if b.isEmpty then []
      else
        let x := b.take (4096 * eb)
        wireEncBlock free f ((List.range (x.length / eb)).map (fun i => field x (eb * i) eb)) ++ wireEncode f k (free + 1) (b.drop (4096 * eb))

end Sys2Proof.Machine
end

