-- ==== Sys2Proof/Machine/Link.lean ====
section
/-! DEFINITION. Ports and link retry: sending and receiving flits, NACKs, replay, and a port going DOWN (R384 to R392, R395, R399,
R423 to R425). -/

namespace Sys2Proof.Machine

/-! ### Ports -/

def portOff (p w : Nat) : Nat := 0x61000 + 0x100 * p + w
def State.port (s : State) (p : Nat) : Port := SMap.get s.ports p {}
def State.setPort (s : State) (p : Nat) (x : Port) : State := { s with ports := SMap.set s.ports p x }
/-- FAB_PORT_STATUS.STATE: 0 DARK, 1 TRAINING, 2 UP, 3 DEGRADED, 4 DOWN (R384). -/
def State.portSt (s : State) (p : Nat) : Nat := s.getField (portOff p 8) 0 3
def State.lanes (s : State) (p : Nat) : Nat := s.getField (portOff p 8) 3 8
def State.carrying (s : State) (p : Nat) : Bool := s.portSt p = 2 || s.portSt p = 3
/-- The port encrypts (R399); ignored on torus ports. -/
def State.encrypts (s : State) (p : Nat) : Bool := decide (12 ≤ p) && decide (s.getField (portOff p 0) 1 1 = 1)
/-- The module's address: 64·rack + index, as SRC and DST hold it (R393). -/
def State.addr (s : State) : Nat := 64 * s.rack + s.self
/-- A Pavane timestamp: ticks and eighths of a tick (R415). -/
def State.stamp (s : State) : Nat := (8 * s.pav + s.pavane.frac) % 2 ^ 64

/-- What this module knows of its own ports follows their state; the change is to be flooded and acted on (R400). -/
def State.seePorts (s : State) : State :=
  let own := ((List.range 12).filter s.carrying).foldl (fun n p => n + 2 ^ p) 0
  let circ := (List.range 256).filter (fun k =>
    let c := field s.tables.plan (4 * k) 4
    bit c 14 && decide (bits c 0 6 = s.self) &&
      !(s.carrying (12 + bits c 6 2) && decide (s.getField (portOff (12 + bits c 6 2) 8) 15 12 = bits c 8 6 + 64 * (k / 4))))
  let mine := fun (k : Nat) => decide (bits (field s.tables.plan (4 * k) 4) 0 6 = s.self)
  let v : View := { s.view with up := SMap.set s.view.up s.self own, circDown := s.view.circDown.filter (fun k => !mine k) ++ circ }
  if v = s.view then s else { s with view := v, floodDue := true, viewDue := true }

/-- A port leaves UP, DEGRADED or TRAINING for DOWN with a cause: its buffered flits and queued messages are gone (R384, R391). -/
def State.portDown (s : State) (p cause : Nat) : State :=
  let x := s.port p
  let s1 := s.setPort p { light := x.light, downAt := some s.now, wrr := x.wrr, injRaised := x.injRaised, xseq := x.xseq }
  let s2 := ((s1.setField (portOff p 8) 0 3 4).setField (portOff p 8) 3 8 0).setField (portOff p 8) 11 4 cause
  (s2.raise 0x4000 0 none []).seePorts

/-- The buffers and counters of a link start anew (R384, R387, R395). -/
def State.linkStart (s : State) (p : Nat) : State :=
  let x := s.port p
  s.setPort p { light := x.light, wrr := x.wrr, injRaised := x.injRaised, xseq := x.xseq, ackAt := s.now }

/-! ### Fault injection (R423 to R425) -/

def injOff (p w : Nat) : Nat := 0xE0100 + 0x20 * p + w
def State.injOn (s : State) : Bool := decide (s.getField 0xE0000 0 1 = 1)
def State.injDrop (s : State) (p : Nat) : Nat := let n := s.getField (injOff p 0) 0 24; if n = 1 then 0 else n
def State.injFlip (s : State) (p : Nat) : Nat := s.getField (injOff p 8) 0 24
def State.injWindow (s : State) (p : Nat) : Nat := min (s.getField (injOff p 0x10) 0 6) 32
/-- Injection acts on a port (TST_INJ_ACTIVE). -/
def State.injActive (s : State) (p : Nat) : Bool :=
  s.injOn && (decide (s.injDrop p ≠ 0) || decide (s.injFlip p ≠ 0) || decide (s.injWindow p ≠ 0))

/-- INJ_ACTIVE is raised once for each port on which injection acts. -/
def State.injEvents (s : State) : State :=
  (List.range 16).foldl (fun s p =>
    let x := s.port p
    if s.injActive p then (if x.injRaised then s else (s.setPort p { x with injRaised := true }).raise 0x400E 0 none [])
    else if x.injRaised then s.setPort p { x with injRaised := false } else s) s

/-! ### Sending a flit -/

/-- The flit header as a number (R385). -/
def flitHdr (ftype vc : Nat) (som eom : Bool) (seq ack cvc ccnt plen : Nat) : Nat :=
  ftype + 2 ^ 4 * vc + (if som then 2 ^ 8 else 0) + (if eom then 2 ^ 9 else 0) + 2 ^ 16 * seq + 2 ^ 32 * ack + 2 ^ 48 * cvc + 2 ^ 52 * ccnt
    + 2 ^ 64 * plen

/-- The lane of flit slot `k` over the lanes in service, ascending (R383). -/
def laneOf (mask k : Nat) : Nat :=
  let l := (List.range 8).filter (fun i => mask.testBit i)
  l.getD (k % (max l.length 1)) 0

/-- Lanes that have returned join at a 5-flit boundary, where every lane in service has carried whole pairs of codewords (R382, R384). -/
def State.joinLanes (s : State) (p : Nat) : State :=
  let x := s.port p
  let l := s.lanes p
  let all := l ||| x.joining.toNat
  if x.joining = 0 ∨ x.slots % (5 * popcount 8 l) ≠ 0 then s
  else ((s.setPort p { x with joining := 0 }).setField (portOff p 8) 3 8 all).setField (portOff p 8) 0 3 (if all = 255 then 2 else 3)

/-- Put a flit on its lane with ACK, returned credits and CRC; `data` says whether fault injection counts it (R383, R386, R425). -/
def State.putFlit (s : State) (p ftype vc : Nat) (som eom : Bool) (seq plen : Nat) (payload : Bytes) : State :=
  let x := s.port p
  let (cvc, ccnt) := match x.owe.find? (fun kv => decide (kv.2 ≠ 0)) with
    | some (v, n) => (v, min n 255)
    | none => (0, 0)
  let head := leBytes 12 (flitHdr ftype vc som eom seq x.expect cvc ccnt plen) ++ padTo 240 payload
  let raw := head ++ leBytes 4 (crc32c head)
  let lane := laneOf (s.lanes p) x.slots
  let x1 := { x with owe := if ccnt = 0 then x.owe else SMap.set x.owe cvc (SMap.get x.owe cvc 0 - ccnt), slots := x.slots + 1 }
  if ftype ≠ 1 ∨ !s.injOn then ((s.setPort p x1).emit (.flit p lane raw)).joinLanes p
  else
    let dn := s.injDrop p
    let fn := s.injFlip p
    let x2 := { x1 with dropCnt := if dn = 0 then 0 else (x1.dropCnt + 1) % dn, flipCnt := if fn = 0 then 0 else (x1.flipCnt + 1) % fn }
    let drop := decide (dn ≠ 0 ∧ x2.dropCnt = 0)
    let flip := decide (fn ≠ 0 ∧ x2.flipCnt = 0)
    let at_ := s.getField (injOff p 8) 24 8
    let raw1 := if flip then raw.set at_ ((raw.getD at_ 0) ^^^ BitVec.ofNat 8 (s.getField (injOff p 8) 32 8)) else raw
    let s1 := (s.setPort p x2).count (injOff p 0x18) ((if drop then 1 else 0) + (if flip && !drop then 1 else 0))
    (if drop then s1 else s1.emit (.flit p lane raw1)).joinLanes p

/-- The message that a port serves next (R395): TC0 first, TC1 to TC3 in the ratio 8 : 2 : 1 (R25), responses before requests; the VC
needs a credit, and a message holds its VC to its end. -/
def Port.pick (x : Port) : Option Nat :=
  let el := (x.txq.zipIdx).filter (fun (m, i) =>
    decide (SMap.get x.credit m.vc 192 ≠ 0) && !(x.txq.take i).any (fun n => n.vc == m.vc) &&
      (m.started || !x.txq.any (fun n => n.started && n.vc == m.vc)))
  let key := fun (m : TxMsg) => if m.tc = 0 then 0 else 1 + SMap.get x.wrr m.tc 0 * (if m.tc = 1 then 1 else if m.tc = 2 then 4 else 8)
  let rank := fun (m : TxMsg) => 8 * key m + 2 * m.tc + (if bit m.vc 2 then 0 else 1)
  (el.foldl (fun (b : Option (TxMsg × Nat)) a => match b with
    | none => some a
    | some c => if rank a.1 < rank c.1 then some a else some c) none).map (·.2)

/-- Send the next new DATA flit, if one may go (R388, R395). -/
def State.newFlit (s : State) (p : Nat) : Option State :=
  let x := s.port p
  if 4096 ≤ x.replay.length then none
  else match x.pick with
    | none => none
    | some i =>
      let m := x.txq.getD i ⟨0, 0, [], false⟩
      let eom := decide (m.bytes.length ≤ 240)
      let f : Flit := ⟨x.nextSeq, m.vc, !m.started, eom, m.bytes.take 240⟩
      let q := if eom then x.txq.eraseIdx i else x.txq.set i { m with bytes := m.bytes.drop 240, started := true }
      let x1 := { x with replay := x.replay ++ [f], nextSeq := (x.nextSeq + 1) % 2 ^ 16, txq := q,
                         credit := SMap.set x.credit m.vc (SMap.get x.credit m.vc 192 - 1),
                         wrr := SMap.set x.wrr m.tc (SMap.get x.wrr m.tc 0 + 1), ackAt := if x.replay.isEmpty then s.now else x.ackAt }
      some ((((s.setPort p x1).count (portOff p 0x30) 1).tlm (0x300 + 8 * p) f.payload.length).putFlit p 1 f.vc f.som f.eom f.seq
        (if eom then f.payload.length - 1 else 239) f.payload)

/-- Resend the flit whose turn it is (R388, R389). -/
def State.resendFlit (s : State) (p : Nat) : Option State :=
  let x := s.port p
  match x.rewind with
  | none => none
  | some q =>
    match x.replay.findIdx? (fun f => f.seq == q) with
    | none => none
    | some i =>
      let f := x.replay.getD i ⟨0, 0, false, false, []⟩
      let x1 := { x with rewind := (x.replay[i + 1]?).map (·.seq) }
      some (((s.setPort p x1).count (portOff p 0x10) 1).putFlit p 1 f.vc f.som f.eom f.seq
        (if f.eom then f.payload.length - 1 else 239) f.payload)

/-- The payload of a PAVANE flit (R415). -/
def pavBody (resp : Bool) (st xseq t1 t2 t3 t4 : Nat) : Bytes :=
  leBytes 1 (if resp then 2 else 1) ++ leBytes 1 st ++ leBytes 2 xseq ++ leBytes 12 0 ++ leBytes 8 t1 ++ leBytes 8 t2 ++ leBytes 8 t3 ++ leBytes 8 t4

def rPAV_CTRL : Nat := 0x60020
def rPAV_STATUS : Nat := 0x60028
def State.pavState (s : State) : Nat := s.getField rPAV_STATUS 0 2

/-- Send a PAVANE flit that is due; T1 of a request and T3 of a response are the send time (R415). -/
def State.pavFlit (s : State) (p : Nat) : Option State :=
  let x := s.port p
  match x.pavOut with
  | none => none
  | some t =>
    let now := s.stamp
    let s1 := s.setPort p { x with pavOut := none }
    some (if t.resp then
      ({ s1 with pavane := { s1.pavane with prev := some (t.xseq, t.t1, t.t2, now) } } : State).putFlit p 3 0 false false 0 0
        (pavBody true s.pavState t.xseq t.t1 t.t2 now 0)
    else s1.putFlit p 3 0 false false 0 0 (pavBody false s.pavState t.xseq now 0 0 t.t4))

/-! ### Messages on their way to a port (R393, R399, R401 to R403) -/

def isResp (kind : Nat) : Bool := kind = 2 || kind = 4 || kind = 7
def vcOf (date leg : Bool) (kind tc : Nat) : Nat :=
  (if date then 1 else 0) + (if leg then 2 else 0) + (if isResp kind then 4 else 0) + (if tc = 0 then 8 else 0)

/-- The transport header (R393). -/
def msgHdr (kind flags src dst flow mseq len ulen tenant hops nonce : Nat) : Bytes :=
  leBytes 1 kind ++ leBytes 1 flags ++ leBytes 2 src ++ leBytes 2 dst ++ leBytes 2 flow ++ leBytes 4 mseq ++ leBytes 4 len ++ leBytes 4 ulen
    ++ leBytes 1 tenant ++ leBytes 1 hops ++ leBytes 2 0 ++ leBytes 8 nonce

/-- The header as additional authenticated data: HOPS and NONCE are 0 (R399). -/
def msgAad (h : Bytes) : Bytes := h.take 0x15 ++ leBytes 1 0 ++ (h.drop 0x16).take 2 ++ leBytes 8 0

/-- Where a message goes next from this module: port, dateline bit, whether it starts or continues a detour; `prev` is the port it came
through, its dateline bit and its DETOUR flag (R401 to R403). -/
def State.nextHop (s : State) (dst flow : Nat) (prev : Option (Nat × Bool × Bool)) : Option (Nat × Bool × Bool) :=
  let v := s.tables.view
  let me := s.self
  let cs := s.tables.circuits (dst / 64)
  let goal : Option (Nat ⊕ Nat) := if dst / 64 = s.rack then some (.inl (dst % 64)) else
    match cs[flow % (max cs.length 1)]? with
    | some (_, eg, up, _) => some (if eg = me then .inr (12 + up) else .inl eg)
    | none => none
  match goal with
  | none => none
  | some (.inr p) => some (p, false, false)
  | some (.inl target) =>
    let came := match prev with
      | some (p, date, det) => if p < 12 then some (p % 6, date, det) else none
      | none => none
    let go := fun (dir : Nat) (det : Bool) =>
      (portFor v me dir flow).map (fun (p, _) =>
        (p, (match came with | some (d, date, _) => d / 2 == dir / 2 && date | none => false) || crosses me (nextMod v me dir) (dir / 2), det))
    let plain := match nextDir v me target with
      | none => none
      | some d =>
        if (portFor v me d flow).isSome then go d false
        else if s.tables.detours.contains (6 * me + d) then go (2 * ((d / 2 + 1) % 3) + flow % 2) true
        else none
    match came with
    | some (d, _, true) =>
      let dirIn := if d % 2 = 0 then d + 1 else d - 1
      let before := nextMod v me d
      let broken := fun (m x : Nat) => decide (nextDir v m target = some x) && s.tables.detours.contains (6 * m + x) && (portFor v m x flow).isNone
      let second := (List.range 6).find? (fun x => broken before x && decide (dirIn = 2 * ((x / 2 + 1) % 3) + flow % 2))
      let back := 2 * ((dirIn / 2 + 1) % 3) + (flow + 1) % 2
      match second with
      | some x => go x true
      | none => if broken (nextMod v before back) dirIn then go back true else plain
    | _ => plain

/-- Queue a message at a port; an encrypting uplink seals its body (R399). A message for a port that carries no traffic is lost here and
recovered end to end (R397). -/
def State.toPort (s : State) (p : Nat) (date leg : Bool) (h body : Bytes) : State :=
  let kind := field h 0 1
  let tc := bits (field h 1 1) 0 2
  let vc := vcOf date leg kind tc
  let put := fun (s : State) (b : Bytes) => let x := s.port p; s.setPort p { x with txq := x.txq ++ [⟨vc, tc, b, false⟩] }
  if !s.carrying p then s
  else if !s.encrypts p then put s (h ++ body)
  else match SMap.find? s.keys p with
    | none => s
    | some k =>
      let n := SMap.get s.nonces (2 * p) 0
      let h1 := h.take 1 ++ leBytes 1 (field h 1 1 + (if bit (field h 1 1) 3 then 0 else 8)) ++ (h.drop 2).take 0x16 ++ leBytes 8 n
      let (ct, tag) := gcmSeal (k.take 32) ((k.drop 32).take 4 ++ leBytes 8 n) (msgAad h1) body
      put { s with nonces := SMap.set s.nonces (2 * p) ((n + 1) % 2 ^ 64) } (h1 ++ ct ++ tag)

/-- Send a message of this module on its current route; `mseq` is its number in its flow, and compression is tried where the sending
unit asked for it and `cmp` holds (R393, R397, R411, R413). -/
def State.launch (s : State) (m : Msg) (mseq : Nat) (cmp : Bool) : State :=
  match s.nextHop m.peer m.flow none with
  | none => s
  | some (p, date, det) =>
    let (free, s0) := s.fresh
    let c := cmp && decide (256 ≤ m.kind)
    let body := if c then wireEncode (m.kind / 256) (m.body.length + 1) free m.body else m.body
    let s1 := if det then s0.count 0x60040 1 else s0
    s1.toPort p date false
      (msgHdr (m.kind % 256) (m.tc + (if c then 4 else 0) + (if det then 16 else 0)) s.addr m.peer m.flow mseq body.length m.body.length m.tenant 0 0)
      body

/-- The key of a flow from or to another module (R394). -/
def flowKey (other flow tc : Nat) : Nat := other * 2 ^ 18 + flow * 4 + tc

/-- Hand the outbox to the ports: each message takes its number in its flow and is kept until acknowledged (R394, R397); one to this
module is delivered here. -/
def State.admitTx (s : State) : State :=
  s.outbox.foldl (fun s m =>
    if m.peer = s.addr then { s with inbox := s.inbox ++ [{ m with kind := m.kind % 256 }] }
    else if m.kind = 7 then s.launch m 0 false
    else
      let k := flowKey m.peer m.flow m.tc
      let q := SMap.get s.txSeq k 0
      ({ s with txSeq := SMap.set s.txSeq k ((q + 1) % 2 ^ 32), unacked := s.unacked ++ [⟨q, m, s.now, 0⟩] } : State).launch m q true)
    { s with outbox := [] }

/-- FLIT_TRANSMIT (R386 to R388, R395, R415): the next flit slot of a port: a NACK, a PAVANE flit, a resend, a new DATA flit, else IDLE. -/
def execFlitTransmit (p : PortId) (s : State) : Host.Outcome State Fault Refusal :=
  let s0 := s.admitTx
  let n := p.toNat
  let x := s0.port n
  if !s0.carrying n then .next s0
  else if x.nackDue then .next ((s0.setPort n { x with nackDue := false, nackAt := some s.now }).putFlit n 2 0 false false 0 0 [])
  else match s0.pavFlit n with
    | some t => .next t
    | none => match s0.resendFlit n with
      | some t => .next t
      | none => match s0.newFlit n with
        | some t => .next t
        | none => .next (s0.putFlit n 0 0 false false 0 0 [])

/-! ### Receiving a flit (R386 to R388) -/

/-- The flits of a replay buffer from an acknowledged SEQ on; none where the number is outside the buffer. -/
def ackTo (l : List Flit) (next ack : Nat) : Option (List Flit) :=
  if ack = next then some [] else (l.findIdx? (fun f => f.seq == ack)).map (fun i => l.drop i)

/-- ACK and credits of a good flit take effect. -/
def Port.acked (x : Port) (now ack cvc ccnt : Nat) : Port :=
  let x1 := { x with credit := if ccnt = 0 then x.credit else SMap.set x.credit cvc (min 192 (SMap.get x.credit cvc 192 + ccnt)) }
  match ackTo x.replay x.nextSeq ack with
  | none => x1
  | some l =>
    if l.length = x.replay.length then x1
    else { x1 with replay := l, tries := 0, ackAt := now,
                   rewind := match x.rewind with
                     | none => none
                     | some q => if l.any (fun f => f.seq == q) then some q else (l.head?).map (·.seq) }

/-- A permutation of a window by the fixed pattern (R425). -/
def permute (w : Nat) : Nat → Nat → List (Nat × Bytes) → List (Nat × Bytes)
  | 0, _, l => l
  | f + 1, i, l =>
    if l.isEmpty then [] else
      let k := Config.reorderPick w i % l.length
      (match l[k]? with | some a => [a] | none => []) ++ permute w f (i + 1) (l.eraseIdx k)

/-- A whole message has arrived at a port; injected reordering holds it until its window is full (R425). -/
def State.gotMessage (s : State) (p vc : Nat) (b : Bytes) : State :=
  let x := s.port p
  let w := if x.held.isEmpty then s.injWindow p else x.win
  if !s.injOn ∨ w < 2 then
    { s.setPort p { x with held := [] } with rxMsgs := s.rxMsgs ++ x.held.map (fun h => (p, h.1, h.2)) ++ [(p, vc, b)] }
  else
    let l := x.held ++ [(vc, b)]
    if l.length < w then s.setPort p { x with held := l, win := w }
    else ({ s.setPort p { x with held := [] } with rxMsgs := s.rxMsgs ++ (permute w w 0 l).map (fun h => (p, h.1, h.2)) } : State).count (injOff p 0x18) l.length

/-- A DATA flit is discarded: a NACK is due at the first one after an accepted flit, and again after 4 µs (R387). -/
def State.discardFlit (s : State) (p : Nat) : State :=
  let x := s.port p
  if x.nackDue || (match x.nackAt with | some t => decide (s.now < t + 4000) | none => false) then s else s.setPort p { x with nackDue := true }

/-- FLIT_RECEIVE (R382, R385 to R387, R394): a flit arrives, `corr` codewords of it corrected, `ue` if one was not; the ACK and credits
of a good flit count, and a DATA flit with the expected SEQ is accepted. -/
def execFlitReceive (p : PortId) (flit : Bytes) (ue : Bool) (corr : Nat) (s : State) : Host.Outcome State Fault Refusal :=
  let n := p.toNat
  if !s.carrying n then .next s
  else
    let s0 := s.count (portOff n 0x20) corr
    let h := field flit 0 12
    let bad := ue || decide (flit.length ≠ 256) || decide (field flit 252 4 ≠ crc32c (flit.take 252)) || decide (3 < bits h 0 4)
      || decide (bits h 10 6 ≠ 0) || decide (bits h 60 4 ≠ 0) || decide (bits h 72 24 ≠ 0)
    if bad then .next ((s0.count (portOff n 0x18) 1).discardFlit n)
    else
      let x := (s0.port n).acked s.now (bits h 32 16) (bits h 48 4) (bits h 52 8)
      let s1 := s0.setPort n x
      match bits h 0 4 with
      | 1 =>
        if bits h 16 16 ≠ x.expect then .next (s1.discardFlit n)
        else
          let vc := bits h 4 4
          let som := bit h 8
          let eom := bit h 9
          let pay := (flit.drop 12).take (if eom then min (bits h 64 8 + 1) 240 else 240)
          let got := if som then some pay else (SMap.find? x.rx vc).map (· ++ pay)
          let x1 := { x with expect := (x.expect + 1) % 2 ^ 16, nackAt := none, nackDue := false, owe := SMap.set x.owe vc (SMap.get x.owe vc 0 + 1),
                             rx := match got with | some b => if eom then SMap.erase x.rx vc else SMap.set x.rx vc b | none => x.rx }
          let s2 := ((s1.setPort n x1).count (portOff n 0x38) 1).tlm (0x380 + 8 * n) pay.length
          match got with
          | some b => .next (if eom then s2.gotMessage n vc b else s2)
          | none => .next s2
      | 2 => .next (s1.setPort n { x with nackIn := some (bits h 32 16) })
      | 3 => .next (s1.setPort n { x with pavIn := some ((flit.drop 12).take 240, s.stamp) })
      | _ => .next s1

/-! ### Resends (R388, R391) -/

/-- Resend from a SEQ on; the eighth resend of it without ACK progress was the last (R391). -/
def State.resendFrom (s : State) (p seq : Nat) : State :=
  let x := s.port p
  if !x.replay.any (fun f => f.seq == seq) then s
  else if 8 ≤ x.tries then s.portDown p 2
  else s.setPort p { x with rewind := some seq, tries := x.tries + 1, ackAt := s.now }

/-- NACK_RECEIVE (R388, R391): every buffered flit from the NACK's ACK onward is resent. -/
def execNackReceive (p : PortId) (s : State) : Host.Outcome State Fault Refusal :=
  let n := p.toNat
  let x := s.port n
  match x.nackIn with
  | none => .next s
  | some a => .next ((s.setPort n { x with nackIn := none }).resendFrom n a)

/-- REPLAY_TIMEOUT (R388, R391): 12 µs with flits buffered and no ACK progress. -/
def execReplayTimeout (p : PortId) (s : State) : Host.Outcome State Fault Refusal :=
  let n := p.toNat
  let x := s.port n
  match x.replay with
  | [] => .next s
  | f :: _ => if s.now < x.ackAt + 12000 ∨ !s.carrying n then .next s else .next (s.resendFrom n f.seq)

end Sys2Proof.Machine
end

