-- ==== Sys2Proof/Machine/Pav.lean ====
section
/-! DEFINITION. The Pavane counter's discipline (R414 to R417). -/

namespace Sys2Proof.Machine

def pvUNLOCKED : Nat := 0
def pvACQUIRING : Nat := 1
def pvLOCKED : Nat := 2
def pvHOLDOVER : Nat := 3

/-- The parent port in use; none on the root and where none is valid. -/
def State.parent (s : State) : Option Nat :=
  let c := (s.reg rPAV_CTRL).toNat
  if bit c 8 then none
  else if s.pavane.alt then (if bit c 10 then some (bits c 4 4) else none)
  else if bit c 9 then some (bits c 0 4) else none

/-- Move the counter forward by eighths of a tick. -/
def State.pavStep (s : State) (n : Nat) : State :=
  let t := (8 * s.pav + s.pavane.frac + n) % 2 ^ 67
  { s with pav := t / 8, pavane := { s.pavane with frac := t % 8 } }

/-- PAVANE_REQ (R415): every 10 µs a parent queues a REQ for the child on a port, with T4 of the last response. -/
def execPavaneReq (p : PortId) (s : State) : Host.Outcome State Fault Refusal :=
  let n := p.toNat
  let x := s.port n
  if !s.carrying n then .next s
  else .next (s.setPort n { x with pavOut := some ⟨false, x.xseq, 0, 0, x.t4⟩, xseq := (x.xseq + 1) % 2 ^ 16, t4 := 0 })

/-- A signed number of eighths, held in 20 bits (FAB_PAV_STATUS.OFFSET). -/
def offField (d : Int) : Nat := ofInt 20 (min (max d (-524288)) 524287)

/-- What an offset does to the counter and the discipline state (R416, R417); positive where this counter is ahead. -/
def State.pavOffset (s : State) (d : Int) : State :=
  let s0 := s.setField rPAV_STATUS 2 20 (offField d)
  let steer := fun (s : State) => ({ s with pavane := { s.pavane with steer := min (max (-d) (-40)) 40 } } : State)
  let acquire := fun (s : State) =>
    let s1 := if d < 0 then ({ s with pavane := { s.pavane with steer := 0 } } : State).pavStep d.natAbs else steer s
    let good := if d.natAbs ≤ 40 then s.pavane.good + 1 else 0
    let s2 := ({ s1 with pavane := { s1.pavane with good := if 16 ≤ good then 0 else good } } : State)
    s2.setField rPAV_STATUS 0 2 (if 16 ≤ good then pvLOCKED else pvACQUIRING)
  if s.pavState = pvLOCKED then
    (if 800 < d.natAbs then acquire (({ s0 with pavane := { s0.pavane with good := 0 } } : State).raise 0x4009 0 none []) else steer s0)
  else acquire s0

/-- PAVANE_EXCHANGE (R415, R416): a REQ received from the parent is answered, and with T4 of the exchange before it the offset is
computed. -/
def execPavaneExchange (p : PortId) (s : State) : Host.Outcome State Fault Refusal :=
  let n := p.toNat
  let x := s.port n
  match x.pavIn with
  | none => .next s
  | some (b, at_) =>
    if field b 0 1 ≠ 1 ∨ s.parent ≠ some n then .next s
    else
      let q := field b 2 2
      let t4 := field b 0x28 8
      let s1 := s.setPort n { x with pavIn := none, pavOut := some ⟨true, q, field b 0x10 8, at_, 0⟩ }
      match s.pavane.prev with
      | some (q0, t1, t2, t3) =>
        if (q0 + 1) % 2 ^ 16 = q ∧ t4 ≠ 0 then
          .next (s1.pavOffset ((((t2 : Int) - t1) - ((t4 : Int) - t3)).fdiv 2))
        else .next s1
      | none => .next s1

/-- PAVANE_RESP (R415): a parent notes when a response came. -/
def execPavaneResp (p : PortId) (s : State) : Host.Outcome State Fault Refusal :=
  let n := p.toNat
  let x := s.port n
  match x.pavIn with
  | none => .next s
  | some (b, at_) =>
    if field b 0 1 ≠ 2 then .next s
    else .next (s.setPort n { x with pavIn := none, t4 := if (field b 2 2 + 1) % 2 ^ 16 = x.xseq then at_ else x.t4 })

/-- PAVANE_PARENT_LOSS (R417): a parent port that left UP gives way to the other; with neither UP the module runs free. -/
def execPavaneParentLoss (s : State) : Host.Outcome State Fault Refusal :=
  let c := (s.reg rPAV_CTRL).toNat
  let up := fun (alt : Bool) => if alt then bit c 10 && s.portSt (bits c 4 4) = 2 else bit c 9 && s.portSt (bits c 0 4) = 2
  let a := s.pavane.alt
  let fresh := fun (s : State) (alt : Bool) => ({ s with pavane := { s.pavane with alt := alt, prev := none } } : State)
  if bit c 8 then .next s
  else if s.pavState = pvHOLDOVER then
    (if up a then .next ((fresh s a).setField rPAV_STATUS 0 2 pvACQUIRING)
     else if up (!a) then .next ((fresh s (!a)).setField rPAV_STATUS 0 2 pvACQUIRING) else .next s)
  else if up a then .next s
  else if up (!a) then .next (fresh s (!a))
  else if s.pavState = pvUNLOCKED then .next s
  else .next ((({ s with pavane := { s.pavane with steer := 0, good := 0, prev := none } } : State).setField rPAV_STATUS 0 2 pvHOLDOVER).raise 0x4008 0 none [])

/-- A write of FAB_PAV_CTRL: the root's counter is the reference (R414). -/
def State.pavCtrl (s : State) : State :=
  if bit (s.reg rPAV_CTRL).toNat 8 then
    ({ s with pavane := { s.pavane with steer := 0, good := 0, prev := none } } : State).setField rPAV_STATUS 0 2 pvLOCKED
  else s

/-- One nanosecond of the counter: a tick, and an eighth of a tick every 250 ns while an offset is steered out (R416). -/
def State.pavTick (s : State) : State :=
  let d := s.pavane.steer
  if d = 0 ∨ s.now % 250 ≠ 0 then { s with pav := (s.pav + 1) % 2 ^ 64 }
  else
    let s1 : State := { s with pavane := { s.pavane with steer := if 0 < d then d - 1 else d + 1 } }
    if 0 < d then s1.pavStep 9 else s1.pavStep 7

end Sys2Proof.Machine
end

