-- ==== Sys2Proof/Decode.lean ====
section
/-! DEFINITION. The command that a word spells by the opcode table's bits, and the OP values that the slots' tables list. -/

namespace Sys2Proof

/-- The opcode table gives no row any bits, so no word spells a command (log 2). -/
def decodeTableWord (_nbits _w : Nat) : Option Instr := none

/-- OP values that the tables of the slots list (R165, R169, R176, R181, R189, R195, R204); OP 0 is the no-operation (R158). -/
def opListed (slot op : Nat) : Bool :=
  if slot = 0 then decide (op ≤ 3)
  else if slot ≤ 2 then decide (op ≤ 5)
  else if slot = 3 then decide (op ≤ 0x0C ∨ 0x10 ≤ op ∧ op ≤ 0x1B ∨ op = 0x20 ∨ op = 0x28 ∨ op = 0x29 ∨ 0x30 ≤ op ∧ op ≤ 0x35)
  else if slot = 4 then decide (op ≤ 5)
  else if slot = 5 then decide (op ≤ 10)
  else if slot = 6 then decide (op ≤ 3 ∨ 0x10 ≤ op ∧ op ≤ 0x1D)
  else decide (op ≤ 7)

end Sys2Proof
end

