-- ==== Sys2Proof/Machine/Flags.lean ====
section
/-! DEFINITION. Status codes and their precedence, poison marks, and the sticky flags that decide a completion (R286, R458,
R536). -/

namespace Sys2Proof.Machine

/-! ### Completion status codes (R458) -/

def stOK : Nat := 0x00
def stDEGRADED : Nat := 0x01
def stCANCELLED : Nat := 0x02
def stDESC_INVALID : Nat := 0x10
def stADDR_RANGE : Nat := 0x11
def stHOST_TIMEOUT : Nat := 0x12
def stSTALE_HANDLE : Nat := 0x13
def stWEIGHT_POISON : Nat := 0x20
def stDATA_POISON : Nat := 0x21
def stDECODE_ERROR : Nat := 0x22
def stFORMAT_MISMATCH : Nat := 0x23
def stNORM_JUMP : Nat := 0x24
def stSTREAM_COLLISION : Nat := 0x25
def stEXPERT_TIMEOUT : Nat := 0x30
def stFABRIC_UNREACHABLE : Nat := 0x31
def stTENANT_FAULT : Nat := 0x40
def stYIELD_OVERRUN : Nat := 0x41
def stINTERNAL : Nat := 0x7F

/-- The statuses in the order of R536, strongest first. -/
def statusOrder : List Nat :=
  [stINTERNAL, stTENANT_FAULT, stYIELD_OVERRUN, stEXPERT_TIMEOUT, stHOST_TIMEOUT, stADDR_RANGE, stDESC_INVALID,
   stSTALE_HANDLE, stDATA_POISON, stWEIGHT_POISON, stDECODE_ERROR, stFORMAT_MISMATCH, stSTREAM_COLLISION, stCANCELLED,
   stFABRIC_UNREACHABLE, stNORM_JUMP, stDEGRADED, stOK]

/-- Rank of a status (R536); a code the table lacks counts as INTERNAL, rank 0 here (R458). -/
def statusRank (s : Nat) : Nat := (statusOrder.findIdx? (fun c => c == s)).getD 0

/-- Of the statuses a work item collected, with their events, the one its completion carries (R536). -/
def worstStatus : List (Nat × Nat) → Nat × Nat
  | [] => (stOK, 0)
  | p :: t => let q := worstStatus t; if statusRank q.1 < statusRank p.1 then q else p

/-- The status of a consumer of a mark (R286). -/
def markStatus (m : Nat) : Nat :=
  if m = 0 then stOK else if m = 1 then stDECODE_ERROR else if m = 2 then stWEIGHT_POISON else stDATA_POISON

/-- The mark that R356 gives a merged row for a return's status. -/
def statusMark (st : Nat) : Nat :=
  if st = stOK ∨ st = stDEGRADED then 0 else if st = stDECODE_ERROR then 1 else if st = stWEIGHT_POISON then 2 else 3

/-- Whether some output of a work item with this status is valid (R536: rank 16 and above). -/
def statusValid (st : Nat) : Bool := decide (15 ≤ statusRank st)

/-! ### Program fault kinds (R154, R654) -/

def fkENCODING : Nat := 0
def fkTILE_CONFLICT : Nat := 1
def fkSTORE_RANGE : Nat := 2
def fkHOST_RANGE : Nat := 3
def fkCONTROL : Nat := 4
def fkTOKEN : Nat := 5
def fkGROUP_OP : Nat := 6
def fkYIELD_OVERRUN : Nat := 7

def faultStatus (k : Nat) : Nat := if k = fkYIELD_OVERRUN then stYIELD_OVERRUN else stTENANT_FAULT

/-! ### Chain flags -/

/-- Add to a chain modulo 2³², with the overflow that sets OVF (R70). -/
def chainAdd (c : W32) (d : Int) : W32 × Bool :=
  let v := c.toInt + d
  (BitVec.ofInt 32 v, decide (v < -2147483648 ∨ 2147483647 < v))

/-- A counter of 16 bits that saturates (R129): new value and whether it would have passed the end. -/
def tkAdd (c : BitVec 16) (n : Nat) : BitVec 16 × Bool :=
  let v := c.toNat + n
  if 65535 < v then (65535, true) else (BitVec.ofNat 16 v, false)

end Sys2Proof.Machine
end

