-- ==== Sys2Proof/Machine/Operands.lean ====
section
/-! DEFINITION. Operand forms of the slot operations: fields of a slot word, reserved bits, and the registers and stores an
operand names (R157 to R164, R653). -/

namespace Sys2Proof.Machine

/-- Bits `lo … lo + len - 1` of a slot word (R157). -/
def fld (w : W64) (lo len : Nat) : Nat := bits w.toNat lo len

/-- One bit of a slot word. -/
def flag (w : W64) (i : Nat) : Bool := bit w.toNat i

/-- The number whose bits are those of the given spans. -/
def spanMask : List (Nat × Nat) → Nat
  | [] => 0
  | (lo, len) :: t => ((2 ^ len - 1) * 2 ^ lo) ||| spanMask t

/-- No bit outside OP, PM when used, and the given spans is set (R157, R159). -/
def onlySpans (w : W64) (pm : Bool) (spans : List (Nat × Nat)) : Bool :=
  let m := spanMask ((0, 6) :: (if pm then (6, 3) :: spans else spans))
  decide (w.toNat &&& m = w.toNat)

/-! ### Registers (R115, R116) -/

def Core.s (c : Core) (i : Nat) : Nat := (SMap.get c.scal i 0).toNat
def Core.sw (c : Core) (i : Nat) : W64 := SMap.get c.scal i 0
/-- Element `e` of vector register `r`. -/
def Core.v (c : Core) (r e : Nat) : W32 := SMap.get c.vec (64 * r + e) 0
/-- P0 reads as all ones (R116). -/
def Core.p (c : Core) (i : Nat) : W64 := if i = 0 then BitVec.allOnes 64 else SMap.get c.pred i 0
/-- Bit `e` of a mask register (R160). -/
def Core.pm (c : Core) (i e : Nat) : Bool := (c.p i).getLsbD e
def Core.t (c : Core) (i : Nat) : Nat := (SMap.get c.th i 0).toNat % 1024
def Core.tile (c : Core) (i : Nat) : Tile := SMap.get c.tiles i {}
def Core.setTile (c : Core) (i : Nat) (t : Tile) : Core := { c with tiles := SMap.set c.tiles i t }
def Tile.chain (t : Tile) (n r : Nat) : W32 := SMap.get t.chains (256 * n + r) 0
def Tile.el (t : Tile) (e : Nat) : LEl := SMap.get t.lacc e LEl.clear
def Core.x (c : Core) (i : Nat) : XCtx := if i = 0 then c.x0 else c.x1
def Core.setX (c : Core) (i : Nat) (x : XCtx) : Core := if i = 0 then { c with x0 := x } else { c with x1 := x }
def Core.store (c : Core) : StoreId → Store
  | .loam => c.loam
  | .kaolin => c.kaolin
  | .table => c.table
def Core.setStore (c : Core) (i : StoreId) (st : Store) : Core :=
  match i with
  | .loam => { c with loam := st }
  | .kaolin => { c with kaolin := st }
  | .table => { c with table := st }
def Store.tag (st : Store) (row : Nat) : Nat := SMap.get st.tags row 0
def Store.mark (st : Store) (row : Nat) : Nat := SMap.get st.marks row 0

/-- A tile's poison mark rises and never falls while its work item runs (R54). -/
def Core.poisonTile (c : Core) (i m : Nat) : Core :=
  let t := c.tile i
  if t.mark < m then c.setTile i { t with mark := m } else c

/-! ### Address generators (R117, R162) -/

/-- A generator from its bits; a run that it takes up in the middle started IDX0 strides before ADDR (log 128). -/
def Ag.ofBits (v : Nat) : Ag :=
  let i := BitVec.ofNat 16 (v / 2 ^ 112)
  { addr := BitVec.ofNat 32 v, stride0 := BitVec.ofNat 32 (v / 2 ^ 32), stride1 := BitVec.ofNat 32 (v / 2 ^ 64),
    count0 := BitVec.ofNat 16 (v / 2 ^ 96), idx0 := i, wrap := BitVec.ofNat 32 (v / 2 ^ 128), store := BitVec.ofNat 2 (v / 2 ^ 160),
    start := if i = 0 then 0 else BitVec.ofNat 32 v - BitVec.ofNat 32 i.toNat * BitVec.ofNat 32 (v / 2 ^ 32) }

def Ag.toBits (g : Ag) : Nat :=
  g.addr.toNat + 2 ^ 32 * g.stride0.toNat + 2 ^ 64 * g.stride1.toNat + 2 ^ 96 * g.count0.toNat + 2 ^ 112 * g.idx0.toNat
    + 2 ^ 128 * g.wrap.toNat + 2 ^ 160 * g.store.toNat

/-- The address a use returns: ADDR, reduced modulo WRAP when WRAP is not 0. -/
def Ag.cur (g : Ag) : W32 := if g.wrap = 0 then g.addr else g.addr % g.wrap

/-- Where the inner run in progress started: ADDR as it was reduced for the run's first use (R117). -/
def Ag.runStart (g : Ag) : W32 := if g.idx0 = 0 then g.cur else g.start

/-- The generator after one use: the COUNT0-th advance of an inner run returns to its start and takes STRIDE1 (R117). -/
def Ag.next (g : Ag) : Ag :=
  let n : Nat := if g.count0 = 0 then 65536 else g.count0.toNat
  if g.idx0.toNat + 1 < n then { g with addr := g.cur + g.stride0, idx0 := g.idx0 + 1, start := g.runStart }
  else { g with addr := g.runStart + g.stride1, idx0 := 0, start := 0 }

def Core.g (c : Core) (i : Nat) : Ag := SMap.get c.ag i {}

/-- Use a generator once: the store code, the address, and the core with the generator advanced. -/
def Core.useAg (c : Core) (i : Nat) : Nat × Nat × Core :=
  let g := c.g i
  (g.store.toNat, g.cur.toNat, { c with ag := SMap.set c.ag i g.next })

/-- Use a generator `n` times: the addresses in order. -/
def Core.useAgN (c : Core) (i : Nat) : Nat → List Nat × Core
  | 0 => ([], c)
  | n + 1 =>
    let (_, a, c1) := c.useAg i
    let (l, c2) := c1.useAgN i n
    (a :: l, c2)

def storeOf (code : Nat) : Option StoreId :=
  if code = 0 then some .loam else if code = 1 then some .kaolin else if code = 2 then some .table else none

def storeCode : StoreId → Nat
  | .loam => 0
  | .kaolin => 1
  | .table => 2

/-- Bytes of a store that the program declared (R163). -/
def Hdr.need (h : Hdr) : StoreId → Nat
  | .loam => h.lNeed
  | .kaolin => h.kNeed
  | .table => h.tNeed

/-- Bank of a row (R270). -/
def bankOf (id : StoreId) (row : Nat) : Nat :=
  let b := match id with | .table => 16 | _ => 32
  (row % b) ^^^ (row / b % b)

/-- Protected word size in bytes (R268). -/
def wordBytes : StoreId → Nat
  | .kaolin => 32
  | _ => 8

/-- A local address word: store and byte address; none where bits [63:34] are set or the store code is 3 (R163, R653). -/
def localAddr (x : W64) : Option (StoreId × Nat) :=
  if bits x.toNat 34 30 ≠ 0 then none
  else (storeOf (bits x.toNat 32 2)).map (fun i => (i, bits x.toNat 0 32))

end Sys2Proof.Machine
end

