-- ==== Sys2Proof/Machine/Ops.lean ====
section
/-! DEFINITION. Named operations over the state: registers and counters, events, work item statuses, engine stores with
error correction, tags and marks, and the issue, close and stop of bundles. -/

namespace Sys2Proof.Machine

/-! ### Engine windows (R295, R622) -/

def engOff (e off : Nat) : Nat := 0x81000 + 0x200 * e + off

def oSTALL_ECC : Nat := 0x000
def oSTALL_BUSY : Nat := 0x008
def oSTALL_QUEUE : Nat := 0x010
def oSTALL_WAIT : Nat := 0x018
def oSTALL_GROUP : Nat := 0x020
def oXP_OPEN : Nat := 0x040
def oXP_RAW : Nat := 0x048
def oXP_FAIL : Nat := 0x050
def oCMP_DENSE : Nat := 0x058
def oLOOKUPS : Nat := 0x070
def oLOOKUP_SKIP : Nat := 0x078
def oL16_UFL : Nat := 0x080
def oISSUE : Nat := 0x088
def oYWD_LIMIT : Nat := 0x090
def oKAOLIN_CE : Nat := 0x100
def oLOAM_CE : Nat := 0x108
def oISTORE_CE : Nat := 0x110
def oSTORE_UE : Nat := 0x118
def oSTORE_RACE : Nat := 0x120
def oACW_SAT : Nat := 0x128
def oBANKC_K_ENG : Nat := 0x130
def oBANKC_L_ENG : Nat := 0x150
def oFOREIGN : Nat := 0x170
def oSTORE_CTRL : Nat := 0x180

def oBANKC_K_DMA : Nat := 0x138
def oBANKC_K_NET : Nat := 0x140
def oBANKC_K_SCRUB : Nat := 0x148
def oBANKC_L_DMA : Nat := 0x158
def oBANKC_L_NET : Nat := 0x160
def oBANKC_T : Nat := 0x168

/-! ### Quadrants and their clocks (R567, R575, R586) -/

def qclkOff (q : Nat) : Nat := 0x10100 + 8 * q
/-- STATE codes of a quadrant (R586): 0 ACTIVE, 1 GATED, 2 RETENTION, 3 RETENTION_PLL_OFF, 4 OFF. -/
def State.qState (s : State) (q : Nat) : Nat := s.getField (qclkOff q) 32 3
def State.qCur (s : State) (q : Nat) : Nat := s.getField (qclkOff q) 8 8
def quadOf (e : Nat) : Nat := e / 24
def quadEngines (q : Nat) : List Nat := (List.range 24).map (· + 24 * q)

/-- Time in which stretched nanoseconds count half and frozen ones not at all (R575). -/
def State.eff (s : State) : Nat := s.now - s.frz - (s.thr - s.frz) / 2

/-! ### Work item statuses -/

/-- Note a status of a work item and the event behind it (R536). -/
def State.addStatus (s : State) (it st ev : Nat) : State :=
  if st = stOK then s
  else match SMap.find? s.items it with
    | none => s
    | some w => s.setItem it { w with statuses := w.statuses ++ [(st, ev)] }

/-- The logical engines that share a lockstep group with an engine, as physical numbers (R134). -/
def State.group (s : State) (e : Nat) : List Nat :=
  let en := s.engine e
  let w := s.item en.item
  if w.hdr.group < 2 then [e]
  else (w.engines.drop (en.logical / w.hdr.group * w.hdr.group)).take w.hdr.group

/-- ID of the audit stream of a channel's predictor, which handle 960 + p names (R102, R366). -/
def auditId (ch p : Nat) : Nat := 0xFC000000 + 64 * ch + p

/-- The registry entry that a handle names for work of a channel (R102): handles from 960 name the channel's audit streams. -/
def State.streamOf (s : State) (tenant ch handle : Nat) : Option StreamE :=
  (s.streams.find? (fun kv => kv.1 / 1024 == tenant &&
    (if handle < 960 then kv.2.handle == some handle else kv.2.id == auditId ch (handle - 960)))).map (·.2)

/-- Word `w` of a draw from the stream that a handle names; none beyond its length (R101, R102, R106). An expert's work names the
predictor that its bundle carries. -/
def State.draw (s : State) (it : WorkItem) (handle r w : Nat) : Option Nat :=
  match it.predRow with
  | some (q, v) =>
    if handle < 960 then
      (match s.streamOf it.tenant it.chan handle with
       | some x => if r < x.length then some (philox x.seed x.id (x.offset + r) w) else none
       | none => none)
    else if handle - 960 = q then some (philox v.seed v.stream r w) else none
  | none =>
    match s.streamOf it.tenant it.chan handle with
    | some x => if r < x.length then some (philox x.seed x.id (x.offset + r) w) else none
    | none => none

/-- Predictor `p` as a decision of a work item sees it (R366, R373). -/
def State.predView (s : State) (w : WorkItem) (p : Nat) : PredView :=
  match w.predRow with
  | some (q, v) => if p = q then v else ⟨0, false, 3, 1, 6, lZERO, 0, 0⟩
  | none =>
    let x := SMap.get s.preds (w.chan * 64 + p) {}
    ⟨x.mode, x.fallen, x.act, x.fallback, x.auditLog2, x.floor, x.seed, auditId w.chan p⟩

/-! ### Reading and writing a store -/

/-- What a stored word with `k` flipped bits gives (R652): 0 clean, 1 corrected, 2 uncorrectable, 3 wrong and unseen. -/
def eccClass (id : StoreId) (k free : Nat) : Nat :=
  let lim : Nat × Nat := match id with | .kaolin => (2, 3) | .loam => (1, 2) | .table => (0, 1)
  if k = 0 then 0
  else if k ≤ lim.1 then 1
  else if k = lim.2 then 2
  else if id = .table ∧ k % 2 = 1 then 2
  else if Config.eccOutcome free % 3 = 0 then 2 else 3

/-- The result of a store read: bytes, words corrected, rows with an uncorrectable word and how many such words, and the mark. -/
structure Rd where
  bytes : Bytes
  words : List Nat
  rows : List Nat
  mark : Nat
  deriving DecidableEq, Repr

/-- Words that the read corrected, and words it could not correct. -/
def Rd.corrected (r : Rd) : Nat := r.words.length
def Rd.ue (r : Rd) : Nat := r.rows.length

/-- The mark of an uncorrectable word of a store (R286, R289). -/
def ueMark : StoreId → Nat
  | .kaolin => 2
  | _ => 3

/-- XOR a word's flipped bits into the bytes of a range. -/
def flipBytes (a : Nat) (b : Bytes) (base wb mask : Nat) : Bytes :=
  b.zipIdx.map (fun (x, i) =>
    let p := a + i
    if base ≤ p ∧ p < base + wb then x ^^^ BitVec.ofNat 8 (mask / 2 ^ (8 * (p - base))) else x)

/-- The next write-back list (R285). -/
def addWb (l : List Nat) (x : Nat) : List Nat := if l.contains x then l else l ++ [x]

/-- Meet the latent errors of the words a read touches: correct, mark, or deliver flipped bits (R285, R286). -/
def meetRead (id : StoreId) (free a : Nat) : List (Nat × Nat) → Rd → Rd
  | [], r => r
  | (k, mask) :: t, r =>
    let wb := wordBytes id
    let c := eccClass id (popcount (8 * wb) mask) (free + k)
    meetRead id free a t (
      if c = 1 then { r with words := r.words ++ [k] }
      else if c = 2 then
        { r with bytes := flipBytes a r.bytes (k * wb) wb mask, rows := r.rows ++ [k * wb / 256], mark := max r.mark (ueMark id) }
      else { r with bytes := flipBytes a r.bytes (k * wb) wb (mask ^^^ Config.eccMask (free + k)) })

/-- Rows that `n` bytes from `a` touch. -/
def rowsOf (a n : Nat) : List Nat := if n = 0 then [] else (List.range ((a + n - 1) / 256 - a / 256 + 1)).map (· + a / 256)

def Store.maxMark (st : Store) (rows : List Nat) : Nat := rows.foldl (fun m r => max m (st.mark r)) 0

/-- Raise the mark of a row. -/
def Store.raiseMark (st : Store) (m r : Nat) : Store := { st with marks := SMap.set st.marks r (max (st.mark r) m) }

/-- What a read leaves in its store: corrected words to write back, and the mark of each row with an uncorrectable word; the table file
has no row marks (R285, R286, R289). -/
def Store.afterRead (st : Store) (id : StoreId) (r : Rd) : Store :=
  let st1 := { st with wb := r.words.foldl addWb st.wb }
  if id = .table then st1 else r.rows.foldl (fun x k => x.raiseMark (ueMark id) k) st1

/-- Latent errors of the words that `n` bytes from `a` touch. -/
def Store.errsIn (st : Store) (id : StoreId) (a n : Nat) : List (Nat × Nat) :=
  st.errs.filter (fun kv => decide (a / wordBytes id ≤ kv.1 ∧ kv.1 * wordBytes id < a + n))

/-- Read `n` bytes from `a` (R285 to R288): bytes, the words corrected and uncorrectable, and the highest mark among the rows read. -/
def Store.read (st : Store) (id : StoreId) (free a n : Nat) : Rd :=
  meetRead id free a (st.errsIn id a n) ⟨Memory.readN st.data a n, [], [], st.maxMark (rowsOf a n)⟩

/-- Bytes of a word (offset within it) that a write covers. -/
def covered (base wb : Nat) (bs : List (Nat × Byte)) : Nat :=
  (bs.filter (fun p => decide (base ≤ p.1 ∧ p.1 < base + wb))).length

/-- Meet the latent errors of the words a write touches (R287): a whole word drops them; a part corrects them, or leaves the
merged word with its wrong bytes and the row's mark. -/
def Store.meetWrite (id : StoreId) (free : Nat) (bs : List (Nat × Byte)) : List (Nat × Nat) → Store × Nat × Nat →
    Store × Nat × Nat
  | [], r => r
  | (k, mask) :: t, (st, ce, ue) =>
    let wb := wordBytes id
    let n := covered (k * wb) wb bs
    let st0 := { st with errs := SMap.erase st.errs k, wb := st.wb.filter (· != k) }
    let r1 : Store × Nat × Nat :=
      if n = 0 then (st, ce, ue)
      else if n = wb then (st0, ce, ue)
      else
        let c := eccClass id (popcount (8 * wb) mask) (free + k)
        if c = 1 then (st0, ce + 1, ue)
        else
          let m := if c = 2 then mask else mask ^^^ Config.eccMask (free + k)
          let st1 := { st0 with data := Memory.writeN st0.data (k * wb) (flipBytes (k * wb) (Memory.readN st0.data (k * wb) wb) (k * wb) wb m) }
          if c = 2 ∧ id ≠ .table then
            ({ st1 with marks := SMap.set st1.marks (k * wb / 256) (max (st1.mark (k * wb / 256)) (ueMark id)) }, ce, ue + 1)
          else (st1, ce, if c = 2 then ue + 1 else ue)
    Store.meetWrite id free bs t r1

/-- The result of a store write: the store, whether the tag check refused it, words corrected and uncorrectable. -/
structure Wr where
  store : Store
  refused : Bool
  ce : Nat
  ue : Nat
  deriving DecidableEq, Repr

def putBytes (m : Memory) : List (Nat × Byte) → Memory
  | [] => m
  | (a, b) :: t => putBytes (Memory.write m a b) t

/-- Rows that a list of byte writes touches. -/
def rowsOfW (bs : List (Nat × Byte)) : List Nat := bs.foldl (fun l p => if l.contains (p.1 / 256) then l else l ++ [p.1 / 256]) []

/-- A plain write (R108, R191, R287): a whole Loam row sets tag and mark; a part must find its format or NONE and only
raises the mark. -/
def Store.write (st : Store) (free : Nat) (w : StoreW) : Wr :=
  let rows := rowsOfW w.bytes
  if w.store = .loam ∧ !w.whole ∧ rows.any (fun r => st.tag r != fNONE && st.tag r != w.fmt) then ⟨st, true, 0, 0⟩
  else
    let (st1, ce, ue) := Store.meetWrite w.store free w.bytes st.errs (st, 0, 0)
    let st2 := { st1 with data := putBytes st1.data w.bytes }
    let st3 := rows.foldl (fun x r =>
      let m := if w.whole then w.mark else max (x.mark r) w.mark
      { x with marks := if m = 0 then SMap.erase x.marks r else SMap.set x.marks r m,
               tags := if w.whole ∧ w.store = .loam then (if w.fmt = 0 then SMap.erase x.tags r else SMap.set x.tags r w.fmt) else x.tags }) st2
    ⟨st3, false, ce, ue⟩

/-! ### Accumulate-on-write (R193, R281 to R284) -/

/-- The values of a row as `w64` says. -/
def rowVal (st : Store) (row : Nat) (w64 : Bool) (k : Nat) : Int :=
  if w64 then toInt 64 (leNat (Memory.readN st.data (256 * row + 8 * k) 8))
  else toInt 32 (leNat (Memory.readN st.data (256 * row + 4 * k) 4))

/-- Clamp or wrap a sum: its value and whether it was clamped (R283, R284). -/
def accSum (sat w64 : Bool) (v : Int) : Int × Bool :=
  let n : Nat := if w64 then 64 else 32
  let hi : Int := (2 ^ (n - 1) : Nat) - 1
  let lo : Int := -((2 ^ (n - 1) : Nat) : Int)
  if sat ∧ hi < v then (hi, true) else if sat ∧ v < lo then (lo, true) else (v, false)

/-- The result of an accumulate-on-write: store, refused, saturated sums, words corrected and uncorrectable. -/
structure AcwR where
  store : Store
  refused : Bool
  sats : Nat
  ce : Nat
  ue : Nat
  deriving DecidableEq, Repr

/-- The words that an accumulate-on-write reads (R281): corrected ones are counted, uncorrectable ones go into the sums as read and mark
the row. -/
def Store.meetAcw (free row : Nat) (touched : Nat → Bool) : List (Nat × Nat) → Store × Nat × Nat → Store × Nat × Nat
  | [], r => r
  | (k, mask) :: t, (st, ce, ue) =>
    if !touched k then Store.meetAcw free row touched t (st, ce, ue)
    else
      let c := eccClass .loam (popcount 64 mask) (free + k)
      let st0 := { st with errs := SMap.erase st.errs k, wb := st.wb.filter (· != k) }
      let bad := fun (m : Nat) => { st0 with data := Memory.writeN st0.data (8 * k) (flipBytes (8 * k) (Memory.readN st0.data (8 * k) 8) (8 * k) 8 m) }
      Store.meetAcw free row touched t (
        if c = 1 then (st0, ce + 1, ue)
        else if c = 2 then ((bad mask).raiseMark (ueMark .loam) row, ce, ue + 1)
        else (bad (mask ^^^ Config.eccMask (free + k)), ce, ue))

/-- One accumulate-on-write into a row (R193, R281): the tag must match; each listed value is added; a mark of the data raises
the row's. -/
def Store.acw (st : Store) (free row : Nat) (w64 sat : Bool) (vals : List (Nat × Int)) (mark : Nat) : AcwR :=
  if st.tag row ≠ (if w64 then fI64 else fI32) then ⟨st, true, 0, 0, 0⟩
  else
    let n : Nat := if w64 then 8 else 4
    let (st1, ce, ue) := Store.meetAcw free row (fun w => vals.any (fun p => decide (w = 32 * row + n * p.1 / 8))) st.errs (st, 0, 0)
    let sums := vals.map (fun (k, v) => (k, accSum sat w64 (rowVal st1 row w64 k + v)))
    let bs := sums.flatMap (fun (k, v, _) =>
      (leBytes n (ofInt (8 * n) v)).zipIdx.map (fun (b, i) => (256 * row + n * k + i, b)))
    let st2 := { st1 with data := putBytes st1.data bs }
    let m := max (st2.mark row) mark
    ⟨{ st2 with marks := if m = 0 then SMap.erase st2.marks row else SMap.set st2.marks row m }, false,
      (sums.filter (fun x => x.2.2)).length, ce, ue⟩

/-! ### Applying results in flight (R120, R121) -/

/-- What applying a result to an engine's core leaves to do outside it. -/
structure App where
  core : Core
  staged : List Staged := []
  deriving DecidableEq, Repr

def ceOff : StoreId → Nat
  | .kaolin => oKAOLIN_CE
  | _ => oLOAM_CE

/-- Count and report corrected and uncorrectable words (R285, R286). -/
def eccStaged (id : StoreId) (ce ue : Nat) : List Staged :=
  (if ce = 0 then [] else [.count (ceOff id) ce])
    ++ (if ue = 0 then [] else [.count oSTORE_UE ue, .event 0x3100 []])

def putVals (m : SMap W32) (r : Nat) : List (Nat × W32) → SMap W32
  | [] => m
  | (e, v) :: t => putVals (SMap.put m (64 * r + e) v) r t

/-- Add the lane results of a lookup-accumulate to the chains of its tile (R38, R70, R172). -/
def addDeltas (clr : Bool) (t : Tile) : List (Nat × Option Int) → Tile
  | [] => t
  | (k, none) :: l => addDeltas clr (if clr then { t with chains := SMap.erase t.chains k, errs := SMap.erase t.errs k } else t) l
  | (k, some d) :: l =>
    let (v, o) := chainAdd (if clr then 0 else SMap.get t.chains k 0) d
    addDeltas clr { t with chains := SMap.put t.chains k v, ovf := t.ovf || o, errs := if clr then SMap.erase t.errs k else t.errs } l

/-- Add the terms of a fold to the elements of its tile (R84, R86). -/
def addTerms (start : Bool) (t : Tile) : List (Nat × (Int × Int)) → Tile
  | [] => t
  | (k, (v, e)) :: l =>
    let x := if start then LEl.clear else t.el k
    addTerms start { t with lacc := SMap.set t.lacc k (x.addTerm v e),
                            errs := if start then SMap.erase t.errs (4096 + k) else t.errs } l

/-- Merge records into elements; a malformed one poisons the tile (R91). -/
def mergeRecs (t : Tile) : List (Nat × LRec) → Tile × Bool
  | [] => (t, false)
  | (k, r) :: l =>
    if r.bad then
      let (t1, _) := mergeRecs { t with mark := 3 } l
      (t1, true)
    else mergeRecs { t with lacc := SMap.set t.lacc k ((t.el k).merge r) } l

/-- A refused tag check leaves its target unchanged and is reported (R108, R267). -/
def mismatch : List Staged := [.status stFORMAT_MISMATCH 0x2004, .event 0x2004 []]

/-- Make one result visible. -/
def Core.applyRes (c : Core) (free satmap : Nat) (r : Res) : App :=
  match r with
  | .vec i vals => ⟨{ c with vec := putVals c.vec i vals }, []⟩
  | .scal i v => ⟨{ c with scal := SMap.put c.scal i v }, []⟩
  | .pred p v => ⟨if p = 0 then c else { c with pred := SMap.put c.pred p v }, []⟩
  | .ag i a => ⟨{ c with ag := SMap.set c.ag i a }, []⟩
  | .th i v => ⟨{ c with th := SMap.put c.th i v }, []⟩
  | .set base b =>
    let w := Store.write c.table free ⟨.table, b.zipIdx.map (fun (x, i) => (base + i, x)), fRAW, 0, false⟩
    ⟨{ c with table := w.store }, []⟩
  | .la tile _ clr ds => ⟨c.setTile tile (addDeltas clr (c.tile tile) (ds.zipIdx.map (fun (d, i) => (i, d)))), []⟩
  | .fold tile st ts => ⟨c.setTile tile (addTerms st (c.tile tile) (ts.zipIdx.map (fun (d, i) => (i, d)))), []⟩
  | .merge tile first rs =>
    let (t, bad) := mergeRecs (c.tile tile) (rs.zipIdx.map (fun (d, i) => (first + i, d)))
    ⟨c.setTile tile t, if bad then [.status stDATA_POISON 0] else []⟩
  | .clear tile => ⟨c.setTile tile { c.tile tile with chains := [], lacc := [], ovf := false, fold := none, errs := [] }, []⟩
  | .store w =>
    let w1 := if w.whole then { w with mark := max w.mark c.consumed } else w
    let r := Store.write (c.store w.store) free w1
    if r.refused then ⟨c, mismatch⟩
    else
      let c1 := c.setStore w.store r.store
      ⟨if w.store = .table ∧ 0 < r.ue then { c1 with consumed := 3 } else c1, eccStaged w.store r.ce r.ue⟩
  | .acw row w64 vals mark =>
    let sat := bit satmap (row / 256)
    let r := Store.acw c.loam free row w64 sat vals mark
    if r.refused then ⟨c, mismatch⟩
    else ⟨{ c with loam := r.store },
      (if r.sats = 0 then [] else [.count oACW_SAT r.sats, .event 0x3103 []]) ++ eccStaged .loam r.ce r.ue⟩

/-- Apply a list of results in order. -/
def Core.applyList (c : Core) (free satmap : Nat) : List Pend → App
  | [] => ⟨c, []⟩
  | p :: t =>
    let a := c.applyRes free satmap p.res
    let b := a.core.applyList (free + 4096) satmap t
    ⟨b.core, a.staged ++ b.staged⟩

/-- Make visible what is due at one schedule position, in issue order (R121, R161). -/
def Core.applyAt (c : Core) (free satmap q : Nat) : App :=
  let (now, later) := c.pend.partition (fun p => decide (p.due ≤ q))
  ({ c with pend := later } : Core).applyList free satmap now

def Res.isStore : Res → Bool
  | .store _ => true
  | .acw _ _ _ _ => true
  | _ => false

/-- What a write to a store covers: the store, whether it accumulates, and the byte addresses. -/
def Res.covers : Res → Option (StoreId × Bool × List Nat)
  | .store w => some (w.store, false, w.bytes.map (·.1))
  | .acw row w64 vals _ =>
    let n : Nat := if w64 then 8 else 4
    some (.loam, true, vals.flatMap (fun p => (List.range n).map (fun i => 256 * row + n * p.1 + i)))
  | _ => none

/-- The old contents that the engine goes on to see until a write's latency has passed (R120; log 130). -/
def Core.shadowOf (c : Core) (p : Pend) : List Shadow :=
  match p.res.covers with
  | none => []
  | some (id, acw, as) =>
    let st := c.store id
    [⟨p.due, id, acw, as.map (fun a => (a, Memory.read st.data a)), (rowsOfW (as.map (fun a => (a, 0)))).map (fun r => (r, st.mark r))⟩]

/-- The stores carry out the writes whose cycle this is, in issue order (R278). -/
def Core.land (c : Core) (free satmap : Nat) : List Pend → App
  | [] => ⟨c, []⟩
  | p :: t =>
    let a := c.applyRes free satmap p.res
    let b := ({ a.core with shadow := a.core.shadow ++ c.shadowOf p } : Core).land (free + 4096) satmap t
    ⟨b.core, a.staged ++ b.staged⟩

/-- One schedule cycle passes: writes whose cycle it is are carried out, and results whose latency has passed become visible (R120,
R121). -/
def Core.advance (c : Core) (free satmap : Nat) : App :=
  let (now, later) := c.pend.partition (fun p => p.res.isStore && decide (p.at_ ≤ c.pos))
  let a := ({ c with pend := later } : Core).land free satmap now
  let b := ({ a.core with pos := c.pos + 1, shadow := a.core.shadow.filter (fun x => decide (c.pos + 1 < x.due)) } : Core).applyAt
    (free + 1048576) satmap (c.pos + 1)
  ⟨b.core, a.staged ++ b.staged⟩

/-- Let everything in flight land, as when a program stops: earlier bundles complete (R154). -/
def Core.drain (c : Core) (free satmap : Nat) : App :=
  ({ c with pend := [], shadow := [] } : Core).applyList free satmap c.pend

/-- A store as the engine's reads see it before a schedule position (R120): the newest write is undone first. -/
def Core.viewAt (c : Core) (id : StoreId) (q : Nat) : Store :=
  (c.shadow.filter (fun x => decide (x.store = id ∧ q < x.due))).reverse.foldl (fun st x =>
    { st with data := putBytes st.data x.bytes,
              marks := x.marks.foldl (fun m p => if p.2 = 0 then SMap.erase m p.1 else SMap.set m p.1 p.2) st.marks }) (c.store id)

/-- A format fence retires and the new tags take effect (R109, R201). -/
def Core.retireFence (c : Core) : Core :=
  match c.fence with
  | none => c
  | some (tiles, ttag, first, count, ltag) =>
    let c1 := (List.range 4).foldl (fun (c : Core) t => if bit tiles t then c.setTile t { c.tile t with tag := BitVec.ofNat 8 ttag } else c) c
    let tags := (List.range count).foldl (fun m i => if ltag = 0 then SMap.erase m (first + i) else SMap.set m (first + i) ltag) c1.loam.tags
    { c1 with loam := { c1.loam with tags := tags }, fence := none }

/-- Effects that only note what happened: they go through when a program stops; nothing new leaves the engine. -/
def Staged.isNote : Staged → Bool
  | .net _ => false
  | .queue _ => false
  | .hold _ => false
  | .finish => false
  | _ => true

/-! ### Bundles: branches, loops and bank conflicts -/

/-- After the last bundle of a body: the next bundle and the loops still active (R205, R206). -/
def loopNext (pc : Nat) : List LoopSt → Nat × List LoopSt
  | [] => (pc + 1, [])
  | l :: t =>
    if l.last = pc then (if 0 < l.left then (l.first, { l with left := l.left - 1 } :: t) else loopNext pc t)
    else if t.any (fun m => m.last == pc) then loopNext pc t
    else (pc + 1, l :: t)

/-- Count a branch's delay bundles down; the one that runs out gives the target (R122). -/
def branchStep : List (Nat × Nat) → Option Nat × List (Nat × Nat)
  | [] => (none, [])
  | (t, 0) :: l => let (r, l') := branchStep l; (some (r.getD t), l')
  | (t, n + 1) :: l => let (r, l') := branchStep l; (r, (t, n) :: l')

/-- The core after a bundle issued: where issue goes next. A taken branch ends every loop whose body does not hold its target, with the
loops inside it (R205); a loop of count 0 passes its body over, as if issue stood at its last bundle, unless an enclosing body ends
before (R206). -/
def Core.nextPc (c : Core) : Core :=
  let (tgt, br) := branchStep c.branch
  match tgt with
  | some t => { c with pc := t, branch := br, skip := 0, loops := (c.loops.reverse.takeWhile (fun l => decide (l.first ≤ t ∧ t ≤ l.last))).reverse }
  | none =>
    let ends := (c.loops.map (·.last)).filter (fun n => decide (c.pc ≤ n ∧ n < c.pc + c.skip))
    let (p, ls) := loopNext (ends.foldl min (c.pc + c.skip)) c.loops
    { c with pc := p, branch := br, loops := ls, skip := 0 }

/-- Accesses in the order in which the engine port serves them (R272). -/
def insAcc (a : Acc) : List Acc → List Acc
  | [] => [a]
  | b :: t => if a.slot < b.slot then a :: b :: t else b :: insAcc a t

/-- One cycle of the engine port (R272): of two accesses to one bank both go only where both read one row; else the first in order goes.
The accesses that must repeat. -/
def serveRound : List Acc → List Acc → List Acc
  | [], _ => []
  | a :: t, served =>
    let meets := fun (b : Acc) => b.store == a.store && bankOf b.store b.row == bankOf a.store a.row && !(b.row == a.row && !a.write && !b.write)
    if served.any meets then a :: serveRound t served else serveRound t (a :: served)

/-- Number of repeat cycles and of BUSY responses of Kaolin and of Loam accesses until all are served. -/
def busyRounds : Nat → List Acc → Nat × Nat × Nat
  | 0, _ => (0, 0, 0)
  | n + 1, l =>
    let r := serveRound l []
    if r.isEmpty then (0, 0, 0)
    else
      let (a, k, m) := busyRounds n r
      (a + 1, k + (r.filter (fun x => x.store == .kaolin)).length, m + (r.filter (fun x => x.store == .loam)).length)

/-- The accesses of the cycle at hand, in order; the table file never gives BUSY (R272, R277). -/
def Engine.portNow (en : Engine) : List Acc :=
  (en.acc.filter (fun a => decide (a.at_ = en.core.pos ∧ a.store ≠ .table))).foldl (fun l a => insAcc a l) []

/-! ### Committing a bundle's outside effects -/

/-- Carry out one effect that a bundle left; the event of a bad block header names its engine first (R263). -/
def State.stage (s : State) (e : Nat) (x : Staged) : State :=
  let en := s.engine e
  let it := en.item
  match x with
  | .status st ev => s.addStatus it st ev
  | .event code det =>
    if code = 0x3103 then
      (let w := s.item it
       if w.sated.contains e then s else (s.setItem it { w with sated := e :: w.sated }).raise code 0 (some w.tenant) det)
    else s.raise code 0 (some (s.item it).tenant) (if code = 0x2000 ∨ code = 0x2006 then (1, e) :: det.drop 1 else det)
  | .count off n => s.count (engOff e off) n
  | .normEl i j sq => let w := s.item it; s.setItem it { w with normSq := w.normSq ++ [(i, j, sq)] }
  | .ovr i => let w := s.item it; if w.normOver.contains i then s else s.setItem it { w with normOver := w.normOver ++ [i] }
  | .overspan => let w := s.item it; s.setItem it { w with overspan := true }
  | .net w =>
    let m := s.engine e
    let own := match w.kind with | .acw row _ _ _ => if w.dst = e then [(w.seq, row)] else [] | _ => []
    ({ s with net := s.net ++ [{ w with tc := (s.item it).tc, sent := s.netSent }], netSent := s.netSent + 1 } : State).setEngine e
      { m with unacked := m.unacked ++ [w.seq], outstanding := m.outstanding + 1, selfAcw := m.selfAcw ++ own }
  | .audit p t a m => let w := s.item it; s.setItem it { w with audits := w.audits ++ [(p, t, a, m)] }
  | .skipTok p t k => let w := s.item it; s.setItem it { w with skips := w.skips ++ [(p, t, k)] }
  | .queue q =>
    let m := s.engine e
    if m.queue.length < 16 then s.setEngine e { m with queue := m.queue ++ [q] } else s.setEngine e { m with hold := m.hold ++ [.queue q] }
  | .hold h => let m := s.engine e; s.setEngine e { m with hold := m.hold ++ [h] }
  | .finish => let m := s.engine e; s.setEngine e { m with st := .ending }
  | .mset b bs due => (s.group e).foldl (fun s g =>
      let m := s.engine g
      let p : Pend := ⟨due, due - 4, 0, .set b bs, 0⟩
      s.setEngine g { m with core := { m.core with pend := m.core.pend ++ [p] }, snap := { m.snap with pend := m.snap.pend ++ [p] } }) s

def State.stageAll (s : State) (e : Nat) (l : List Staged) : State := l.foldl (fun s x => s.stage e x) s

/-- `n` stall cycles that an engine raised, counted for it, for its lockstep group and for the watchdogs (R124, R140). -/
def State.stallFor (s : State) (e off n : Nat) : State :=
  (s.group e).foldl (fun s g =>
    let s2 := s.count (engOff g (if g = e then off else oSTALL_GROUP)) n
    let en := s2.engine g
    s2.setEngine g { en with wd := en.wd + n }) s

/-- A stall of `n` cycles that a condition of engine `e` made ends (R124): the engine counts them; a member that raised no condition counts
those in which it stalled for another; the watchdogs see what no condition before has made them see, but nothing of a waiting yield
point (R140). -/
def State.holdEnds (s : State) (e off n : Nat) (yield : Bool) : State :=
  (s.group e).foldl (fun s g =>
    let en := s.engine g
    let more := n - en.held
    let s2 := if g ≠ e ∧ en.hold.isEmpty then s.count (engOff g oSTALL_GROUP) more else s
    s2.setEngine g { en with held := max en.held n, wd := if yield then en.wd else en.wd + more }) (s.count (engOff e off) n)

/-- The counter of a stall condition (R124). -/
def Hold.counter : Hold → Nat
  | .wait _ _ _ _ => oSTALL_WAIT
  | _ => oSTALL_QUEUE

/-- Engine cycles since the running stall of an engine began (log 134). -/
def State.stalled (s : State) (e : Nat) : Nat := (s.eff - (s.engine e).holdAt) * s.qCur (quadOf e) / 100

/-- The running stalls of a group end because its work item stops or is suspended: their cycles are counted (R124, R156; log 134). -/
def State.stallsCut (s : State) (e : Nat) : State :=
  (s.group e).foldl (fun s g => ((s.engine g).hold.map Hold.counter).eraseDups.foldl (fun s off => s.holdEnds g off (s.stalled g) true) s) s

/-- Whether the open bundle of an engine is a yield point (R138). -/
def State.yieldPoint (s : State) (e : Nat) : Bool :=
  let en := s.engine e
  let pc := en.snap.pc
  en.issued.any (fun i => match i with
    | .syNop _ w | .send _ w | .wait _ w | .stackLoad _ w | .stackStore _ w | .hostLoad _ w | .hostStore _ w
    | .planeGather _ w | .marlGather _ w | .peer _ w | .stackCopy _ w | .fmtFence _ w | .qsend _ w | .svsend _ w => flag w 9
    | _ => false) && (s.item en.item).yds.any (fun y => y.bundle == pc)

/-- Stop an engine where it stands: results of earlier bundles land, nothing further issues (R154). -/
def State.haltEngine (s : State) (e : Nat) : State :=
  let en := s.engine e
  let a := en.snap.drain s.freeCtr en.satmap
  let s1 := s.setEngine e { en with
    st := .done, core := a.core, snap := a.core, issued := [], acc := [], staged := [], closed := none, hold := [], redo := false, stall := 0,
    bubbles := 0, queue := [], unacked := [], acks := [], selfAcw := [], dma := [], outstanding := 0 }
  let s2 : State := { s1 with freeCtr := s1.freeCtr + 4294967296, net := s1.net.filter (fun w => w.src != e), tokens := s1.tokens.filter (fun t => t.src != e) }
  s2.stageAll e (a.staged.filter Staged.isNote)

/-- Stop the members of a lockstep group in one cycle (R137, R154). -/
def State.haltGroup (s : State) (e : Nat) : State := (s.group e).foldl State.haltEngine (s.stallsCut e)

/-- Begin the stop of a work item (R154): it completes with the given status. -/
def State.stopItem (s : State) (it st ev : Nat) : State :=
  let s1 := s.addStatus it st ev
  match SMap.find? s1.items it with
  | none => s1
  | some w => if w.phase = .complete ∨ w.phase = .ended then s1 else s1.setItem it { w with phase := .stopping, stopped := true }

/-- The lookup-accumulate that a conflicting one overlaps is not carried out (R41): drop the result of the half still
occupied. -/
def Core.dropConflict (c : Core) : Core :=
  { c with pend := c.pend.filter (fun p => match p.res with
      | .la _ h _ _ => decide (SMap.get c.occ (1 + h) 0 ≤ c.pos) ||
          c.pend.any (fun q => decide (p.issued < q.issued) && (match q.res with | .la _ h' _ _ => h' == h | _ => false))
      | _ => true) }

/-- A program fault (R154): no slot of the bundle takes effect, the engine and its group stop, the work item stops. The event names the
fault kind, the logical engine and the bundle; its HANDLE is 0 (log 139). -/
def State.progFault (s : State) (e kind : Nat) : State :=
  let en := s.engine e
  let w := s.item en.item
  let code := if kind = fkYIELD_OVERRUN then 0x5101 else 0x5100
  let s0 := if kind = fkTILE_CONFLICT then s.setEngine e { en with snap := en.snap.dropConflict } else s
  let s1 := s0.haltGroup e
  (s1.raise code 0 (some w.tenant) [(1, kind), (1, en.logical), (2, en.snap.pc)]).stopItem en.item (faultStatus kind) code

/-- A FAST_OFF_N freeze, or the clocks stopped by a trip, hold every engine (R577, R580, R581). -/
def State.frozen (s : State) : Bool := bit (s.reg 0x10008).toNat 2 || s.supply.clocksOff

/-- No condition stalls a lockstep group (R124). -/
def State.unstalled (s : State) (g : List Nat) : Bool :=
  g.all (fun m => let en := s.engine m; en.hold.isEmpty && !en.redo && decide (en.stall = 0))

/-- Whether an engine can take slot operations: it runs, its bundle is open, neither it nor a member of its group stalls or fences (R113,
R124, R655), its quadrant is clocked (R128), and the module has no fatal fault (R27). A work item that is being stopped begins no new
bundle (R154). -/
def State.canIssue (s : State) (e : Nat) : Bool :=
  let en := s.engine e
  decide (en.st = .running) && en.closed.isNone && decide (en.bubbles = 0) && !s.frozen && !s.fatal && decide (s.qState (quadOf e) = 0)
    && (decide ((s.item en.item).phase ≠ .stopping) || !en.issued.isEmpty) && s.unstalled (s.group e)

/-- Members of a group must agree on a multicast (R168). -/
def State.mcastOk (s : State) (g : List Nat) : Bool :=
  let l := g.map (fun e => (s.engine e).core.mcast)
  match l with
  | [] => true
  | x :: t => t.all (fun y => y == x)

/-- The slot of a slot operation in the order the model takes a bundle's commands: BR before SY, which ends it (R112). -/
def slotOf : Instr → Nat
  | .tbD _ _ | .tbS _ _ | .tbP _ _ => 0
  | .laD _ h _ | .laS _ h _ | .laC _ h _ | .laCs _ h _ | .laP _ h _ => 1 + h.val
  | .fold _ _ | .rqCvt _ _ | .merge _ _ | .anp _ _ | .anpMeasurement _ _ | .rqClr _ _ => 4
  | .mvLd _ _ | .mvSt _ _ | .mvStr _ _ | .mvAcw _ _ | .mvAgset _ _ | .mvThset _ _ | .mvThadd _ _ | .xopen _ _
  | .mvSld _ _ | .mvSst _ _ => 5
  | .brc _ _ | .jmp _ _ | .loop _ _ | .sadd _ _ | .ssub _ _ | .sand _ _ | .sor _ _ | .sxor _ _ | .sshl _ _ | .sshr _ _
  | .ssra _ _ | .smin _ _ | .smax _ _ | .slt _ _ | .sltu _ _ | .sli _ _ | .slih _ _ => 6
  | .syNop _ _ | .send _ _ | .wait _ _ | .stackLoad _ _ | .stackStore _ _ | .hostLoad _ _ | .hostStore _ _
  | .planeGather _ _ | .marlGather _ _ | .peer _ _ | .stackCopy _ _ | .fmtFence _ _ | .qsend _ _ | .svsend _ _
  | .endOp _ _ => 7
  | _ => 3

/-- What a slot word does (R158, R159): a reserved OP is an invalid encoding; OP 0 does nothing, and all its other bits are 0. -/
def slotWord (slot : Nat) (w : W64) (f : State → Engine → Except Nat Engine) (s : State) (en : Engine) : Except Nat Engine :=
  if !opListed slot (fld w 0 6) then .error fkENCODING
  else if fld w 0 6 = 0 then (if w = 0 then .ok en else .error fkENCODING)
  else f s en

/-- Issue one slot operation of the open bundle: nothing happens where the engine cannot issue it; issue past the code or
a fault of the operation stops the program (R113, R154, R205). -/
def State.issueSlot (s : State) (e : Nat) (i : Instr) (w : W64) (f : State → Engine → Except Nat Engine) : State :=
  let en := s.engine e
  if !s.canIssue e || en.issued.any (fun j => decide (slotOf i ≤ slotOf j)) then s
  else if (s.item en.item).hdr.bundles ≤ en.snap.pc then s.progFault e fkCONTROL
  else match slotWord (slotOf i) w f s en with
    | .error k => s.progFault e k
    | .ok en' => s.setEngine e { en' with issued := en'.issued ++ [i] }

/-- Fault with a kind unless a condition holds. -/
def need (c : Bool) (k : Nat) : Except Nat Unit := if c then .ok () else .error k

/-- A result that becomes visible `due` positions from now (R120). -/
def Engine.put (en : Engine) (due slot : Nat) (r : Res) : Engine :=
  { en with core := { en.core with pend := en.core.pend ++ [⟨en.core.pos + due, en.core.pos, slot, r, en.core.pos⟩] } }
/-- A write that its store carries out `k` positions from now. -/
def Engine.putAt (en : Engine) (k due slot : Nat) (r : Res) : Engine :=
  { en with core := { en.core with pend := en.core.pend ++ [⟨en.core.pos + due, en.core.pos, slot, r, en.core.pos + k⟩] } }
def Engine.stageIt (en : Engine) (l : List Staged) : Engine := { en with staged := en.staged ++ l }
def Engine.setCore (en : Engine) (c : Core) : Engine := { en with core := c }
def Engine.busyTill (en : Engine) (slot n : Nat) : Engine :=
  { en with core := { en.core with occ := SMap.set en.core.occ slot (en.core.pos + n) } }
/-- The unit of a slot is free (R159). -/
def Engine.unitFree (en : Engine) (slot : Nat) : Bool := decide (SMap.get en.core.occ slot 0 ≤ en.core.pos)

/-- Note the accesses to `n` bytes from `a`, `k` cycles from now (R272, R275). -/
def Engine.noteAcc (en : Engine) (k slot : Nat) (write : Bool) (id : StoreId) (a n : Nat) : Engine :=
  { en with acc := en.acc ++ (rowsOf a n).map (fun r =>
      ⟨id, r, max a (256 * r), min (a + n) (256 * r + 256), slot + 1, write, en.core.pos + k, en.core.pos⟩) }

/-- Carry a write out `k` cycles from now, visible to the engine's own reads `due` positions from now. -/
def Engine.putStore (en : Engine) (k due slot : Nat) (w : StoreW) : Engine :=
  (en.putAt k due slot (.store w)).noteAcc k slot true w.store (w.bytes.headD (0, 0)).1 w.bytes.length

/-- Stall cycles of a corrected read (R124). -/
def eccStall : StoreId → Nat
  | .kaolin => 2
  | .loam => 1
  | .table => 0

/-- Take what a read found: corrected words are counted and stall; a mark is consumed, with its status (R285 to R289). -/
def Engine.tookRead (en : Engine) (id : StoreId) (r : Rd) : Engine :=
  let c := en.core.setStore id ((en.core.store id).afterRead id r)
  (en.setCore { c with consumed := max c.consumed r.mark, ecc := max c.ecc (if r.words.isEmpty then 0 else eccStall id) }).stageIt
    (eccStaged id r.corrected r.ue ++ (if r.mark = 0 then [] else [.status (markStatus r.mark) 0x3100]))

/-- Read a store on the engine port `k` cycles from now: bytes and the highest mark. -/
def Engine.rdAt (en : Engine) (k free slot : Nat) (id : StoreId) (a n : Nat) : Bytes × Nat × Engine :=
  let r := Store.read (en.core.viewAt id en.core.pos) id free a n
  (r.bytes, r.mark, (en.tookRead id r).noteAcc k slot false id a n)

/-- Read a store on the engine port now (R285 to R288). -/
def Engine.rd (en : Engine) (free slot : Nat) (id : StoreId) (a n : Nat) : Bytes × Nat × Engine := en.rdAt 0 free slot id a n

end Sys2Proof.Machine
end

