-- ==== Sys2Proof/Machine/Mem.lean ====
section
/-! DEFINITION. Module memory: the address map, ownership, the line code and marks, and the write-combining buffers (R298 to
R332). -/

namespace Sys2Proof.Machine

/-! ### Addresses (R300 to R304) -/

def stackOfDpa (dpa : Nat) : Nat := dpa / 2 ^ 37
def granuleOf (dpa : Nat) : Nat := dpa / 2 ^ 28
def lineOfDpa (dpa : Nat) : Nat := dpa / 64
def memOff (s off : Nat) : Nat := 0x40000 + 0x1000 * s + off

/-- Owner code of a granule (R304); a granule never set is Absent. -/
def State.ownerOf (s : State) (g : Nat) : Nat := SMap.get s.mem.owner g 0xFD

/-- Physical numbers of the MCHs in service, ascending (R302). -/
def State.mchs (s : State) (st : Nat) : List Nat :=
  let m := (s.reg (memOff st 8)).toNat
  (List.range 32).filter (fun c => bit m c)

/-- Some stack of the module is present (R301). -/
def State.hasStack (s : State) : Bool := (List.range 8).any (fun st => !(s.mchs st).isEmpty)

/-- Logical MCH index and local granule of a granule number in a stack (R302). -/
def interleave (n g : Nat) : Nat × Nat :=
  if n = 32 then
    (bits g 0 5 ^^^ bits g 5 5 ^^^ bits g 10 5 ^^^ bits g 15 5 ^^^ bits g 20 5 ^^^ bits g 25 2, g / 32)
  else if n = 0 then (0, g)
  else (g % n, g / n)

/-- The granule number that a logical index and local granule come from: the inverse of the interleave. -/
def uninterleave (n m h : Nat) : Nat :=
  if n = 32 then h * 32 + (m ^^^ bits h 0 5 ^^^ bits h 5 5 ^^^ bits h 10 5 ^^^ bits h 15 5 ^^^ bits h 20 2) else h * n + m

/-- Physical MCH and MCH-local address of a DPA (R302). -/
def State.mchOf (s : State) (dpa : Nat) : Nat × Nat :=
  let st := stackOfDpa dpa
  let l := s.mchs st
  let o := dpa % 2 ^ 37
  let (m, h) := interleave l.length (o / 1024)
  (l.getD m 0, h * 1024 + o % 1024)

/-- Where a local address lies in its MCH (R303). -/
structure MchLoc where
  pc : Nat
  line : Nat
  bank : Nat
  group : Nat
  stackId : Nat
  row : Nat
  deriving DecidableEq, Repr

def mchLoc (a : Nat) : MchLoc :=
  ⟨bits a 6 1, bits a 7 4, bits a 11 2 ^^^ bits a 17 2, bits a 13 2 ^^^ bits a 19 2, bits a 15 2, bits a 17 15⟩

/-! ### Ownership (R304, R305) -/

/-- Every granule that `n` bytes from `a` touch satisfies a test of its owner code; the range lies in the 48-bit space. -/
def State.granulesOk (s : State) (a n : Nat) (p : Nat → Bool) : Bool :=
  n == 0 || (decide (a + n ≤ 2 ^ 40) &&
    (List.range ((a + n - 1) / 2 ^ 28 - a / 2 ^ 28 + 1)).all (fun i => p (s.ownerOf (a / 2 ^ 28 + i))))

/-- A tenant may read its own granules and the shared ones. -/
def State.mayRead (s : State) (t a n : Nat) : Bool := s.granulesOk a n (fun o => o == t || o == 0x40)
/-- A tenant may write its own granules only. -/
def State.mayWrite (s : State) (t a n : Nat) : Bool := s.granulesOk a n (fun o => o == t)

/-! ### Events on a line (R308, R539) -/

/-- A request reaches a stack: self-refresh ends and the idle time starts again (R326). -/
def State.request (s : State) (st : Nat) : State :=
  ({ s with mem := { s.mem with lastReq := SMap.set s.mem.lastReq st s.now } } : State).setField (memOff st 0x10) 9 1 0

/-- The region that holds a granule. -/
def State.regionOf (s : State) (g : Nat) : Option Nat :=
  (s.regions.find? (fun kv => decide (kv.2.first ≤ g ∧ g < kv.2.first + kv.2.count))).map (·.1)

/-- An uncorrectable line in a CLEAN granule of a reloadable region quarantines it (R539). -/
def State.quarantine (s : State) (line : Nat) : State :=
  let g := granuleOf (64 * line)
  match SMap.find? s.grans g with
  | some x =>
    if x.code = 1 then
      (({ s with grans := SMap.set s.grans g { x with code := 2, tries := 0, retryAt := none } } : State).count 0xC0010 1).raiseAll
        0x3200 [(2, g), (1, (s.regionOf g).getD 0), (8, 64 * line)]
    else s
  | none => s

/-- Symbols in error of a line: groups of eight bits of its error mask (R307). -/
def symbolErrors (mask : Nat) : Nat := ((List.range 68).filter (fun i => bits mask (8 * i) 8 != 0)).length

/-- A new key of module memory is drawn (R312). -/
def State.drawKey (s : State) : State :=
  let (fr, s1) := s.fresh
  { s1 with keyDraws := s1.keyDraws + 1, memKey := Config.random fr % 2 ^ 512 }

/-- A line as its stack stores it: encrypted (R311). Memory.data holds the decrypted bytes. -/
def State.cipherLine (s : State) (line : Nat) : Bytes := xtsSeal s.memKey line (Memory.readN s.mem.data (64 * line) 64)

/-- A line whose stored bits differ by `mask`, decrypted as it is read (R311). -/
def State.garble (s : State) (line mask : Nat) : Bytes :=
  xtsOpen s.memKey line (xorBytes (s.cipherLine line) (leBytes 64 (mask % 2 ^ 512)))

/-! ### Commands to a stack (R298, R303, R328) -/

/-- A command passes to its MCH under command/address parity (R298): one error is met by reissue; a second fails the command and the
MCH's next training. Whether the command failed. -/
def State.caStep (s : State) (mch : Nat) : Bool × State :=
  let n := SMap.get s.mem.caErr mch 0
  let s1 : State := if n = 0 then s else { s with mem := { s.mem with caErr := SMap.erase s.mem.caErr mch } }
  if 2 ≤ n then (true, { s1 with caFail := if s1.caFail.contains mch then s1.caFail else s1.caFail ++ [mch] }) else (false, s1)

/-- An access opens its row; another row of the bank that its pseudo-channel used last is a conflict (R328; log 151). -/
def State.bankUse (s : State) (dpa : Nat) : State :=
  let (c, a) := s.mchOf dpa
  let l := mchLoc a
  let k := 2 * (32 * stackOfDpa dpa + c) + l.pc
  let v := 64 * l.row + (16 * l.stackId + 4 * l.group + l.bank)
  let s1 : State := { s with mem := { s.mem with banks := SMap.set s.mem.banks k v } }
  match SMap.find? s.mem.banks k with
  | some u => if u % 64 = v % 64 ∧ u ≠ v then s1.count (memOff (stackOfDpa dpa) 0x48) 1 else s1
  | none => s1

/-- Lines waiting in an MCH's write queue after `n` more, and the batches drained: at 104 it drains to 32 (R328). -/
def wqAfter (q n : Nat) : Nat × Nat :=
  if q + n < 104 then (q + n, 0) else (32 + (q + n - 104) % 72, 1 + (q + n - 104) / 72)

/-- Lines enter the write queue of an MCH; each batch is two turnarounds. -/
def State.queueWrites (s : State) (st c n : Nat) : State :=
  let (q, k) := wqAfter (SMap.get s.mem.wq (32 * st + c) 0) n
  ({ s with mem := { s.mem with wq := SMap.set s.mem.wq (32 * st + c) q } } : State).count (memOff st 0x40) (2 * k)

def State.setLine (s : State) (line : Nat) (b : Bytes) (mark : Nat) : State :=
  { s with mem := { s.mem with
      data := Memory.writeN s.mem.data (64 * line) b, errs := SMap.erase s.mem.errs line,
      marks := if mark = 0 then SMap.erase s.mem.marks line else SMap.set s.mem.marks line mark } }

/-- Write a line whole: it passes the MCH's write queue (R328). -/
def State.lineStore (s : State) (line : Nat) (b : Bytes) (mark : Nat) : State :=
  let st := stackOfDpa (64 * line)
  ((((s.request st).bankUse (64 * line)).tlm (0x240 + 8 * st) 64).setLine line b mark).queueWrites st (s.mchOf (64 * line)).1 1

/-- What finding an uncorrectable line does (R308): rewrite it with its mark, log it, raise MEM_UE. -/
def State.lineUe (s : State) (line cause : Nat) (b : Bytes) : Nat × State :=
  let g := granuleOf (64 * line)
  let m := if (SMap.find? s.grans g).isSome then 2 else 3
  let s1 := (s.lineStore line b m).setReg 0x48008 (BitVec.ofNat 64 (64 * line + 2 ^ 48 * cause + 2 ^ 51 * m + 2 ^ 53))
  let s2 := (s1.count (memOff (stackOfDpa (64 * line)) 0x20) 1).raise 0x3000 0 none []
  (m, s2.quarantine line)

/-- The result of reading a line: bytes, mark, whether it was found uncorrectable now. -/
structure LineRd where
  bytes : Bytes
  mark : Nat
  ue : Bool
  corrected : Bool
  st : State
  deriving DecidableEq, Repr

/-- A read that found its line uncorrectable. -/
def State.ueRead (s : State) (line cause : Nat) (b : Bytes) : LineRd :=
  let (m, s1) := s.lineUe line cause b
  ⟨b, m, true, false, s1⟩

/-- Read a stored line under its code (R308, R652); a command that fails its parity twice completes as uncorrectable, with free data
(R298; log 150). -/
def State.lineRaw (s : State) (line cause : Nat) : LineRd :=
  let st := stackOfDpa (64 * line)
  let mch := 32 * st + (s.mchOf (64 * line)).1
  let m := SMap.get s.mem.marks line 0
  let b := Memory.readN s.mem.data (64 * line) 64
  let (lost, s0) := (((s.request st).bankUse (64 * line)).tlm (0x200 + 8 * st) 64).caStep mch
  if lost then
    let (fr, s1) := s0.fresh
    s1.ueRead line cause (s.garble line (Config.eccMask fr))
  else
  match SMap.find? s.mem.errs line with
  | none => ⟨b, m, false, false, s0⟩
  | some mask =>
    let k := symbolErrors mask
    if k = 0 then ⟨b, m, false, false, s0⟩
    else if k = 1 then ⟨b, m, false, true, s0.count (memOff st (0x200 + 8 * (mch % 32))) 1⟩
    else
      let (fr, s1) := s0.fresh
      if k = 2 ∨ Config.eccOutcome fr % 3 = 0 then s1.ueRead line cause (s.garble line mask)
      else ⟨s.garble line (mask ^^^ Config.eccMask fr), m, false, false, s1⟩

/-- A line write passes to its MCH; one that fails its parity twice completes as uncorrectable (R298, R308; log 150). -/
def State.lineWrite (s : State) (line : Nat) (b : Bytes) (mark : Nat) : State :=
  let (lost, s1) := s.caStep (32 * stackOfDpa (64 * line) + (s.mchOf (64 * line)).1)
  if lost then (s1.lineUe line 0 b).2 else s1.lineStore line b mark

/-! ### The write-combining buffer (R317 to R320) -/

/-- Put an entry's bytes over a line's. -/
def overlay (b : Bytes) (l : List (Nat × Byte)) : Bytes :=
  b.zipIdx.map (fun (x, i) => match l.find? (fun p => p.1 == i) with | some p => p.2 | none => x)

/-- Flush one entry: whole if its mask is full, else read, merge and write (R318, R320). -/
def State.flushWcb (s : State) (w : Wcb) : State :=
  let st := stackOfDpa (64 * w.line)
  let s0 : State := { s with mem := { s.mem with wcb := s.mem.wcb.filter (fun x => x.line != w.line) } }
  if 64 ≤ w.bytes.length then (s0.lineWrite w.line (overlay (List.replicate 64 0) w.bytes) w.mark).count (memOff st 0x30) 1
  else
    let r := s0.lineRaw w.line 3
    (r.st.lineWrite w.line (overlay r.bytes w.bytes) (max r.mark w.mark)).count (memOff st 0x38) 1

def State.wcbOf (s : State) (line : Nat) : Option Wcb := s.mem.wcb.find? (fun w => w.line == line)

/-- Flush the entry of a line, if there is one. -/
def State.flushLine (s : State) (line : Nat) : State :=
  match s.wcbOf line with
  | some w => s.flushWcb w
  | none => s

/-- Flush every entry that satisfies a test, oldest first. -/
def State.flushWhere (s : State) (p : Wcb → Bool) : State := (s.mem.wcb.filter p).foldl State.flushWcb s

/-- Bytes written to an entry, later ones over earlier ones. -/
def mergeBytes (old new : List (Nat × Byte)) : List (Nat × Byte) :=
  old.filter (fun p => !(new.any (fun q => q.1 == p.1))) ++ new

/-- A write of part of a line (R317): merge into the line's entry, flushing the oldest entry of a full buffer first. It
is a request to the stack (R326). -/
def State.wcbWrite (s0 : State) (line : Nat) (l : List (Nat × Byte)) (mark : Nat) : State :=
  let st := stackOfDpa (64 * line)
  let s := s0.request st
  match s.wcbOf line with
  | some w =>
    let w1 := { w with bytes := mergeBytes w.bytes l, mark := max w.mark mark }
    let s1 : State := { s with mem := { s.mem with wcb := s.mem.wcb.map (fun x => if x.line = line then w1 else x) } }
    if 64 ≤ w1.bytes.length then s1.flushWcb w1 else s1
  | none =>
    let mine := s.mem.wcb.filter (fun w => stackOfDpa (64 * w.line) == st)
    let s1 := if 256 ≤ mine.length then (match mine with | w :: _ => s.flushWcb w | [] => s) else s
    { s1 with mem := { s1.mem with wcb := s1.mem.wcb ++ [⟨line, l, mark, s1.now⟩] } }

/-! ### Accesses -/

/-- Read a line at its ordering point: its buffer entry is flushed first (R318). Causes: 0 streaming, 1 Marl, 2 scrub. -/
def State.lineRead (s : State) (line cause : Nat) : LineRd := (s.flushLine line).lineRaw line cause

/-- The result of reading a range: bytes in order, the mark of each 32-byte unit, the highest mark. -/
structure MemRd where
  bytes : Bytes
  marks : List Nat
  st : State
  deriving DecidableEq, Repr

def MemRd.top (r : MemRd) : Nat := r.marks.foldl max 0

/-- Read `n` 32-byte units from the 32-byte aligned address `a`. -/
def State.readUnits (s : State) (a cause : Nat) : Nat → MemRd
  | 0 => ⟨[], [], s⟩
  | n + 1 =>
    let r := s.lineRead (a / 64) cause
    if a % 64 = 0 ∧ 1 ≤ n then
      match n with
      | 0 => ⟨[], [], s⟩
      | k + 1 =>
        let t := State.readUnits r.st (a + 64) cause k
        ⟨r.bytes ++ t.bytes, r.mark :: r.mark :: t.marks, t.st⟩
    else
      let t := State.readUnits r.st (a / 32 * 32 + 32) cause n
      ⟨(r.bytes.drop (a % 64)).take 32 ++ t.bytes, r.mark :: t.marks, t.st⟩

/-- Read `n` bytes from any address: the bytes and the highest mark met. -/
def State.memRead (s : State) (a n cause : Nat) : Bytes × Nat × State :=
  let lo := a / 32 * 32
  let r := s.readUnits lo cause (ceilDiv (a + n - lo) 32)
  ((r.bytes.drop (a - lo)).take n, r.top, r.st)

/-- A Marl read: 32 bytes of one line (R321). -/
def State.marlRead (s : State) (a : Nat) : Bytes × Nat × State :=
  let a1 := a / 32 * 32
  let r := s.lineRead (a1 / 64) 1
  ((r.bytes.drop (a1 % 64)).take 32, r.mark, r.st.count (memOff (stackOfDpa a1) 0x28) 1)

/-- Write bytes into one line: a whole line bypasses the buffer and discards its entry (R317). -/
def State.writeLine (s : State) (line : Nat) (l : List (Nat × Byte)) (mark : Nat) : State :=
  if 64 ≤ l.length then
    ({ s with mem := { s.mem with wcb := s.mem.wcb.filter (fun x => x.line != line) } } : State).lineWrite line
      (overlay (List.replicate 64 0) l) mark
  else s.wcbWrite line l mark

/-- Write 32-byte units with their marks from the 32-byte aligned address `a`; a whole line is written at once with the higher
mark of its units (R309, R317). -/
def State.writeUnits (s : State) (a : Nat) : List (Bytes × Nat) → State
  | [] => s
  | (b, m) :: t =>
    let off := a % 64
    let put : Nat → Bytes → List (Nat × Byte) := fun o x => x.zipIdx.map (fun (v, i) => (o + i, v))
    if off = 0 then
      match t with
      | (b2, m2) :: t2 => State.writeUnits (s.writeLine (a / 64) (put 0 b ++ put 32 b2) (max m m2)) (a + 64) t2
      | [] => s.writeLine (a / 64) (put 0 b) m
    else State.writeUnits (s.writeLine (a / 64) (put off b) m) (a + 32) t

/-- Write `b` at any address as data of one mark. -/
def State.memWrite (s : State) (a : Nat) (mark : Nat) : Nat → Bytes → State
  | 0, _ => s
  | f + 1, b =>
    if b.isEmpty then s
    else
      let n := min (64 - a % 64) b.length
      State.memWrite (s.writeLine (a / 64) ((b.take n).zipIdx.map (fun (v, i) => (a % 64 + i, v))) mark) (a + n) mark f (b.drop n)

/-- Read `n` bytes from any address, each with the mark of its line (R309). -/
def State.memReadMarks (s : State) (a n cause : Nat) : List (Byte × Nat) × State :=
  let lo := a / 32 * 32
  let r := s.readUnits lo cause (ceilDiv (a + n - lo) 32)
  (((r.bytes.zip (r.marks.flatMap (fun m => List.replicate 32 m))).drop (a - lo)).take n, r.st)

/-- Write bytes at any address: each line takes the highest mark of the bytes written into it (R309). -/
def State.memWriteMarks (s : State) (a : Nat) : Nat → List (Byte × Nat) → State
  | 0, _ => s
  | f + 1, b =>
    if b.isEmpty then s
    else
      let n := min (64 - a % 64) b.length
      let x := b.take n
      State.memWriteMarks (s.writeLine (a / 64) ((x.map (·.1)).zipIdx.map (fun (v, i) => (a % 64 + i, v))) ((x.map (·.2)).foldl max 0))
        (a + n) f (b.drop n)

/-! ### Reads of quarantined granules (R540) -/

/-- What a read by a work item meets in its granules. -/
inductive ReadGate where
  | go
  | wait (g : Nat)
  | refuse
  deriving DecidableEq, Repr

/-- The first granule of a range that stops a read; `fast` is fail fast (R538, R540). -/
def State.readGate (s : State) (fast : Bool) (a n : Nat) : ReadGate :=
  if n = 0 then .go
  else
    let codes := ((List.range ((a + n - 1) / 2 ^ 28 - a / 2 ^ 28 + 1)).map (fun i =>
      let g := a / 2 ^ 28 + i
      (g, match SMap.find? s.grans g with | some x => x.code | none => 0)))
    match codes.find? (fun p => decide (2 ≤ p.2)) with
    | none => .go
    | some (g, c) => if c = 4 ∨ fast then .refuse else .wait g

end Sys2Proof.Machine
end

