-- ==== Sys2Proof/Machine/Dma.lean ====
section
/-! DEFINITION. The DMA and network ports of an engine's stores and the transfers an engine issues (R132, R197 to R200, R273 to
R279, R288). -/

namespace Sys2Proof.Machine

/-! ### External accesses and races (R275 to R279) -/

/-- Two byte ranges of a store share a protected word. -/
def sharesWord (id : StoreId) (lo hi lo2 hi2 : Nat) : Bool :=
  let wb := wordBytes id
  decide (lo / wb < ceilDiv hi2 wb ∧ lo2 / wb < ceilDiv hi wb)

/-- Whether an external access to bytes `lo … hi - 1` races with the open bundle's cycle on the engine port (R275). -/
def Engine.races (en : Engine) (id : StoreId) (lo hi : Nat) (write : Bool) : Bool :=
  !en.issued.isEmpty && en.acc.any (fun a => decide (a.at_ = en.core.pos ∧ a.store = id) && (write || a.write) && sharesWord id a.lo a.hi lo hi)

/-- Count a race. Where the engine's access is the later one its bundle is made again; in the table file, whose engine side never waits,
and against an engine access that is being repeated, the external access is (R276, R277, R279). -/
def State.noteRace (s : State) (e : Nat) (id : StoreId) : State :=
  let en := s.engine e
  let w := s.item en.item
  let s1 := s.count (engOff e oSTORE_RACE) 1
  let s2 := if w.raced.contains e then s1
    else (s1.setItem en.item { w with raced := e :: w.raced }).raise 0x3102 0 (some w.tenant) []
  if id = .table then s2 else s2.setEngine e { s2.engine e with redo := true }

/-- An external access that the engine's repeat goes before, since its access came first (R276). -/
def Engine.goesFirst (en : Engine) (id : StoreId) (lo hi : Nat) (write : Bool) : Bool :=
  en.redo && decide (id ≠ .table) && en.races id lo hi write

/-! ### The external side of the banks (R270, R273, R295; log 132) -/

/-- Sources of external accesses besides engines: the owning engine's DMA port, and scrub. -/
def srcDma : Nat := 192
def srcScrub : Nat := 193

/-- The counter of bank waits of a source at a store. -/
def waitCounter (id : StoreId) (src : Nat) : Nat :=
  match id with
  | .kaolin => if src = srcDma then oBANKC_K_DMA else if src = srcScrub then oBANKC_K_SCRUB else oBANKC_K_NET
  | .loam => if src = srcDma then oBANKC_L_DMA else oBANKC_L_NET
  | .table => oBANKC_T

/-- One row access on the external side: it waits for the accesses of other sources that came to its bank in this cycle, a cycle each. -/
def State.extBank (s : State) (e src : Nat) (id : StoreId) (row : Nat) : State :=
  let en := s.engine e
  let now := (s.now, en.core.pos)
  let l := if en.extAt = now then en.extAcc else []
  let n := (l.filter (fun x => decide (x.1 = id ∧ x.2.1 = bankOf id row ∧ x.2.2 ≠ src))).length
  let s1 := s.setEngine e { en with extAt := now, extAcc := l ++ [(id, bankOf id row, src)] }
  if n = 0 then s1 else s1.count (engOff e (waitCounter id src)) n

def State.extBanks (s : State) (e src : Nat) (id : StoreId) (rows : List Nat) : State := rows.foldl (fun s r => s.extBank e src id r) s

/-- An access of the network or the DMA port to a bank in this cycle, before which scrub yields (R273, R290). -/
def State.extBusy (s : State) (e : Nat) (id : StoreId) (row : Nat) : Bool :=
  let en := s.engine e
  decide (en.extAt = (s.now, en.core.pos)) && en.extAcc.any (fun x => decide (x.1 = id ∧ x.2.1 = bankOf id row ∧ x.2.2 ≠ srcScrub))

/-- Bytes with the external ones put over those at the same addresses. -/
def overBytes (bs : List (Nat × Byte)) (a : Nat) (b : Byte) : Byte := (bs.findSome? (fun p => if p.1 = a then some p.2 else none)).getD b

/-- What an external write changes besides the store: the engine no longer sees what its own writes replaced there, and a write that the
engine makes to the table file in this cycle is carried out before it (R277). -/
def Core.extOver (c : Core) (id : StoreId) (bs : List (Nat × Byte)) : Core :=
  let here := fun (a : Nat) => bs.any (fun p => decide (p.1 = a))
  { c with
    shadow := c.shadow.map (fun x => if x.store = id then { x with bytes := x.bytes.filter (fun p => !here p.1) } else x),
    pend := if id ≠ .table then c.pend else c.pend.map (fun p => match p.res with
      | .store w => if w.store = .table ∧ p.at_ = c.pos then { p with res := .store { w with bytes := w.bytes.map (fun (a, b) => (a, overBytes bs a b)) } } else p
      | .set base b => if p.due = c.pos + 1 then { p with res := .set base (b.zipIdx.map (fun (x, i) => overBytes bs (base + i) x)) } else p
      | _ => p) }

/-- An external write: it changes the committed stores and the open bundle's view alike. Whether the tag check refused it. -/
def State.extWrite (s : State) (e src : Nat) (w : StoreW) : State × Bool :=
  let lo := w.bytes.foldl (fun m p => min m p.1) (2 ^ 40)
  let hi := w.bytes.foldl (fun m p => max m (p.1 + 1)) 0
  let race := (s.engine e).races w.store lo hi true
  let s0 := (if race then s.noteRace e w.store else s).extBanks e src w.store (rowsOfW w.bytes)
  let en0 := s0.engine e
  let a := Store.write (en0.snap.store w.store) s.freeCtr w
  if a.refused then (s0, true)
  else
    let b := Store.write (en0.core.store w.store) s.freeCtr w
    let bad := decide (w.store = .table ∧ 0 < a.ue)
    let fix := fun (c : Core) => if bad then { c with consumed := 3 } else c
    let s1 := s0.setEngine e { en0 with snap := fix ((en0.snap.setStore w.store a.store).extOver w.store w.bytes),
                                        core := fix ((en0.core.setStore w.store b.store).extOver w.store w.bytes) }
    (({ s1 with freeCtr := s1.freeCtr + 65536 } : State).stageAll e (eccStaged w.store a.ce a.ue), false)

/-- The units of an external read: bytes and marks (R285, R286, R288, R289). -/
def State.extUnits (s : State) (e : Nat) (id : StoreId) (a : Nat) : Nat → List (Bytes × Nat) × State
  | 0 => ([], s)
  | n + 1 =>
    let en := s.engine e
    let s0 := if en.races id a (a + 32) false then s.noteRace e id else s
    let en0 := s0.engine e
    let r := Store.read (en0.snap.store id) id s.freeCtr a 32
    let s1 := s0.setEngine e { en0 with snap := en0.snap.setStore id ((en0.snap.store id).afterRead id r),
                                        core := en0.core.setStore id ((en0.core.store id).afterRead id r) }
    let s2 := ({ s1 with freeCtr := s1.freeCtr + 65536 } : State).stageAll e (eccStaged id r.corrected r.ue)
    let (t, s3) := State.extUnits s2 e id (a + 32) n
    ((r.bytes, r.mark) :: t, s3)

/-- An external read of `n` 32-byte units. -/
def State.extRead (s : State) (e src : Nat) (id : StoreId) (a n : Nat) : List (Bytes × Nat) × State :=
  (s.extBanks e src id (rowsOf a (32 * n))).extUnits e id a n

/-- Cut units into the row writes of a destination (R198): address, units, and the number of units before. -/
def rowParts : Nat → Nat → Nat → List (Bytes × Nat) → List (Nat × Nat × List (Bytes × Nat))
  | 0, _, _, _ => []
  | f + 1, a, k, l =>
    if l.isEmpty then []
    else
      let n := min ((256 - a % 256) / 32) l.length
      (a, k, l.take n) :: rowParts f (a + 32 * n) (k + n) (l.drop n)

/-- The write of one row part: whole where it covers the row, with the highest mark of its units (R198, R309). -/
def partWrite (id : StoreId) (fmt : Nat) (a : Nat) (l : List (Bytes × Nat)) : StoreW :=
  let bs := l.zipIdx.flatMap (fun ((b, _), i) => b.zipIdx.map (fun (v, j) => (a + 32 * i + j, v)))
  ⟨id, bs, fmt, l.foldl (fun m p => max m p.2) 0, decide (l.length = 8)⟩

/-- Write row after row until a tag check fails; whether one failed (R198). -/
def State.writeRows (s : State) (e : Nat) : List StoreW → State × Bool
  | [] => (s, false)
  | w :: t =>
    let (s1, bad) := s.extWrite e srcDma w
    if bad then (s1, true) else State.writeRows s1 e t

/-- The status an item takes for consuming data of a mark (R286, R288). -/
def State.noteMark (s : State) (it m ev : Nat) : State := s.addStatus it (markStatus m) ev

/-! ### Transfers -/

def addr32 (x : W64) : Nat := x.toNat / 32 * 32

/-- Local address of a checked word, 32-byte aligned. -/
def localOf (x : W64) : StoreId × Nat := ((localAddr x).map (fun (i, a) => (i, a / 32 * 32))).getD (.loam, 0)

/-- Raise the marks of units to the mark that the issuing engine had consumed (R288). -/
def liftMarks (m : Nat) (l : List (Bytes × Nat)) : List (Bytes × Nat) := l.map (fun (b, k) => (b, max k m))

/-- Pair the bytes of a memory read with the marks of its units. -/
def unitsOf : List Nat → Bytes → List (Bytes × Nat)
  | [], _ => []
  | m :: t, b => (b.take 32, m) :: unitsOf t (b.drop 32)

/-- Units from host data (R462). -/
def hostUnits (b : Bytes) (poisoned : Bool) : List (Bytes × Nat) :=
  unitsOf (List.replicate (b.length / 32) (if poisoned then 3 else 0)) b

/-- How a transfer that is under way ends (R198). -/
def State.dmaFate (s : State) (e : Nat) (d : DmaRec) (f : DmaFate) : State :=
  let en := s.engine e
  let known := en.dma.any (fun x => x.id == d.id)
  let l := if known then en.dma.map (fun x => if x.id = d.id then { x with fate := f, since := d.since } else x) else en.dma ++ [{ d with fate := f }]
  s.setEngine e { en with dma := l }

/-- Write the units of a load at its destination; bits [3:0] of S[x + 3] are the line tag, also a code that R74 reserves (log 143). -/
def State.dmaLoad (s : State) (e : Nat) (d : DmaRec) (l : List (Bytes × Nat)) : State :=
  let (id, a) := localOf d.x1
  let ws := (rowParts (l.length + 1) a 0 (liftMarks d.mark l)).map (fun (p, _, u) => partWrite id (bits d.x3.toNat 0 4) p u)
  let (s1, bad) := s.writeRows e ws
  s1.dmaFate e d (if bad then .tagFail else .good)

/-- Address of block `k` of a page; bits below 32 B are ignored (R198, R199). -/
def planeAt (pages : List Nat) (off bstride p k : Nat) : Nat := (pages.getD p 0 + off + k * bstride * 32) / 32 * 32

/-- Blocks that a plane gather reads, as (line index, byte, DPA, byte of block) rows; pages by their list (R199). -/
def planeSource (vmode bw : Nat) (pages : List Nat) (off bstride rows npage : Nat) : List (Nat × List (Nat × Nat)) :=
  let block := fun (p k : Nat) => planeAt pages off bstride p k
  if vmode = 0 then
    (List.range (8 * bw)).map (fun k =>
      let g := k / bw
      let i := k % bw
      (k, (List.range rows).map (fun r => (r, block (r / 16) (r % 16) + 8 * i + g))))
  else
    (List.range (2 * npage * bw)).map (fun k =>
      let q := k / bw / 2
      let g := k / bw % 2
      let i := k % bw
      (k, (List.range rows).map (fun r => (r, block q (r / 4) + 8 * i + 2 * (r % 4) + g))))

/-- Byte addresses of the blocks of a plane gather: address and length of each. -/
def planeBlocks (vmode : Nat) (pages : List Nat) (off bstride rows npage : Nat) : List Nat :=
  if vmode = 0 then (List.range rows).map (fun r => planeAt pages off bstride (r / 16) (r % 16))
  else (List.range npage).flatMap (fun q => (List.range (ceilDiv rows 4)).map (fun r => planeAt pages off bstride q r))

/-- Read the blocks of a plane gather: each byte read, with its address and the mark of its line. -/
def State.planeRead (s : State) (n : Nat) : List Nat → List (Nat × Byte × Nat) × State
  | [] => ([], s)
  | a :: t =>
    let (x, s1) := s.memReadMarks a n 0
    let (l, s2) := State.planeRead s1 n t
    (x.zipIdx.map (fun (v, i) => (a + i, v)) ++ l, s2)

/-- Write the lines of a plane gather one after another from the bytes read. -/
def State.planeLines (s : State) (e dst mark : Nat) (got : List (Nat × Byte × Nat)) :
    List (Nat × List (Nat × Nat)) → State × Bool × Nat
  | [] => (s, false, 0)
  | (k, src) :: t =>
    let l : List (Nat × Byte × Nat) := src.map (fun (r, a) => (r, match got.find? (fun (p : Nat × Byte × Nat) => p.1 == a) with | some p => p.2 | none => (0, 0)))
    let bytes := l.map (fun p => (p.1, p.2.1))
    let m := l.foldl (fun m p => max m p.2.2) 0
    let row := overlay (List.replicate 256 0) bytes
    let (s1, bad) := s.extWrite e srcDma ⟨.kaolin, row.zipIdx.map (fun (v, j) => (dst + 256 * k + j, v)), fRAW, max m mark, true⟩
    if bad then (s1, true, m)
    else
      let (s2, b2, m2) := State.planeLines s1 e dst mark got t
      (s2, b2, max m m2)

/-- Read 8-byte page addresses from a store. -/
def pagesOf : Nat → Bytes → List Nat
  | 0, _ => []
  | n + 1, b => field b 0 8 :: pagesOf n (b.drop 8)

def indexList : Nat → Bytes → List Nat
  | 0, _ => []
  | n + 1, b => field b 0 4 :: indexList n (b.drop 4)

/-- The Marl reads of a gather, stopping at the first index outside the tenant's memory (R200). -/
def State.marlAll (s : State) (t base : Nat) : List Nat → List (Bytes × Nat) × Bool × State
  | [] => ([], false, s)
  | v :: l =>
    let a := base + 32 * v
    if !s.mayRead t a 32 then ([], true, s)
    else
      let (b, m, s1) := s.marlRead a
      let (r, bad, s2) := State.marlAll s1 t base l
      ((b, m) :: r, bad, s2)

/-- Refuse a read of a quarantined or failed granule (R540): its item stops with WEIGHT_POISON. -/
def State.refuseRead (s : State) (it : Nat) : State := (s.count 0xC0030 1).stopItem it stWEIGHT_POISON 0x3200

/-- Fail fast: the channel's POISON_POLICY, or class TC0 (R540). -/
def State.failFast (s : State) (it : Nat) : Bool :=
  let w := s.item it
  decide (w.tc = 0) || bit (s.chan w.chan).attr 2

/-- The byte ranges of module memory that a transfer reads before it stops at an address outside the tenant's memory (R200). -/
def State.dmaReads (s : State) (e : Nat) (d : DmaRec) : List (Nat × Nat) :=
  let len := d.x2.toNat
  let may := fun (p : Nat × Nat) => s.mayRead (s.item (s.engine e).item).tenant p.1 p.2
  if d.kind = 0 ∨ d.kind = 7 then [(addr32 d.x0, 32 * len)]
  else if d.kind = 4 then
    let c := d.x2.toNat
    let rows := bits c 0 9
    let np := if bit c 10 then bits c 11 5 else ceilDiv rows 16
    let (id, a) := localOf d.x0
    let pages := pagesOf np ((s.engine e).snap.store id |>.data |> fun m => Memory.readN m a (8 * np))
    let l := (planeBlocks (bits c 10 1) pages d.x3.toNat (bits c 16 16) rows np).map (fun b => (b, 8 * (if bit c 9 then 8 else 4)))
    if l.all may then l else []
  else if d.kind = 5 then
    let (id, a) := localOf d.x0
    ((indexList len (Memory.readN ((s.engine e).snap.store id).data a (4 * len))).map (fun v => (addr32 d.x3 + 32 * v, 32))).takeWhile may
  else []

/-- Move the bytes of a transfer whose granules can be read (R197 to R200). -/
def State.dmaMove (s : State) (e : Nat) (d : DmaRec) : State :=
  let en := s.engine e
  let it := en.item
  let w := s.item it
  let len := d.x2.toNat
  if d.kind ≠ 4 ∧ len = 0 then s.dmaFate e d .good
  else if d.kind = 0 then
    let r := s.readUnits (addr32 d.x0) 0 len
    (r.st.noteMark it r.top 0x3000).dmaLoad e d (unitsOf r.marks r.bytes)
  else if d.kind = 1 then
    let (id, a) := localOf d.x0
    let (u, s1) := s.extRead e srcDma id a len
    let m := u.foldl (fun m p => max m p.2) 0
    ((s1.noteMark it m 0x3100).writeUnits (addr32 d.x1) (liftMarks d.mark u)).dmaFate e d .good
  else if d.kind = 2 then
    ((s.noteProxy it).dmaFate e d .hostWait).hostRd w.chan w.tc w.tenant (.dma e d.id) (addr32 d.x0) (32 * len)
  else if d.kind = 3 then
    let (id, a) := localOf d.x0
    let (u, s1) := s.extRead e srcDma id a len
    let m := u.foldl (fun m p => max m p.2) 0
    let b := (liftMarks d.mark u).flatMap (fun (x, k) => if k = 0 then x else List.replicate 32 0xFF)
    (((s1.noteProxy it).noteMark it m 0x3100).dmaFate e d .good).hostWr w.chan w.tc w.tenant false (some (.dma e d.id)) (addr32 d.x1) b
  else if d.kind = 4 then
    let c := d.x2.toNat
    let rows := bits c 0 9
    let bw : Nat := if bit c 9 then 8 else 4
    let vm := bits c 10 1
    let np := if vm = 1 then bits c 11 5 else ceilDiv rows 16
    let (id, a) := localOf d.x0
    let (pu, s1) := s.extRead e srcDma id a (ceilDiv (8 * np) 32)
    let pm := pu.foldl (fun m p => max m p.2) 0
    let pages := pagesOf np (pu.flatMap (·.1))
    let off := d.x3.toNat
    let blocks := planeBlocks vm pages off (bits c 16 16) rows np
    if blocks.any (fun b => !s1.mayRead w.tenant b (8 * bw)) then s1.dmaFate e d .index
    else
      let (got, s2) := s1.planeRead (8 * bw) blocks
      let (s3, bad, m) := s2.planeLines e (localOf d.x1).2 (max pm d.mark) got (planeSource vm bw pages off (bits c 16 16) rows np)
      (s3.noteMark it (max m pm) 0x3000).dmaFate e d (if bad then .tagFail else .good)
  else if d.kind = 5 then
    let (id, a) := localOf d.x0
    let (iu, s1) := s.extRead e srcDma id a (ceilDiv (4 * len) 32)
    let im := iu.foldl (fun m p => max m p.2) 0
    let (u, bad, s2) := s1.marlAll w.tenant (addr32 d.x3) (indexList len (iu.flatMap (·.1)))
    let m := u.foldl (fun m p => max m p.2) im
    let s3 := (s2.noteMark it m 0x3000).dmaLoad e { d with x3 := BitVec.ofNat 64 fRAW, mark := max d.mark im } u
    if bad then s3.dmaFate e d .index else s3
  else if d.kind = 6 then
    let (id, a) := localOf d.x0
    let (did, da) := localOf d.x1
    let dst := w.engines.getD (bits d.x3.toNat 0 8) 0
    let (u, s1) := s.extRead e srcDma id a len
    let m := u.foldl (fun m p => max m p.2) 0
    let tagAt := fun (k : Nat) => if id = .loam then (en.snap.loam).tag ((a + 32 * k) / 256) else fRAW
    let ws := (rowParts (u.length + 1) da 0 (liftMarks d.mark u)).map (fun (p, k, x) => partWrite did (tagAt k) p x)
    let s2 := (s1.noteMark it m 0x3100).dmaFate e d .good
    { s2 with net := s2.net ++ ws.zipIdx.map (fun (x, i) => ⟨e, dst, it, 2 ^ 40 + d.id, .plain x, w.tc, s2.netSent + i⟩), netSent := s2.netSent + ws.length }
  else
    let r := s.readUnits (addr32 d.x0) 0 len
    ((r.st.noteMark it r.top 0x3000).writeUnits (addr32 d.x1) (liftMarks d.mark (unitsOf r.marks r.bytes))).dmaFate e d .good

/-- Start a transfer, unless a granule it reads is quarantined or failed (R540). -/
def State.dmaGo (s : State) (e : Nat) (d : DmaRec) : State :=
  let en := s.engine e
  let fast := s.failFast en.item
  let gates := (s.dmaReads e d).map (fun (a, n) => s.readGate fast a n)
  if gates.any (fun g => decide (g = ReadGate.refuse)) then (s.dmaFate e d .refused).refuseRead en.item
  else match gates.find? (fun g => decide (g ≠ ReadGate.go)) with
    | some (ReadGate.wait g) => (s.count 0xC0028 1).dmaFate e { d with since := s.now } (.stalled g)
    | _ => s.dmaMove e d

/-- A granule became readable: transfers that waited for it run (R540, R541). -/
def State.releaseStalled (s : State) (g : Nat) : State :=
  s.eng.foldl (fun s kv =>
    ((s.engine kv.1).dma.filter (fun d => decide (d.fate = .stalled g))).foldl (fun s d => s.dmaGo kv.1 d) s) s

/-! ### Writes of other engines (R192, R193, R273, R274, R284) -/

/-- An accumulate-on-write on the network port. -/
def State.extAcw (s : State) (e src row : Nat) (w64 : Bool) (vals : List (Nat × Int)) (mark : Nat) : State × Bool :=
  let en := s.engine e
  if bit en.satmap (row / 256) then (s, true)
  else
    let n : Nat := if w64 then 8 else 4
    let lo := vals.foldl (fun m p => min m (256 * row + n * p.1)) (2 ^ 40)
    let hi := vals.foldl (fun m p => max m (256 * row + n * p.1 + n)) 0
    let s0 := (if en.races .loam lo hi true then s.noteRace e .loam else s).extBank e src .loam row
    let en0 := s0.engine e
    let a := Store.acw en0.snap.loam s.freeCtr row w64 false vals mark
    if a.refused then (s0, true)
    else
      let b := Store.acw en0.core.loam s.freeCtr row w64 false vals mark
      let new := (a.store.data.filter (fun c => decide (c.1 / 256 = row)))
      let s1 := s0.setEngine e { en0 with snap := ({ en0.snap with loam := a.store } : Core).extOver .loam new,
                                          core := ({ en0.core with loam := b.store } : Core).extOver .loam new }
      (({ s1 with freeCtr := s1.freeCtr + 65536 } : State).stageAll e (eccStaged .loam a.ce a.ue), false)

/-- An acknowledgement sets out for the sender of a write (R26). -/
def State.ackWrite (s : State) (w : NetW) : State :=
  let en := s.engine w.src
  ({ s with netSent := s.netSent + 1 } : State).setEngine w.src { en with acks := en.acks ++ [(w.seq, w.dst, s.netSent)] }

/-- A write that has left the network is carried out at its destination, or refused (R192, R198, R274). -/
def State.deliverWrite (s : State) (w : NetW) : State :=
  let t := (s.item w.item).tenant
  let en := s.engine w.dst
  if en.item ≠ w.item ∨ en.st = .idle ∨ en.st = .clearing then
    ((s.count (engOff w.dst oFOREIGN) 1).raise 0x3104 0 (some t) []).stopItem w.item stTENANT_FAULT 0x3104
  else
    let (s1, bad) := match w.kind with
      | .plain sw => s.extWrite w.dst w.src sw
      | .acw row w64 vals mark => s.extAcw w.dst w.src row w64 vals mark
    if 2 ^ 40 ≤ w.seq then
      (if bad then
        let s2 : State := { s1 with net := s1.net.filter (fun x => !(decide (x.src = w.src ∧ x.seq = w.seq))) }
        let m := s2.engine w.src
        s2.setEngine w.src { m with dma := m.dma.map (fun x => if x.id = w.seq - 2 ^ 40 then { x with fate := .tagFail } else x) }
      else s1)
    else (if bad then (s1.raise 0x2004 0 (some t) []).addStatus w.item stFORMAT_MISMATCH 0x2004 else s1).ackWrite w

/-- An acknowledgement has reached the engine that wrote: the write is no longer outstanding. -/
def Engine.acked (en : Engine) (seq : Nat) : Engine :=
  { en with acks := en.acks.filter (fun a => a.1 != seq), unacked := en.unacked.erase seq, outstanding := en.outstanding - 1,
            selfAcw := en.selfAcw.filter (fun a => a.1 != seq) }

/-- Checks of a transfer in its issue cycle (R198 to R200, R653). -/
def State.dmaCheck (s : State) (en : Engine) (kind : Nat) (x0 x1 x2 x3 : W64) : Except Nat Unit := do
  let w := s.item en.item
  let h := w.hdr
  let len := x2.toNat
  let loc := fun (x : W64) (n : Nat) (kOnly : Bool) =>
    match localAddr x with
    | none => false
    | some (i, a) => decide (n = 0 ∨ a / 32 * 32 + n ≤ h.need i) && (!kOnly || decide (i = .kaolin))
  if kind = 4 then
    let c := x2.toNat
    let rows := bits c 0 9
    let vm := bits c 10 1
    let bw : Nat := if bit c 9 then 8 else 4
    let np := if vm = 1 then bits c 11 5 else ceilDiv rows 16
    need (decide (rows ≤ 256) && decide (rows % (if vm = 1 then 4 else 16) = 0)) fkSTORE_RANGE
    need (loc x0 (8 * np) false) fkSTORE_RANGE
    need (loc x1 (256 * (if vm = 1 then 2 * np * bw else 8 * bw)) true) fkSTORE_RANGE
  else if kind = 5 then
    need (decide (len ≤ 4096)) fkSTORE_RANGE
    need (loc x0 (4 * len) false && loc x1 (32 * len) false) fkSTORE_RANGE
  else
    need (decide (len ≤ 524288)) fkSTORE_RANGE
    if kind = 0 then
      need (s.mayRead w.tenant (addr32 x0) (32 * len)) fkHOST_RANGE
      need (loc x1 (32 * len) false) fkSTORE_RANGE
    else if kind = 1 then
      need (s.mayWrite w.tenant (addr32 x1) (32 * len)) fkHOST_RANGE
      need (loc x0 (32 * len) false) fkSTORE_RANGE
    else if kind = 2 then
      need (decide (len = 0) || s.inWindow w.tenant (addr32 x0) (32 * len)) fkHOST_RANGE
      need (loc x1 (32 * len) false) fkSTORE_RANGE
    else if kind = 3 then
      need (decide (len = 0) || s.inWindow w.tenant (addr32 x1) (32 * len)) fkHOST_RANGE
      need (loc x0 (32 * len) false) fkSTORE_RANGE
    else if kind = 6 then
      need (loc x0 (32 * len) false && loc x1 (32 * len) false) fkSTORE_RANGE
      need (decide (bits x3.toNat 0 8 < h.logical)) fkTOKEN
    else
      need (s.mayRead w.tenant (addr32 x0) (32 * len) && s.mayWrite w.tenant (addr32 x1) (32 * len)) fkHOST_RANGE

end Sys2Proof.Machine
end

