-- ==== Sys2Proof/Machine/Bundle.lean ====
section
/-! DEFINITION. How a bundle ends: the members of a lockstep group go on position by position, with their stalls and fences (R109,
R110, R112, R120 to R124, R134 to R140, R655). -/

namespace Sys2Proof.Machine

/-- The members of an engine's group that run. -/
def State.runners (s : State) (e : Nat) : List Nat := (s.group e).filter (fun m => decide ((s.engine m).st = .running))

/-- A member has done its part of the position at hand: its bundle has issued whole, or a fence holds it. -/
def Engine.atEnd (en : Engine) : Bool := en.closed.isSome || decide (0 < en.bubbles)

/-- The last bundle that issued was a yield point, and nothing of the next has issued. -/
def Engine.standing (en : Engine) : Bool := en.atYield && en.closed.isNone && en.issued.isEmpty && decide (en.bubbles = 0)

/-- The position at hand is the last cycle of a yield point's bundle. -/
def State.endsYield (s : State) (e : Nat) : Bool :=
  let en := s.engine e
  match en.closed with
  | some n => decide (n = 1) && s.yieldPoint e
  | none => decide (en.bubbles = 1) && en.atYield

/-- Every write of an engine to itself, up to its last accumulate-on-write into the rows of a fence that retires, is delivered and
acknowledged (R109). -/
def State.fenceAcks (s : State) (e first count : Nat) : Nat → State
  | 0 => s
  | n + 1 =>
    let en := s.engine e
    if !en.selfAcw.any (fun a => decide (first ≤ a.2 ∧ a.2 < first + count)) then s
    else match s.net.find? (fun w => decide (w.src = e ∧ w.dst = e)) with
      | some w =>
        let s1 := ({ s with net := s.net.erase w } : State).deliverWrite w
        (s1.setEngine e ((s1.engine e).acked w.seq)).fenceAcks e first count n
      | none =>
        -- delivered, and the acknowledgement on its way
        match en.acks.find? (fun a => en.selfAcw.any (fun x => x.1 == a.1)) with
        | some a => (s.setEngine e (en.acked a.1)).fenceAcks e first count n
        | none => s

/-- A fence retires at the end of its last cycle (R109, R278). -/
def State.retireFence (s : State) (e : Nat) : State :=
  match (s.engine e).core.fence with
  | none => s
  | some (_, _, first, count, _) =>
    let s1 := s.fenceAcks e first count 256
    let en := s1.engine e
    let c := en.core.retireFence
    s1.setEngine e { en with core := c, snap := c }

/-- One position ends at one member: its outside effects, its counts, the writes and results due, the next bundle, its yield point.
`stall` is the stall of corrected reads that the group takes, `rest` whether the group yields here (R137). -/
def State.stepOne (s : State) (e stall : Nat) (rest : Bool) : State :=
  let en := s.engine e
  let (rounds, bk, bl) := busyRounds 64 en.portNow
  let yp := en.closed.isSome && s.yieldPoint e
  let s1 := s.stageAll e en.staged
  let s2 := (((s1.count (engOff e oSTALL_ECC) en.core.ecc).count (engOff e oBANKC_K_ENG) bk).count (engOff e oBANKC_L_ENG) bl).count
    (engOff e oISSUE) (if en.closed.isSome then 1 else 0)
  let a := ({ (s2.engine e).core with ecc := 0, mcast := none, xwait := none } : Core).advance s2.freeCtr en.satmap
  let c := if en.closed.isSome then a.core.nextPc else a.core
  let en2 := s2.engine e
  let hold := en2.hold ++ (match en.core.xwait with | some (i, x) => [Hold.checker i x] | none => [])
    ++ (if 64 ≤ en2.outstanding then [Hold.stores] else [])
  let waits := hold.any (fun h => match h with | .wait _ _ _ y => y | _ => false)
  let left := (match en.closed with | some n => n | none => en.bubbles) - 1
  let s3 := s2.setEngine e { en2 with
    core := c, snap := c, issued := [], staged := [], closed := none, bubbles := left, acc := en2.acc.filter (fun x => decide (c.pos ≤ x.at_)),
    stall := rounds, held := stall, cyc := 0, holdAt := s.eff, hold := hold,
    wd := (if yp then 0 else en2.wd + 1) + (if waits then 0 else stall),
    st := if rest ∧ en2.st = .running then EState.yielded else en2.st,
    atYield := if en.closed.isSome then yp else en2.atYield, yieldB := if yp then en.snap.pc else en.yieldB }
  let s4 := ({ s3 with freeCtr := s3.freeCtr + 16777216 } : State).stageAll e a.staged
  let s5 := if hold.isEmpty then s4.count (engOff e oSTALL_GROUP) (stall - max en.core.ecc rounds) else s4
  if left = 0 then s5.retireFence e else s5

/-- Go on while every running member has done its part of the position and nothing stalls the group (R124, R135, R655). The group yields
where suspension is asked for and every member stands at a yield point (R137, R142). -/
def State.settle (s : State) (e : Nat) : Nat → State
  | 0 => s
  | n + 1 =>
    let l := s.runners e
    if l.isEmpty || !l.all (fun m => (s.engine m).atEnd) || !s.unstalled (s.group e) then s
    else
      let stall := l.foldl (fun k m => max k (s.engine m).core.ecc) 0
      let rest := decide ((s.item (s.engine e).item).phase = .suspending) && l.all s.endsYield
      (l.foldl (fun s m => s.stepOne m stall rest) s).settle e n

/-- The SY operation ends its bundle, which takes `cycles` schedule cycles. A lockstep group whose members do not agree on a multicast
faults (R168). -/
def State.closeBundle (s : State) (e cycles : Nat) : State :=
  let s1 := s.setEngine e { s.engine e with closed := some cycles }
  let l := s1.runners e
  if !l.all (fun m => (s1.engine m).atEnd) then s1
  else if s1.mcastOk l then s1.settle e 16
  else s1.progFault e fkGROUP_OP

end Sys2Proof.Machine
end

