-- ==== Sys2Proof/Machine/Expander.lean ====
section
/-! DEFINITION. Weight blocks: header checks, the canonical prefix code, decoding, and the checker's scan (R252 to R265). -/

namespace Sys2Proof.Machine

/-- Code length of symbol `s` in a header (R253). -/
def codeLen (h : Bytes) (s : Nat) : Nat :=
  let b := (h.getD (0x20 + s / 2) 0).toNat
  if s % 2 = 0 then b % 16 else b / 16

/-- The codes of one length in ascending symbol order: (length, code, symbol), and the next code (R254). -/
def codesOfLen (h : Bytes) (len : Nat) : List Nat → Nat → List (Nat × Nat × Nat) × Nat
  | [], c => ([], c)
  | s :: t, c =>
    if codeLen h s = len then let (l, c') := codesOfLen h len t (c + 1); ((len, c, s) :: l, c') else codesOfLen h len t c

/-- The code table, whether no length overflows, and the code after length 12 (R254). -/
def codeTable (h : Bytes) : Nat → Nat → Nat → List (Nat × Nat × Nat) × Bool × Nat
  | 0, _, c => ([], true, c)
  | n + 1, len, c =>
    let (l, c1) := codesOfLen h len (List.range 256) c
    let (l2, ok, c2) := codeTable h n (len + 1) (if n = 0 then c1 else 2 * c1)
    (l ++ l2, ok && decide (c1 ≤ 2 ^ len), c2)

def codesOf (h : Bytes) : List (Nat × Nat × Nat) := (codeTable h 12 1 0).1

/-- The set of lengths is complete, or one symbol alone has a code, of length 1 (R254). -/
def codesComplete (h : Bytes) : Bool :=
  let (l, ok, c) := codeTable h 12 1 0
  ok && (decide (c = 4096) || (match l with | [(n, _, _)] => decide (n = 1) | _ => false))

def subBits (h : Bytes) (s : Nat) : Nat := field h (0x0A0 + 4 * s) 2
def subSyms (h : Bytes) (s : Nat) : Nat := bits (field h (0x0A0 + 4 * s) 4) 16 11
/-- Byte offset of a sub-stream (R256). -/
def subStart (h : Bytes) (s : Nat) : Nat := 512 + 4 * ((List.range s).map (fun t => ceilDiv (subBits h t) 32)).sum

/-- DECODED_BYTES is a valid size (R262). -/
def sizeOk (d : Nat) : Bool := decide (d % 256 = 0 ∧ 256 ≤ d ∧ d ≤ 65536)

/-- The header checks of R262, in the order of its table; the number of the first that fails, from 1. -/
def headerFault (h : Bytes) : Option Nat :=
  let fl := field h 3 1
  let raw := bit fl 0
  let d := field h 4 4
  let st := field h 8 4
  let rsf := bits fl 3 2
  let z := fun (o n : Nat) => decide (field h o n = 0)
  if !(decide (field h 0 2 = 0x4B42) && decide (field h 2 1 = 1) && decide (bits fl 5 3 = 0) && z 0x18 8 && z 0x1A0 96
      && (decide (rsf = 1) || decide (rsf = 2))
      && (List.range 64).all (fun s => decide (bits (field h (0xA0 + 4 * s) 4) 27 5 = 0))) then some 1
  else if field h 0x14 4 ≠ crc32c (h.take 0x14 ++ [0, 0, 0, 0] ++ (h.drop 0x18).take (512 - 0x18)) then some 2
  else if !(sizeOk d && decide (st = if raw then 512 + d else subStart h 64)) then some 3
  else if raw then
    (if !(z 0x20 128) then some 4 else if !(z 0xA0 256) then some 5 else none)
  else if !((List.range 256).all (fun s => decide (codeLen h s ≤ 12)) && codesComplete h
      && (decide (bits fl 1 2 ≠ 0) || (List.range 13).all (fun i => decide (codeLen h (243 + i) = 0)))) then some 4
  else if !((List.range 64).all (fun s => decide (subSyms h s = d / 64 ∧ d / 64 ≤ subBits h s ∧ subBits h s ≤ 12 * (d / 64)))) then some 5
  else none

/-- Read one symbol at bit `p` of a sub-stream (R255): the symbol and the next bit, or none after 12 bits without a match. -/
def readSym (tab : List (Nat × Nat × Nat)) (rd : Nat → Byte) : Nat → Nat → Nat → Nat → Option (Nat × Nat)
  | 0, _, _, _ => none
  | n + 1, p, len, v =>
    let b := if (rd (p / 8)).getLsbD (p % 8) then 1 else 0
    let v1 := 2 * v + b
    match tab.find? (fun x => x.1 == len + 1 && x.2.1 == v1) with
    | some x => some (x.2.2, p + 1)
    | none => readSym tab rd n (p + 1) (len + 1) v1

/-- Symbol `k` of a sub-stream. -/
def symAt (tab : List (Nat × Nat × Nat)) (rd : Nat → Byte) : Nat → Nat → Option Nat
  | 0, p => (readSym tab rd 12 p 0 0).map Prod.fst
  | k + 1, p => match readSym tab rd 12 p 0 0 with
    | none => none
    | some (_, p') => symAt tab rd k p'

/-- The bit position after `k` more symbols. -/
def symEnd (tab : List (Nat × Nat × Nat)) (rd : Nat → Byte) : Nat → Nat → Nat
  | 0, p => p
  | k + 1, p => match readSym tab rd 12 p 0 0 with
    | none => p + 12
    | some (_, p') => symEnd tab rd k p'

/-- Rows of the Kaolin store that decoded bytes `pos … pos + n - 1` of a block are read from (R256, R257). -/
def stoRows (k : Memory) (h : Bytes) (base : Nat) (raw : Bool) (pos n : Nat) : List Nat :=
  if raw then rowsOf (base + 512 + pos) n
  else
    let tab := codesOf h
    (List.range 64).foldl (fun l s =>
      let mine := (List.range n).filter (fun i => decide ((pos + i) % 256 / 4 = s))
      match mine.head?, mine.getLast? with
      | some a, some b =>
        let st := base + subStart h s
        let rd := fun i => Memory.read k (st + i)
        let ix := fun i => 4 * ((pos + i) / 256) + (pos + i) % 4
        let p0 := symEnd tab rd (ix a) 0
        let p1 := symEnd tab rd (ix b + 1 - ix a) p0
        (rowsOf (st + p0 / 8) ((p1 - 1) / 8 + 1 - p0 / 8)).foldl (fun l r => if l.contains r then l else l ++ [r]) l
      | _, _ => l) []

/-- The Kaolin store's bytes as a reader gets them: words that cannot be corrected come as they are (R286, R652). -/
def Store.dirty (st : Store) (free : Nat) : Memory :=
  st.errs.foldl (fun m kv =>
    let c := eccClass .kaolin (popcount 256 kv.2) (free + kv.1)
    if c ≤ 1 then m
    else Memory.writeN m (32 * kv.1) (flipBytes (32 * kv.1) (Memory.readN m (32 * kv.1) 32) (32 * kv.1) 32
      (if c = 2 then kv.2 else kv.2 ^^^ Config.eccMask (free + kv.1)))) st.data

/-- Decoded byte `d` of a block at `base` of the Kaolin store; none is a byte flagged invalid (R256, R257, R263). -/
def decodedByte (k : Memory) (h : Bytes) (base : Nat) (raw : Bool) (d : Nat) : Option Nat :=
  if raw then some (Memory.read k (base + 512 + d)).toNat
  else symAt (codesOf h) (fun i => Memory.read k (base + subStart h (d % 256 / 4) + i)) (4 * (d / 256) + d % 4) 0

/-- The checker's scan of one sub-stream: `n` symbols from bit `p` must end exactly at bit `lim`; the number of the check of R262
that fails, 6 for a code that is none and 7 for length and count. -/
def scanSub (tab : List (Nat × Nat × Nat)) (rd : Nat → Byte) (lim : Nat) : Nat → Nat → Option Nat
  | 0, p => if p = lim then none else some 7
  | n + 1, p =>
    if lim ≤ p then some 7
    else match readSym tab rd 12 p 0 0 with
      | none => some 6
      | some (_, p') => if lim < p' then some 7 else scanSub tab rd lim n p'

/-- Code `i` of a list of six-bit codes packed four to three bytes (R45). -/
def code6 (b : Nat → Nat) (i : Nat) : Nat :=
  let q := 3 * (i / 4)
  bits (b q + 256 * b (q + 1) + 65536 * b (q + 2)) (6 * (i % 4)) 6

/-- The content checks of R262 on decoded bytes, by LAYOUT: the first byte that breaks one. -/
def contentBad (layout : Nat) (raw : Bool) (n : Nat) (b : Nat → Nat) : Option Nat :=
  if layout = 0 then (if raw then (List.range n).find? (fun i => decide (242 < b i)) else none)
  else if layout = 1 then
    ((List.range (n / 3 * 4)).find? (fun i => decide (50 < code6 b i))).map (fun i => 3 * (i / 4) + 6 * (i % 4) / 8)
  else if layout = 2 then
    ((List.range (n / 64)).find? (fun s => !decide (120 ≤ b (64 * s + 51) ∧ b (64 * s + 51) ≤ 122))).map (fun s => 64 * s + 51)
  else
    ((List.range (n / 64 * 52)).find? (fun k => decide ((if k % 52 = 51 then 2 else 50) < code6 (fun j => b (64 * (k / 52) + j)) (k % 52)))).map
      (fun k => 64 * (k / 52) + 3 * (k % 52 / 4) + 6 * (k % 52 % 4) / 8)

/-- The checker's verdict on a block: none, or a sub-stream that fails and the number of its check in R262: 6 codes, 7 length and
count, 8 content (which of several is reported: log 125). -/
def checkBlock (k : Memory) (h : Bytes) (base : Nat) : Option (Nat × Nat) :=
  let fl := field h 3 1
  let raw := bit fl 0
  let d := field h 4 4
  let tab := codesOf h
  let bad := if raw then none
    else (List.range 64).findSome? (fun s =>
      (scanSub tab (fun i => Memory.read k (base + subStart h s + i)) (subBits h s) (d / 64) 0).map (fun c => (s, c)))
  match bad with
  | some r => some r
  | none => (contentBad (bits fl 1 2) raw d (fun i => (decodedByte k h base raw i).getD 255)).map
      (fun i => (if raw then 0 else i % 256 / 4, 8))

/-- Mark the rows of a block (R263). -/
def Core.markRows (c : Core) (base rows m : Nat) : Core :=
  { c with kaolin := (List.range rows).foldl (fun st i => st.raiseMark m (base / 256 + i)) c.kaolin }

/-- What a block failure does inside the engine (R263): rows marked, tiles that read it poisoned, the context failed. -/
def Core.failBlock (c : Core) (xc rows mark : Nat) : Core :=
  let x := c.x xc
  x.tiles.foldl (fun c t => c.poisonTile t mark) ((c.markRows x.base rows 1).setX xc { x with failed := true, mark := mark })

/-- Read rows of the Kaolin store through the expander, which goes first at the engine port (R272, R285): each row of a block is read once
after its block opened (log 131). -/
def Engine.rdExp (en : Engine) (free : Nat) (rows : List Nat) : Engine :=
  rows.foldl (fun en k =>
    let e1 := en.tookRead .kaolin (Store.read (en.core.viewAt .kaolin en.core.pos) .kaolin free (256 * k) 256)
    { e1 with acc := e1.acc ++ [⟨.kaolin, k, 256 * k, 256 * k + 256, 0, false, e1.core.pos, e1.core.pos⟩] }) en

end Sys2Proof.Machine
end

