-- ==== Sys2Proof/Machine/Mv.lean ====
section
/-! DEFINITION. The MV slot: loads, stores, accumulate-on-write, generator and handle settings, opening weight blocks
(R189 to R194, R260 to R265). -/

namespace Sys2Proof.Machine

/-- The store a generator names and the address it returns; code 3 faults (R163, R653). -/
def Engine.useStore (en : Engine) (ag : Nat) : Except Nat (StoreId × Nat × Engine) :=
  let (sc, a, c) := en.core.useAg ag
  match storeOf sc with
  | none => .error fkSTORE_RANGE
  | some i => .ok (i, a, en.setCore c)

/-- Load a rotated row (R190). -/
def opLd (w : W64) (s : State) (en : Engine) : Except Nat Engine := do
  need (onlySpans w true [(9, 6), (15, 4), (19, 2), (21, 8), (29, 1)]) fkENCODING
  let ew := fld w 19 2
  let rsa := flag w 29
  need (decide (ew ≠ 3) && (!rsa || decide (fld w 21 8 = 0))) fkENCODING
  let (id, a, en1) ← en.useStore (fld w 15 4)
  need (decide (id ≠ .table) || (!rsa && decide (fld w 21 8 = 0))) fkSTORE_RANGE
  let row := a / 256
  need (decide (256 * row + 256 ≤ (s.item en.item).hdr.need id)) fkSTORE_RANGE
  let (b, _, en2) := en1.rd s.freeCtr 5 id (256 * row) 256
  let rot := if rsa then a % 256 else fld w 21 8
  let n := 2 ^ ew
  let es := (List.range 64).filter (en.core.pm (fld w 6 3))
  let val := fun e => leNat ((List.range n).map (fun k => b.getD ((e * n + k + rot) % 256) 0))
  .ok (en2.put 4 5 (.vec (fld w 9 6) (es.map (fun e => (e, BitVec.ofNat 32 (val e))))))

/-- The bytes of a vector store: 64 elements of `n` bytes from `a`, masked elements left out (R160, R191). -/
def stBytes (c : Core) (vs pm n a : Nat) : List (Nat × Byte) :=
  ((List.range 64).filter (c.pm pm)).flatMap (fun e =>
    (leBytes n (c.v vs e).toNat).zipIdx.map (fun (b, k) => (a + n * e + k, b)))

/-- The checks and the write of ST and STR (R191). -/
def stWrite (c : Core) (hdr : Hdr) (id : StoreId) (a vs pm ew fmt : Nat) : Except Nat StoreW := do
  let n := 2 ^ ew
  need (decide (a % 256 + 64 * n ≤ 256) && decide (a + 64 * n ≤ hdr.need id)) fkSTORE_RANGE
  need (decide (id ≠ .table) || decide (fmt = fRAW)) fkSTORE_RANGE
  .ok ⟨id, stBytes c vs pm n a, fmt, 0, decide (ew = 2 ∧ a % 256 = 0) && (List.range 64).all (c.pm pm)⟩

/-- Bytes of a table-file write that a TB write cycle of the same cycle leaves in place (R191, R277). -/
def Core.keepSets (c : Core) (w : StoreW) : StoreW :=
  if w.store ≠ .table then w
  else { w with bytes := w.bytes.filter (fun x => !(c.pend.any (fun p => match p.res with
    | .set b bs => decide (p.due = c.pos + 1 ∧ b ≤ x.1 ∧ x.1 < b + bs.length)
    | _ => false))) }

/-- Store to a local store (R191). -/
def opSt (w : W64) (s : State) (en : Engine) : Except Nat Engine := do
  need (onlySpans w true [(9, 6), (15, 4), (19, 2), (21, 4)]) fkENCODING
  need (decide (fld w 19 2 ≠ 3) && !fmtReserved (fld w 21 4)) fkENCODING
  let (id, a, en1) ← en.useStore (fld w 15 4)
  let sw ← stWrite en.core (s.item en.item).hdr id a (fld w 9 6) (fld w 6 3) (fld w 19 2) (fld w 21 4)
  .ok ((en1.put 2 5 (.store (en.core.keepSets sw))).noteAcc 0 5 true id a (64 * 2 ^ fld w 19 2))

/-- The physical engine of a logical index of the work item; none at or beyond LOGICAL_ENGINES (R129, R192). -/
def State.destOf (s : State) (en : Engine) (logical : Nat) : Option Nat :=
  let it := s.item en.item
  if logical < it.hdr.logical then some (it.engines.getD logical 0) else none

/-- A remote write takes the next store number of its engine (R131, R192). -/
def Engine.sendNet (en : Engine) (e dst : Nat) (k : NetKind) : Engine :=
  let n := en.core.issuedStores
  ((en.setCore { en.core with issuedStores := n + 1 }).stageIt [.net { src := e, dst := dst, item := en.item, seq := n, kind := k }])

/-- Store to another engine's Loam (R192). -/
def opStr (e : Nat) (w : W64) (s : State) (en : Engine) : Except Nat Engine := do
  need (onlySpans w true [(9, 6), (15, 4), (19, 2), (21, 4), (25, 5)]) fkENCODING
  need (decide (fld w 19 2 ≠ 3) && !fmtReserved (fld w 21 4)) fkENCODING
  let (id, a, en1) ← en.useStore (fld w 15 4)
  need (decide (id = .loam)) fkSTORE_RANGE
  let sw ← stWrite en.core (s.item en.item).hdr id a (fld w 9 6) (fld w 6 3) (fld w 19 2) (fld w 21 4)
  match s.destOf en (en.core.s (fld w 25 5)) with
  | none => .error fkTOKEN
  | some d => .ok (en1.sendNet e d (.plain (if sw.whole then { sw with mark := en.core.consumed } else sw)))

/-- The values of an accumulate-on-write (R193). -/
def acwVals (c : Core) (vs pm : Nat) (w64 : Bool) : List (Nat × Int) :=
  if w64 then ((List.range 32).filter (fun k => c.pm pm (2 * k))).map (fun k =>
    (k, toInt 64 ((c.v vs (2 * k)).toNat + 2 ^ 32 * (c.v vs (2 * k + 1)).toNat)))
  else ((List.range 64).filter (c.pm pm)).map (fun k => (k, (c.v vs k).toInt))

/-- Accumulate-on-write (R193). -/
def opAcw (e : Nat) (w : W64) (s : State) (en : Engine) : Except Nat Engine := do
  need (onlySpans w true [(9, 6), (15, 4), (19, 1), (20, 1), (21, 5)]) fkENCODING
  let (id, a, en1) ← en.useStore (fld w 15 4)
  need (decide (id = .loam) && decide (a / 256 * 256 + 256 ≤ (s.item en.item).hdr.lNeed)) fkSTORE_RANGE
  let vals := acwVals en.core (fld w 9 6) (fld w 6 3) (flag w 19)
  if flag w 20 then
    match s.destOf en (en.core.s (fld w 21 5)) with
    | none => .error fkTOKEN
    | some d => .ok (en1.sendNet e d (.acw (a / 256) (flag w 19) vals 0))
  else .ok ((en1.put 2 5 (.acw (a / 256) (flag w 19) vals 0)).noteAcc 0 5 true .loam (a / 256 * 256) 256)

/-- Load a generator from four scalars (R189). -/
def opAgset (w : W64) (_ : State) (en : Engine) : Except Nat Engine := do
  need (onlySpans w false [(9, 4), (13, 5)]) fkENCODING
  let x := fld w 13 5
  need (decide (x ≤ 28)) fkENCODING
  let c := en.core
  .ok (en.put 2 5 (.ag (fld w 9 4)
    (Ag.ofBits (c.s x + 2 ^ 64 * c.s (x + 1) + 2 ^ 128 * c.s (x + 2) + 2 ^ 192 * c.s (x + 3)))))

/-- Set a table handle (R164, R189). -/
def opThset (w : W64) (_ : State) (en : Engine) : Except Nat Engine := do
  need (onlySpans w false [(9, 4), (13, 16)]) fkENCODING
  .ok (en.put 1 5 (.th (fld w 9 4) (BitVec.ofNat 16 (fld w 13 10))))

/-- Add to a table handle's BASE modulo 1,024 (R189). -/
def opThadd (w : W64) (_ : State) (en : Engine) : Except Nat Engine := do
  need (onlySpans w false [(9, 4), (13, 10)]) fkENCODING
  .ok (en.put 1 5 (.th (fld w 9 4) (BitVec.ofNat 16 ((en.core.t (fld w 9 4) + fld w 13 10) % 1024))))

/-! ### XOPEN -/

/-- Rows a block covers: from its header to its stored end, or to its extent where the size is not usable. -/
def blockRows (stored extent : Nat) : Nat :=
  ceilDiv (if 512 ≤ stored ∧ stored ≤ 512 + 65536 then stored else 512 + extent) 256

/-- Read the header of the block at `a` and make the context that opens it (R194, R260 to R265): failed where a header check fails or a row
carries a mark. -/
def Engine.openBlock (en : Engine) (free a kNeed : Nat) : Except Nat (XCtx × Engine) := do
  need (decide (a + 512 ≤ kNeed)) fkSTORE_RANGE
  let (h, m0, en1) := en.rd free 5 .kaolin a 512
  let d := field h 4 4
  let stored := field h 8 4
  let extent := if sizeOk d then d else 65536
  let bad := headerFault h
  let rows := blockRows stored extent
  let m := max m0 (en1.core.kaolin.maxMark ((List.range rows).map (· + a / 256)))
  need (bad.isSome || decide (a + stored ≤ kNeed)) fkSTORE_RANGE
  let raw := bit (field h 3 1) 0
  let x : XCtx := { opened := true, failed := false, raw := raw, layout := bits (field h 3 1) 1 2, base := a, extent := extent,
                    tensorTag := field h 0xC 4, blockIndex := field h 0x10 4, pos := 0, checking := true, tiles := [], mark := 0,
                    readyAt := en.core.pos + 8, rows := rowsOf a 512 }
  let en2 := en1.stageIt (.count oXP_OPEN 1 :: (if raw then [.count oXP_RAW 1] else []))
  if m ≠ 0 then
    .ok ({ x with failed := true, mark := m, checking := false },
      (en2.setCore { (en2.core.markRows a rows 1) with consumed := max en2.core.consumed m }).stageIt
        [.count oXP_FAIL 1, .status (markStatus m) 0x2006, .event 0x2006 [(1, 0), (4, a), (4, x.tensorTag), (4, x.blockIndex), (1, m)]])
  else match bad with
    | some k =>
      .ok ({ x with failed := true, mark := 1, checking := false }, (en2.setCore (en2.core.markRows a rows 1)).stageIt
        [.count oXP_FAIL 1, .status stDECODE_ERROR 0x2000,
         .event 0x2000 [(1, 0), (4, a), (4, x.tensorTag), (4, x.blockIndex), (1, 0), (1, k)]])
    | none => .ok (x, en2)

/-- XOPEN (R194): an unfinished checker of the context stalls the engine, and the block opens when it is done (R261). -/
def opXopen (w : W64) (s : State) (en : Engine) : Except Nat Engine := do
  need (onlySpans w false [(9, 1), (10, 4)]) fkENCODING
  let (id, a, en1) ← en.useStore (fld w 10 4)
  need (decide (id = .kaolin)) fkSTORE_RANGE
  let xc := fld w 9 1
  let (x, en2) ← en1.openBlock s.freeCtr a (s.item en.item).hdr.kNeed
  if (en2.core.x xc).checking then .ok (en2.setCore { en2.core with xwait := some (xc, x) })
  else .ok (en2.setCore (en2.core.setX xc x))

/-- Load a scalar from a store (R189). -/
def opSld (w : W64) (s : State) (en : Engine) : Except Nat Engine := do
  need (onlySpans w false [(9, 5), (14, 4)]) fkENCODING
  let (id, a, en1) ← en.useStore (fld w 14 4)
  let a8 := a / 8 * 8
  need (decide (a8 + 8 ≤ (s.item en.item).hdr.need id)) fkSTORE_RANGE
  let (b, _, en2) := en1.rd s.freeCtr 5 id a8 8
  .ok (en2.put 4 5 (.scal (fld w 9 5) (BitVec.ofNat 64 (leNat b))))

/-- Store a scalar, a partial-line write of format RAW (R189). -/
def opSst (w : W64) (s : State) (en : Engine) : Except Nat Engine := do
  need (onlySpans w false [(9, 5), (14, 4)]) fkENCODING
  let (id, a, en1) ← en.useStore (fld w 14 4)
  let a8 := a / 8 * 8
  need (decide (a8 + 8 ≤ (s.item en.item).hdr.need id)) fkSTORE_RANGE
  let b := leBytes 8 (en.core.s (fld w 9 5))
  let sw := en.core.keepSets ⟨id, b.zipIdx.map (fun (x, i) => (a8 + i, x)), fRAW, 0, false⟩
  .ok ((en1.put 2 5 (.store sw)).noteAcc 0 5 true id a8 8)

def execMvLd (e : EngId) (w : W64) (s : State) : Host.Outcome State Fault Refusal := .next (s.issueSlot e (.mvLd e w) w (opLd w))
def execMvSt (e : EngId) (w : W64) (s : State) : Host.Outcome State Fault Refusal := .next (s.issueSlot e (.mvSt e w) w (opSt w))
def execMvStr (e : EngId) (w : W64) (s : State) : Host.Outcome State Fault Refusal :=
  .next (s.issueSlot e (.mvStr e w) w (opStr e.val w))
def execMvAcw (e : EngId) (w : W64) (s : State) : Host.Outcome State Fault Refusal :=
  .next (s.issueSlot e (.mvAcw e w) w (opAcw e.val w))
def execMvAgset (e : EngId) (w : W64) (s : State) : Host.Outcome State Fault Refusal :=
  .next (s.issueSlot e (.mvAgset e w) w (opAgset w))
def execMvThset (e : EngId) (w : W64) (s : State) : Host.Outcome State Fault Refusal :=
  .next (s.issueSlot e (.mvThset e w) w (opThset w))
def execMvThadd (e : EngId) (w : W64) (s : State) : Host.Outcome State Fault Refusal :=
  .next (s.issueSlot e (.mvThadd e w) w (opThadd w))
def execXopen (e : EngId) (w : W64) (s : State) : Host.Outcome State Fault Refusal :=
  .next (s.issueSlot e (.xopen e w) w (opXopen w))
def execMvSld (e : EngId) (w : W64) (s : State) : Host.Outcome State Fault Refusal := .next (s.issueSlot e (.mvSld e w) w (opSld w))
def execMvSst (e : EngId) (w : W64) (s : State) : Host.Outcome State Fault Refusal := .next (s.issueSlot e (.mvSst e w) w (opSst w))

end Sys2Proof.Machine
end

