-- ==== Sys2Proof/Machine/Rq.lean ====
section
/-! DEFINITION. The RQ slot: folds, conversions with the output compressor, merges, active-neuron decisions and clears
(03; 07 R238 to R248; 10 R364 to R374; R181 to R188). -/

namespace Sys2Proof.Machine

/-! ### FOLD -/

/-- Read scale bytes through a generator in cycle `k` of the operation: Loam rows must carry SC8 (R108); a fault on a store R653 does not
allow. -/
def Engine.scaleBytes (en : Engine) (k free : Nat) (hdr : Hdr) (ag n : Nat) : Except Nat (Bytes × Bool × Nat × Engine) :=
  let (sc, a, c) := en.core.useAg ag
  match storeOf sc with
  | some .loam =>
    if hdr.lNeed < a + n then .error fkSTORE_RANGE
    else if (rowsOf a n).any (fun r => c.loam.tag r != fSC8) then .ok ([], true, 0, en.setCore c)
    else let (b, m, e) := (en.setCore c).rdAt k free 4 .loam a n; .ok (b, false, m, e)
  | some .kaolin =>
    if hdr.kNeed < a + n then .error fkSTORE_RANGE
    else let (b, m, e) := (en.setCore c).rdAt k free 4 .kaolin a n; .ok (b, false, m, e)
  | _ => .error fkSTORE_RANGE

/-- The per-position scale bytes, one generator use each (R182), position `p` in cycle `p` (log 131); with 160-element segments the five
bytes of the run (R40). -/
def Engine.posScales (free : Nat) (hdr : Hdr) (ag n : Nat) : List Nat → Engine → Except Nat (List Bytes × Bool × Nat × Engine)
  | [], e => .ok ([], false, 0, e)
  | p :: t, e => do
    let (b, bad, m, e1) ← e.scaleBytes p free hdr ag n
    let (l, bad2, m2, e2) ← Engine.posScales free hdr ag n t e1
    .ok (b :: l, bad || bad2, max m m2, e2)

/-! ### Parity of a tile (R268, R289, R652) -/

/-- Parity errors among the keys `lo … lo + n - 1` of a tile's error masks. -/
def Tile.parity (t : Tile) (free lo n : Nat) : Nat :=
  (t.errs.filter (fun kv => decide (lo ≤ kv.1 ∧ kv.1 < lo + n ∧ eccClass .table (popcount 80 kv.2) (free + kv.1) = 2))).length

/-- A chain and an element as a reader gets them: with the bits in error. -/
def Tile.chainRead (t : Tile) (k : Nat) : W32 := SMap.get t.chains k 0 ^^^ BitVec.ofNat 32 (SMap.get t.errs k 0)
def Tile.elRead (t : Tile) (k : Nat) : LEl :=
  match SMap.find? t.errs (4096 + k) with
  | none => t.el k
  | some m => { t.el k with w := (t.el k).w ^^^ BitVec.ofNat 80 m }

/-- A parity error found in a tile poisons it with mark 3 (R54, R289). -/
def Engine.tileParity (en : Engine) (tile n : Nat) : Engine :=
  if n = 0 then en
  else (en.setCore (en.core.poisonTile tile 3)).stageIt (.status stDATA_POISON 0x3100 :: eccStaged .table 0 n)

/-- SCALE_INVALID (R79): poison and report. -/
def Engine.scaleInvalid (en : Engine) (tile : Nat) : Engine :=
  (en.setCore (en.core.poisonTile tile 1)).stageIt [.status stDECODE_ERROR 0x2005, .event 0x2005 []]

/-- Fold the chains of a tile (R68, R70 to R72, R79, R84 to R86, R182, R183). -/
def opFold (w : W64) (s : State) (en : Engine) : Except Nat Engine := do
  let c := en.core
  let hdr := (s.item en.item).hdr
  need (onlySpans w false [(9, 2), (11, 1), (12, 1), (13, 1), (14, 8), (22, 4), (26, 4), (30, 2), (32, 5)]) fkENCODING
  let rowmap := fld w 30 2
  need (decide (rowmap ≠ 3) && !fmtReserved (fld w 14 4)) fkENCODING
  need (en.unitFree 4) fkENCODING
  let tile := fld w 9 2
  let newsc := flag w 13
  let sa := c.s (fld w 32 5)
  let pts := bits sa 8 2
  let rts := bits sa 18 2
  let nsig := 1 + (if rowmap = 0 then 0 else 1) + (if pts = 1 then 1 else 0) + (if rts = 1 then 1 else 0)
  let occ := if newsc then (if nsig ≤ 1 then 8 else if nsig = 2 then 10 else 12) else 8
  let en0 := en.busyTill 4 occ
  let t := c.tile tile
  if t.tag.toNat ≠ fld w 14 8 then .ok (en0.stageIt mismatch)
  else
    let seg160 := decide (bits t.tag.toNat 4 2 ≠ 3) && bit t.tag.toNat 6
    let bp := flag w 12
    let chains := (List.range 2048).map (fun k => (t.chainRead k).toInt)
    let odd := bp && chains.any (fun v => decide (v % 2 ≠ 0))
    -- the chains as they are read, before any scale: parity, OVF, and the shift of BP
    let ep := en0.tileParity tile (t.parity s.freeCtr 0 2048 + (if flag w 11 then 0 else t.parity s.freeCtr 4096 2048))
    let ev := if t.ovf then (ep.setCore (ep.core.poisonTile tile 3)).stageIt [.status stINTERNAL 0x1003, .event 0x1003 []] else ep
    let en0 := if odd then (ev.setCore (ev.core.poisonTile tile 3)).stageIt [.status stINTERNAL 0x1002, .event 0x1002 []] else ev
    -- scales, or an early end
    let r : Option FoldScales × Engine ←
      if newsc then do
        let (pb, bad1, m1, e1) ← Engine.posScales s.freeCtr hdr (fld w 22 4) (if seg160 then 5 else 1) (List.range 8) en0
        let (rb, bad2, m2, e2) ← (if rowmap = 0 then .ok ([], false, 0, e1)
          else e1.scaleBytes 0 s.freeCtr hdr (fld w 26 4) (if rowmap = 1 then 256 else 64))
        let ps := pb.map (fun b => (b.headD 0).toNat)
        let rs := rb.map BitVec.toNat
        let e3 := if m1 = 0 ∧ m2 = 0 then e2 else e2.setCore (e2.core.poisonTile tile (max m1 m2))
        if bad1 || bad2 then .ok (none, e3.stageIt mismatch)
        else if pb.any (fun b => b.any (fun x => x != b.headD 0)) then .ok (none, e3.stageIt mismatch)
        else if ps.any e4m3Bad || rs.any e4m3Bad || tscaleBad pts (bits sa 0 8) || tscaleBad rts (bits sa 10 8)
            || decide (bits sa 20 44 ≠ 0) then .ok (none, e3.scaleInvalid tile)
        else
          let (s1, x1) := scaleParts pts (bits sa 0 8)
          let (s2, x2) := scaleParts rts (bits sa 10 8)
          let fp := ps.map (fun b => (e4m3Sig b * s1, e4m3Exp b + x1))
          let fr := (List.range 256).map (fun i =>
            if rowmap = 0 then (s2, x2)
            else let b := rs.getD (if rowmap = 1 then i else i / 4) 0; (e4m3Sig b * s2, e4m3Exp b + x2))
          let fs : FoldScales := ⟨fp, fr⟩
          .ok (some fs, e3.setCore (e3.core.setTile tile { e3.core.tile tile with fold := some fs }))
      else match t.fold with
        | some fs => .ok (some fs, en0)
        | none =>
          let x := toInt 9 (Config.foldExp w.toNat)
          .ok (some ⟨List.replicate 8 (0, x), List.replicate 256 (0, 0)⟩,
            (en0.setCore (en0.core.poisonTile tile 3)).stageIt [.status stINTERNAL 0])
    match r with
    | (none, e) => .ok e
    | (some fs, e) =>
      let terms := chains.zipIdx.map (fun (v, k) =>
        let (sp, xp) := fs.pos.getD (k / 256) (0, 0)
        let (sr, xr) := fs.row.getD (k % 256) (1, 0)
        ((if bp then v / 2 else v) * ((sp * sr : Nat) : Int), xp + xr))
      .ok (e.put (occ + 2) 4 (.fold tile (flag w 11) terms))

/-! ### The output compressor (R238 to R248) -/

/-- Units of a frame by format, element format and count (R243). -/
def frameUnits (fmtc ofmt n : Nat) : Nat :=
  if fmtc = 0 then (if ofmt = fI8 then ceilDiv n 16 else ceilDiv (ceilDiv n 2) 16)
  else if fmtc = 1 then (if ofmt = fI8 then ceilDiv (5 * n) 16 else ceilDiv (3 * n) 16)
  else (if ofmt = fI8 then ceilDiv (3 * n) 16 else ceilDiv (2 * n + ceilDiv n 2) 16)

/-- Two four-bit values a byte, the lower index in the low bits (R75). -/
def nibbles : List Nat → Bytes
  | [] => []
  | [a] => [BitVec.ofNat 8 (a % 16)]
  | a :: b :: t => BitVec.ofNat 8 (a % 16 + 16 * (b % 16)) :: nibbles t

/-- One block octet: elements as lists of eight values. -/
structure Octet where
  fmtc : Nat
  count : Nat
  units : Nat
  mask : Nat
  deriving DecidableEq, Repr

def nonzeroAt (els : List (List Int)) (i : Nat) : Bool := (els.getD i []).any (fun v => decide (v ≠ 0))
/-- Groups of five that are not all-zero (R241). -/
def liveGroups (els : List (List Int)) : List Nat :=
  (List.range 32).filter (fun g => (List.range 5).any (fun j => nonzeroAt els (5 * g + j)))

/-- The choice of a format (R245). -/
def chooseFormat (ctl ofmt : Nat) (els : List (List Int)) (blockEnd : Nat) : Octet :=
  let gs := liveGroups els
  let n := ((List.range els.length).filter (nonzeroAt els)).length
  let d : Octet := ⟨0, 0, frameUnits 0 ofmt els.length, 0⟩
  let ug := frameUnits 1 ofmt gs.length
  let b1 : Octet := if bit ctl 20 ∧ ug < d.units then ⟨1, gs.length, ug, (gs.map (2 ^ ·)).sum⟩ else d
  let ui := frameUnits 2 ofmt n
  if bit ctl 21 ∧ n ≤ bits ctl 22 6 ∧ blockEnd ≤ 65536 ∧ ui < b1.units then ⟨2, n, ui, 0⟩ else b1

/-- The frame of one position (R242). -/
def frameBytes (o : Octet) (ofmt b : Nat) (els : List (List Int)) (p : Nat) : Bytes :=
  let v := fun i => ofInt 8 ((els.getD i []).getD p 0)
  let raw : Bytes :=
    if o.fmtc = 0 then
      (if ofmt = fI8 then (List.range els.length).map (fun i => BitVec.ofNat 8 (v i)) else nibbles ((List.range els.length).map v))
    else if o.fmtc = 1 then
      (liveGroups els).flatMap (fun g =>
        if ofmt = fI8 then (List.range 5).map (fun j => BitVec.ofNat 8 (v (5 * g + j)))
        else nibbles (if g % 2 = 0 then (List.range 5).map (fun j => v (5 * g + j)) ++ [0]
          else 0 :: (List.range 5).map (fun j => v (5 * g + j))))
    else
      let is := (List.range els.length).filter (nonzeroAt els)
      is.flatMap (fun i => leBytes 2 (160 * b + i))
        ++ (if ofmt = fI8 then is.map (fun i => BitVec.ofNat 8 (v i)) else nibbles (is.map v))
  padTo (16 * o.units) raw

/-- Bytes of a span per block (R240). -/
def spanBytes (ofmt : Nat) : Nat := if ofmt = fI8 then 160 else 80

/-- A directory entry (R244). -/
def dirEntry (o : Octet) (e : Nat) (last : Bool) : Nat :=
  o.fmtc + (if last then 4 else 0) + 8 * (e - 1) + 2 ^ 11 * o.units + 2 ^ 16 * o.count + 2 ^ 32 * o.mask

/-- The writes of one block octet, its directory entry, and its format. -/
def emitOctet (r : CmpRow) (els : List (List Int)) (last : Bool) : List StoreW × Nat × Nat :=
  let o := chooseFormat r.ctl r.ofmt els (160 * r.block + els.length)
  let ent := dirEntry o els.length last
  let fr := (List.range 8).map (fun p =>
    let a := r.bases.getD p 0 + spanBytes r.ofmt * r.block
    (⟨.loam, (frameBytes o r.ofmt r.block els p).zipIdx.map (fun (x, i) => (a + i, x)), r.ofmt, r.mark, false⟩ : StoreW))
  let d := bits r.ctl 0 20 + 8 * r.block
  (fr.filter (fun w => !w.bytes.isEmpty) ++ [⟨.loam, (leBytes 8 ent).zipIdx.map (fun (x, i) => (d + i, x)), fRAW, r.mark, false⟩], ent, o.fmtc)

/-- Emit every full block; with `close` also the last one (R246). Result: writes, formats, the row. -/
def compressRow (close : Bool) : Nat → CmpRow → List StoreW × List Nat × CmpRow
  | 0, r => ([], [], r)
  | n + 1, r =>
    if 160 ≤ r.held.length then
      let last := close && decide (r.held.length = 160)
      let (ws, ent, f) := emitOctet r (r.held.take 160) last
      let (ws2, fs, r2) := compressRow close n { r with held := r.held.drop 160, block := r.block + 1, lastN := ent }
      (ws ++ ws2, f :: fs, r2)
    else if close ∧ r.held ≠ [] then
      let (ws, ent, f) := emitOctet r r.held true
      (ws, [f], { r with held := [], block := r.block + 1, lastN := ent })
    else ([], [], r)

/-- The writes with which END closes a row left open (R246). -/
def endRow (r : CmpRow) : List StoreW × List Nat :=
  if r.held = [] then
    (if r.block = 0 then ([], [])
     else
      let d := bits r.ctl 0 20 + 8 * (r.block - 1)
      ([⟨.loam, (leBytes 8 (r.lastN ||| 4)).zipIdx.map (fun (x, i) => (d + i, x)), fRAW, r.mark, false⟩], []))
  else let (ws, fs, _) := compressRow true 4 r; (ws, fs)

/-- The control word's fields are valid (R239). -/
def ctlOk (ctl ofmt : Nat) : Bool :=
  decide (bits ctl 0 3 = 0) && decide (bits ctl 28 4 = 0) &&
    (!bit ctl 21 || (decide (1 ≤ bits ctl 22 6) && decide (bits ctl 22 6 ≤ if ofmt = fI8 then 53 else 32)))

/-! ### CVT -/

/-- Split a write at row boundaries: whole rows set the tag, parts are checked (R185). The mark may differ by row. -/
def rowWrites (a : Nat) (b : Bytes) (fmt : Nat) (mark : Nat → Nat) : List StoreW :=
  (rowsOf a b.length).map (fun r =>
    let lo := max a (256 * r)
    let hi := min (a + b.length) (256 * r + 256)
    ⟨.loam, ((b.drop (lo - a)).take (hi - lo)).zipIdx.map (fun (x, i) => (lo + i, x)), fmt, mark r, decide (hi - lo = 256)⟩)

/-- One element's conversion: code, overflow condition, saturation event, and the value the code stands for. -/
structure CvtR where
  code : Nat
  ovr : Bool
  sat : Bool
  val : Q
  deriving DecidableEq, Repr

/-- Convert one value (R92; block formats apart). -/
def cvtOne (ofmt f : Nat) (r : Rnd) (v : Q) : CvtR :=
  if ofmt = fI32 ∨ ofmt = fI64 then
    let n := fmtBits ofmt
    let z := Q.round r (v.mul (Q.dy 1 (-(f : Int))))
    let hi : Int := ((2 ^ (n - 1) : Nat) : Int) - 1
    let lo : Int := -((2 ^ (n - 1) : Nat) : Int)
    let y := if hi < z then hi else if z < lo then lo else z
    ⟨ofInt n y, decide (y ≠ z), decide (y ≠ z), Q.dy y f⟩
  else if ofmt = fL16 then
    let x := lOfQ r v
    ⟨x.code, decide (x.code = lOVF), false, if lIsOvf x.code then Q.dy 1 100 else lToQ x.code⟩
  else
    let (c, o) := floatEncode ofmt r v
    ⟨c, o, false, match floatDecode ofmt c with | .fin q => q | _ => Q.dy 1 200⟩

/-- The scale of the values of a block, or of the blocks that share one (R40, R93): the byte, and whether the block saturates. -/
def blockScale (q : Int) (t : Q) (vs : List Q) : Nat × Bool :=
  let a := vs.foldl (fun m v => if Q.lt m v.abs then v.abs else m) ⟨0, 1⟩
  if a.n = 0 then (0, false)
  else match ((List.range 0x7E).map (· + 1)).find? (fun b => Q.le a (((e4m3Val b).mul t).mul (Q.ofInt q))) with
    | some b => (b, false)
    | none => (0x7E, true)

/-- The integers of a block under its scale (R93). -/
def blockInts (q : Int) (t : Q) (s : Nat) (rs : List Rnd) (vs : List Q) : List Int :=
  if s = 0 then vs.map (fun _ => 0)
  else vs.zipIdx.map (fun (v, i) => max (-q) (min q (Q.round (rs.getD i .rne) (v.div ((e4m3Val s).mul t)))))

/-- A block saturates: a value lies beyond what the scale 448 reaches (R93). -/
def blockSat (q : Int) (t : Q) (vs : List Q) : Bool := (blockScale q t vs).2

/-- The eight blocks of a position: scale byte, integers, saturation. Block `b` takes its scale over the blocks with its key (R40, R93;
log 135). -/
def cvtBlocks (q : Int) (t : Q) (key : Nat → Nat) (rs : List Rnd) (vs : List Q) : List (Nat × List Int × Bool) :=
  let part := fun (b : Nat) => (vs.drop (32 * b)).take 32
  (List.range 8).map (fun b =>
    let s := (blockScale q t (((List.range 8).filter (fun c => decide (key c = key b))).flatMap part)).1
    (s, blockInts q t s ((rs.drop (32 * b)).take 32) (part b), blockSat q t (part b)))

/-- Everything one position of a CVT gives. -/
structure PosOut where
  bytes : Bytes
  scales : Bytes
  ints : List Int
  ovr : Bool
  sat : Bool
  satBlocks : Nat
  squares : List (Nat × Nat)
  marks : List Nat
  deriving DecidableEq, Repr

/-- The square of an element in L16 for the step statistic (R223); an OVF stays OVF. -/
def sqOf (v : Q) : Nat := (lSqr (lOfQ .rne v).code).code

/-- Convert position `n` (R92 to R96, R223). `draw j` is the word of logical index j, none past the stream's end; with `seg` the blocks of
one run of 160 rows share their scale (R40). A LACC record carries its element as it is, without a row scale (log 141); an index is
taken modulo 2^64 (log 142). -/
def cvtPos (t : Tile) (ofmt f : Nat) (sto seg : Bool) (rowScale : Nat → Q) (tq : Q) (j0 nrows n : Nat)
    (draw : Nat → Option Nat) : PosOut :=
  let j := fun r => (j0 + n * nrows + r) % 2 ^ 64
  let key := fun (b : Nat) => if seg then (j0 % nrows + 32 * b) / 160 else b
  let els := (List.range 256).map (fun r => t.elRead (256 * n + r))
  let vs := els.zipIdx.map (fun (x, r) => x.val.mul (rowScale r))
  let ds := (List.range 256).map (fun r => if sto then draw (j r) else some 0)
  let rs := ds.map (fun d => if sto then Rnd.sto (d.getD 0) else Rnd.rne)
  let mk := els.zipIdx.map (fun (x, r) => if x.lovf ∨ (ds.getD r none).isNone then 3 else 0)
  if ofmt = fLACC then
    ⟨els.flatMap LEl.toBytes, [], [], false, false, 0, [], mk⟩
  else if ofmt = fI8 ∨ ofmt = fI4 then
    let bl := cvtBlocks (if ofmt = fI8 then 127 else 7) tq key rs vs
    let ints := bl.flatMap (fun b => b.2.1)
    let sq := bl.zipIdx.flatMap (fun (b, i) => b.2.1.zipIdx.map (fun (q, k) =>
      (j (32 * i + k), sqOf (((e4m3Val b.1).mul tq).mul (Q.ofInt q)))))
    ⟨if ofmt = fI8 then ints.map (fun v => BitVec.ofNat 8 (ofInt 8 v)) else nibbles (ints.map (ofInt 8)),
      bl.map (fun b => BitVec.ofNat 8 b.1), ints, bl.any (fun b => b.2.2), false, (bl.filter (fun b => b.2.2)).length, sq, mk⟩
  else
    let cs := vs.zipIdx.map (fun (v, r) => cvtOne ofmt f (rs.getD r .rne) v)
    ⟨cs.flatMap (fun c => leBytes (fmtBits ofmt / 8) c.code), [], [], cs.any CvtR.ovr, cs.any CvtR.sat, 0,
      cs.zipIdx.map (fun (c, r) => (j r, sqOf c.val)), mk⟩

/-- The output attribute word is valid and its tensor scale too (R79, R80, R184). -/
def attrOk (a : Nat) : Bool :=
  !fmtReserved (bits a 0 4) && decide (bits a 16 16 = 0) && !tscaleBad (bits a 4 2) (bits a 8 8)

/-- The generators of a CVT, once per position each, in position order (R184): output addresses, scale addresses, the core. -/
def Core.useTwo (c : Core) (d g : Nat) : Nat → List Nat × List Nat × Core
  | 0 => ([], [], c)
  | n + 1 =>
    let (_, a, c1) := c.useAg d
    let (_, b, c2) := c1.useAg g
    let (l, m, c3) := c2.useTwo d g n
    (a :: l, b :: m, c3)

/-- Convert and write a tile (R79, R92 to R96, R181, R184, R185, R223, R226, R238 to R248). -/
def opRqCvt (w : W64) (s : State) (en : Engine) : Except Nat Engine := do
  let c := en.core
  let it := s.item en.item
  let tile := fld w 9 2
  let ofmt := fld w 11 4
  let rnd := flag w 15
  let x := fld w 26 5
  let comp := fld w 52 2
  let nw := fld w 54 8
  need (onlySpans w true [(9, 2), (11, 4), (15, 1), (16, 10), (26, 5), (31, 6), (37, 4), (41, 4), (45, 4), (49, 1), (50, 2), (52, 2), (54, 8)]) fkENCODING
  need (!fmtReserved ofmt && decide (ofmt ≠ fNONE) && decide (ofmt ≠ fRAW) && decide (ofmt ≠ fSC8)) fkENCODING
  need (decide (x ≤ 28) && decide (comp ≠ 3)) fkENCODING
  need (!flag w 49 || decide (fld w 50 2 = 1) || decide (fld w 50 2 = 2)) fkENCODING
  need (decide (ofmt ≠ fLACC) || (decide (comp = 0) && decide (nw = 255) && !rnd)) fkENCODING
  need (!(rnd && (decide (ofmt = fFP32)))) fkENCODING
  let cbase := c.s x
  let j0 := c.s (x + 1)
  let nrows := c.s (x + 2)
  let attr := c.s (x + 3) % 2 ^ 32
  let ctl := c.s (x + 3) / 2 ^ 32
  let blk := decide (ofmt = fI8) || decide (ofmt = fI4)
  need (if comp = 0 then decide (ctl = 0) else blk && ctlOk ctl ofmt) fkENCODING
  need (en.unitFree 4) fkENCODING
  need (comp = 0 || (match c.cmp with | none => true | some r => decide (r.ctl = ctl) && decide (r.ofmt = ofmt))) fkCONTROL
  let en0 := en.busyTill 4 8
  -- generators: outputs, scales, row scales
  let gd := c.g (fld w 37 4)
  let gs := c.g (fld w 41 4)
  need (decide (gd.store = 0) && (!blk || decide (gs.store = 0))) fkSTORE_RANGE
  let (das, sas, c2) := en0.core.useTwo (fld w 37 4) (fld w 41 4) 8
  let en1 := (en0.setCore c2).tileParity tile ((c.tile tile).parity s.freeCtr 4096 2048)
  let nb := 256 * fmtBits ofmt / 8
  need (comp ≠ 0 || das.all (fun a => decide (a + nb ≤ it.hdr.lNeed))) fkSTORE_RANGE
  need (!blk || sas.all (fun a => decide (a + 8 ≤ it.hdr.lNeed))) fkSTORE_RANGE
  let (rb, badTag, m1, en2) ← (if flag w 49 then en1.scaleBytes 0 s.freeCtr it.hdr (fld w 45 4) 256 else .ok ([], false, 0, en1))
  if badTag then .ok (en2.stageIt mismatch)
  else
    let wsf := fld w 50 2
    let rowBad := rb.any (fun b => if wsf = 1 then e4m3Bad b.toNat else b == 0xFF)
    let en3 := if !attrOk attr ∨ rowBad then en2.scaleInvalid tile else en2
    let lovf := (List.range 2048).any (fun k => ((c.tile tile).el k).lovf)
    let en4 := en3.setCore (en3.core.poisonTile tile (max m1 (if lovf then 3 else 0)))
    let t := en4.core.tile tile
    let tq := if attrOk attr then scaleVal (bits attr 4 2) (bits attr 8 8) else ⟨1, 1⟩
    let rowScale := fun r => if rb = [] ∨ rowBad then ⟨1, 1⟩ else scaleVal wsf (rb.getD r 0).toNat
    let sh := fld w 16 10
    let draw := fun j => s.draw it sh ((cbase + j / 4) % 2 ^ 64) (j % 4)
    let outs := (List.range 8).map (fun n => cvtPos t ofmt (fld w 31 6) rnd (bit attr 6) rowScale tq j0 nrows n draw)
    let ovr := (List.range 2048).any (fun k => (t.el k).ovr)
    let lost := rnd && outs.any (fun o => o.marks.any (fun m => decide (m = 3))) && !lovf
    let sat := outs.any (fun o => o.sat)
    let ovf := outs.any (fun o => o.ovr)
    let nsat := (outs.map (fun o => o.satBlocks)).sum
    let sqs := outs.zipIdx.flatMap (fun (o, n) => if c.pm (fld w 6 3) n ∧ nw < 255 ∧ it.predRow.isNone
      then o.squares.map (fun (j, q) => Staged.normEl nw j q) else [])
    let en5 := en4.stageIt ((if lovf then [.status stINTERNAL 0x1004, .event 0x1004 []] else [])
      ++ (if lost then [.status stSTREAM_COLLISION 0] else [])
      ++ (if ovr then [.overspan] else []) ++ (if sat then [.event 0x1005 []] else [])
      ++ List.replicate nsat (.event 0x1001 []) ++ (if ovf then [.ovr nw] else []) ++ sqs)
    let sc := if blk then outs.zipIdx.flatMap (fun (o, n) =>
        (rowWrites (sas.getD n 0) o.scales fSC8 (fun _ => max t.mark (o.marks.foldl max 0))).map (fun sw => (n, sw))) else []
    let en6 := sc.foldl (fun (e : Engine) sw => e.putStore sw.1 12 4 sw.2) en5
    if comp = 0 then
      let ws := outs.zipIdx.flatMap (fun (o, n) =>
        let a := das.getD n 0
        (rowWrites a o.bytes ofmt (fun row =>
          let lo := (max a (256 * row) - a) * 8 / fmtBits ofmt
          let hi := ceilDiv ((min (a + nb) (256 * row + 256) - a) * 8) (fmtBits ofmt)
          max t.mark (((o.marks.drop lo).take (hi - lo)).foldl max 0))).map (fun sw => (n, sw)))
      .ok (ws.foldl (fun (e : Engine) sw => e.putStore sw.1 12 4 sw.2) en6)
    else
      let els := (List.range 256).map (fun r => outs.map (fun o => o.ints.getD r 0))
      let mk := max t.mark ((outs.flatMap (fun o => o.marks)).foldl max 0)
      let r0 : CmpRow := c.cmp.getD ⟨ctl, ofmt, das, 0, [], 0, 0⟩
      let (ws, fs, r1) := compressRow (decide (comp = 2)) 8 { r0 with held := r0.held ++ els, mark := max r0.mark mk }
      need (ws.all (fun sw => sw.bytes.all (fun p => decide (p.1 < it.hdr.lNeed)))) fkSTORE_RANGE
      let e7 := ws.foldl (fun (e : Engine) sw => e.putStore 7 12 4 sw) en6
      .ok ((e7.setCore { e7.core with cmp := if comp = 2 then none else some r1 }).stageIt
        (fs.map (fun f => .count (oCMP_DENSE + 8 * f) 1)))

/-! ### MERGE, CLR -/

/-- Read 16 record lines, line `k` in cycle `k` (log 131). -/
def Engine.readLines (free a : Nat) (en : Engine) : List Nat → List Bytes × Nat × Engine
  | [] => ([], 0, en)
  | k :: t =>
    let (b, m, e1) := en.rdAt k free 4 .loam (a + 256 * k) 256
    let (l, m2, e2) := Engine.readLines free a e1 t
    (b :: l, max m m2, e2)

/-- Merge 256 records (R91, R186). -/
def opMerge (w : W64) (s : State) (en : Engine) : Except Nat Engine := do
  need (onlySpans w false [(9, 2), (11, 3), (14, 4)]) fkENCODING
  need (en.unitFree 4) fkENCODING
  let en0 := en.busyTill 4 16
  let (sc, a, c) := en0.core.useAg (fld w 14 4)
  need (decide (sc = 0) && decide (a + 4096 ≤ (s.item en.item).hdr.lNeed)) fkSTORE_RANGE
  let en1 := en0.setCore c
  if (rowsOf a 4096).any (fun r => c.loam.tag r != fLACC) then .ok (en1.stageIt mismatch)
  else
    let (bs, m, en2) := Engine.readLines s.freeCtr a en1 (List.range 16)
    let b := bs.flatten
    let recs := (List.range 256).map (fun i => LRec.ofBytes ((b.drop (16 * i)).take 16))
    let tile := fld w 9 2
    .ok ((en2.setCore (en2.core.poisonTile tile m)).put 18 4 (.merge tile (256 * fld w 11 3) recs))

/-- Clear chains and elements (R188). -/
def opRqClr (w : W64) (_ : State) (en : Engine) : Except Nat Engine := do
  need (onlySpans w false [(9, 2)]) fkENCODING
  need (en.unitFree 4) fkENCODING
  .ok ((en.busyTill 4 1).put 2 4 (.clear (fld w 9 2)))

/-! ### ANP -/

/-- The rule a decision applies: all rows active, certified, or speculative (R366). -/
inductive AnpRule where
  | all
  | certified
  | speculative
  deriving DecidableEq, Repr

def anpRule (v : PredView) (mode : Bool) : AnpRule :=
  let r : AnpRule :=
    if v.mode = 0 then .all
    else if v.mode = 1 then .certified
    else if !mode then .certified
    else if !v.fallen then .speculative
    else if v.fallback = 0 then .certified else .all
  if r = .certified ∧ v.act = 3 then .all else r

/-- The certified test skips a neuron (R367). -/
def certSkip (z : Q) (e x : Nat) : Bool :=
  if lSign e ∨ lSign x then false
  else if lIsZero e ∨ lIsZero x then decide (z.n ≤ 0)
  else
    let lam := lField e + lField x + 1
    if 16383 < lam ∨ lam < -16383 then false
    else
      let g := z.abs
      decide (z.n < 0) && decide (lam ≤ if g.isPow2 then 1024 * Q.floorLog2 g else floorLogScaled 10 g g)

/-- The speculative test (R369). -/
def specSkip (act th : Nat) (z : Q) : Bool :=
  let c := (lOfQ .rne z).code
  if lIsOvf c || lIsOvf th then false
  else decide ((if act = 3 then (if lIsZero c then 0 else lKey (c % 32768)) else lKey c) < lKey th)

/-- An exact value exceeds the audit floor (R370). -/
def overFloor (v : PredView) (z : Q) : Bool :=
  let c := (lOfQ .rne z).code
  if lIsOvf c then decide (v.act = 3 ∨ 0 < z.n)
  else decide (lKey v.floor < (if v.act = 3 then (if lIsZero c then 0 else lKey (c % 32768)) else lKey c))

/-- What one row of one position gives: active, skipped, or audited (none: the draw gave no word). -/
inductive RowDec where
  | active
  | skip
  | audit
  | noWord
  deriving DecidableEq, Repr

def rowDec (rule : AnpRule) (v : PredView) (tileMark : Nat) (x : LEl) (e xn th cbase k : Nat) : RowDec :=
  if x.empty ∨ x.ovr ∨ x.lovf ∨ tileMark ≠ 0 then .active
  else match rule with
    | .all => .active
    | .certified => if certSkip x.val e xn then .skip else .active
    | .speculative =>
      if specSkip v.act th x.val then
        (if 2 ^ 48 ≤ cbase + k / 4 then .noWord
         else if philox v.seed v.stream (cbase + k / 4) (k % 4) / 2 ^ (32 - v.auditLog2) = 0 then .audit else .skip)
      else .active

/-- Bits of the rows that a list names. -/
def rowBitmap (f : Nat → Bool) : Bytes :=
  (List.range 32).map (fun b => BitVec.ofNat 8 (((List.range 8).filter (fun i => f (8 * b + i))).map (2 ^ ·)).sum)

/-- Active-neuron decision or measurement (R187, R364 to R370). -/
def opAnp (w : W64) (s : State) (en : Engine) : Except Nat Engine := do
  let c := en.core
  let it := s.item en.item
  need (onlySpans w true [(9, 2), (11, 4), (15, 4), (19, 1), (20, 5), (25, 10), (35, 4), (39, 5)]) fkENCODING
  need (en.unitFree 4) fkENCODING
  let tile := fld w 9 2
  let t := c.tile tile
  let ah := fld w 25 10
  let p := ah - 960
  let v : PredView := if ah < 960 then ⟨0, false, 3, 1, 6, lZERO, 0, 0⟩ else s.predView it p
  let sth := c.s (fld w 20 5)
  let th := bits sth 0 16
  let cbase := bits sth 16 48
  let en0 := en.busyTill 4 8
  if flag w 19 ∧ th = lOVF then
    match t.audit with
    | some (q, base, ks) =>
      if 960 ≤ ah ∧ q = p then
        let at_ := fun n => ks.filter (fun k => decide (k / 256 = n))
        let miss := fun (l : List Nat) => (l.filter (fun k => (t.el k).empty || overFloor v (t.el k).val)).length
        .ok ((en0.setCore (en0.core.setTile tile { t with audit := none })).stageIt
          (((List.range 8).filter (fun n => !(at_ n).isEmpty)).map (fun n => .audit p ((base + n) % 2 ^ 64) (at_ n).length (miss (at_ n)))))
      else .ok en0
    | none => .ok en0
  else
    let ge := c.g (fld w 11 4)
    let gx := c.g (fld w 15 4)
    need (decide (ge.store.toNat ≤ 1) && decide (gx.store.toNat ≤ 1) && decide ((c.g (fld w 35 4)).store = 0)) fkSTORE_RANGE
    let (_, ae, c1) := en0.core.useAg (fld w 11 4)
    let (_, ax, c2) := c1.useAg (fld w 15 4)
    let (_, ao, c3) := c2.useAg (fld w 35 4)
    let se : StoreId := if ge.store = 0 then .loam else .kaolin
    let sx : StoreId := if gx.store = 0 then .loam else .kaolin
    need (decide (ae + 512 ≤ it.hdr.need se) && decide (ax + 16 ≤ it.hdr.need sx) && decide (ao + 288 ≤ it.hdr.lNeed)) fkSTORE_RANGE
    let (be, _, e1) := (en0.setCore c3).rd s.freeCtr 4 se ae 512
    let (bx, _, e2) := e1.rd s.freeCtr 4 sx ax 16
    let rule := anpRule v (flag w 19)
    let act := fun n => c.pm (fld w 6 3) n
    let decs := (List.range 8).map (fun n => if act n then (List.range 256).map (fun r =>
      rowDec rule v t.mark (t.el (256 * n + r)) (field be (2 * r) 2) (field bx (2 * n) 2) th cbase (256 * n + r)) else [])
    let on := fun n r => act n && decide ((decs.getD n []).getD r .skip ≠ .skip)
    let maps := (List.range 8).flatMap (fun n => rowBitmap (on n)) ++ rowBitmap (fun r => (List.range 8).any (fun n => on n r))
    let lost := decs.any (fun d => d.any (fun x => decide (x = .noWord)))
    let aud := decs.zipIdx.flatMap (fun (d, n) => (d.zipIdx.filter (fun q => decide (q.1 = .audit))).map (fun q => 256 * n + q.2))
    let spec := decide (rule = .speculative)
    let toks := if spec then ((List.range 8).filter act).map (fun n =>
      Staged.skipTok p ((c.s (fld w 39 5) + n) % 2 ^ 64) ((decs.getD n []).any (fun x => decide (x = .skip)))) else []
    let e3 := if spec then e2.setCore (e2.core.setTile tile { e2.core.tile tile with audit := some (p, c.s (fld w 39 5), aud) }) else e2
    let e4 := e3.stageIt (toks ++ (if lost then [.status stSTREAM_COLLISION 0] else []))
    .ok ((rowWrites ao maps fRAW (fun _ => if lost then 3 else 0)).foldl (fun (e : Engine) sw => e.putStore 7 12 4 sw) e4)

def execFold (e : EngId) (w : W64) (s : State) : Host.Outcome State Fault Refusal :=
  .next (s.issueSlot e (.fold e w) w (opFold w))
def execRqCvt (e : EngId) (w : W64) (s : State) : Host.Outcome State Fault Refusal :=
  .next (s.issueSlot e (.rqCvt e w) w (opRqCvt w))
def execMerge (e : EngId) (w : W64) (s : State) : Host.Outcome State Fault Refusal :=
  .next (s.issueSlot e (.merge e w) w (opMerge w))
def execAnp (e : EngId) (w : W64) (s : State) : Host.Outcome State Fault Refusal :=
  .next (s.issueSlot e (.anp e w) w (opAnp w))
/-- The measurement form of ANP: MODE 1 with θ the code 0xC000 (R370). -/
def execAnpMeasurement (e : EngId) (w : W64) (s : State) : Host.Outcome State Fault Refusal :=
  .next (s.issueSlot e (.anpMeasurement e w) w (opAnp w))
def execRqClr (e : EngId) (w : W64) (s : State) : Host.Outcome State Fault Refusal :=
  .next (s.issueSlot e (.rqClr e w) w (opRqClr w))

end Sys2Proof.Machine
end

