-- ==== Sys2Proof/Machine/Tree.lean ====
section
/-! DEFINITION. The canonical tree of a reduction, and additions in floating formats (R82, R179, R216). -/

namespace Sys2Proof.Machine

/-- One level of the pairwise tree over (index, value), ascending; a node without a partner passes up (R216). -/
def treeLevel (op : Nat → Nat → Nat) : List (Nat × Nat) → List (Nat × Nat)
  | (i, a) :: (j, b) :: t =>
    if i / 2 = j / 2 then (i / 2, op a b) :: treeLevel op t else (i / 2, a) :: treeLevel op ((j, b) :: t)
  | [(i, a)] => [(i / 2, a)]
  | [] => []

/-- The canonical tree over values by ascending index; `d` for an empty reduction. -/
def treeOf (op : Nat → Nat → Nat) (d : Nat) : Nat → List (Nat × Nat) → Nat
  | 0, l => (l.map (·.2)).headD d
  | f + 1, l => if l.length ≤ 1 then (l.map (·.2)).headD d else treeOf op d f (treeLevel op l)

/-- Insert by rising index. -/
def insIdx (p : Nat × Nat) : List (Nat × Nat) → List (Nat × Nat)
  | [] => [p]
  | q :: t => if p.1 ≤ q.1 then p :: q :: t else q :: insIdx p t

def sortIdx (l : List (Nat × Nat)) : List (Nat × Nat) := l.foldr insIdx []

/-- Sum L16 codes in the canonical tree by index. -/
def lTree (l : List (Nat × Nat)) : Nat := treeOf (fun a b => (lAdd a b).code) lZERO 64 (sortIdx l)

/-- Number a list from 0. -/
def numbered (l : List Nat) : List (Nat × Nat) := l.zipIdx.map (fun (v, i) => (i, v))

/-- Add two codes of a floating format, rounding to nearest even; infinities and NaNs as usual, and −0 only from two −0. -/
def fAdd (f a b : Nat) : Nat :=
  match floatDecode f a, floatDecode f b with
  | .nan, _ => nanCode f
  | _, .nan => nanCode f
  | .inf x, .inf y => if x = y then overflowCode f x else nanCode f
  | .inf x, _ => overflowCode f x
  | _, .inf y => overflowCode f y
  | .fin p, .fin q =>
    let s := p.add q
    if s.n = 0 ∧ p.n = 0 ∧ bit a (signBit f) ∧ bit b (signBit f) then 2 ^ signBit f else (floatEncode f .rne s).1

/-- Convert between floating formats, or to one from L16, by nearest even (R82, R99). -/
def fConv (f g a : Nat) : Nat :=
  match floatDecode f a with
  | .nan => nanCode g
  | .inf x => overflowCode g x
  | .fin q => if q.n = 0 ∧ bit a (signBit f) then 2 ^ signBit g else (floatEncode g .rne q).1

/-- An L16 code in a floating format; OVF gives NaN (R99). -/
def lToF (f a : Nat) : Nat := if lIsOvf a then nanCode f else (floatEncode f .rne (lToQ a)).1

/-- A floating code in L16; NaN and infinities give OVF (R99). -/
def fToL (f a : Nat) : Nat :=
  match floatDecode f a with
  | .fin q => (lOfQ .rne q).code
  | _ => lOVF

end Sys2Proof.Machine
end

