-- ==== Sys2Proof/Machine/Quad.lean ====
section
/-! DEFINITION. The Quadrille router: QSEND, selection, admission, bundles, returns, merging, deadlines (R334 to R363), and the
predictor's evaluation (R371). -/

namespace Sys2Proof.Machine

/-- Add a token to a counter of an engine of a work item (R129, R132). -/
def State.addToken (s : State) (e tk n : Nat) : State :=
  let en := s.engine e
  let add := fun (c : Core) =>
    let (v, sat) := tkAdd (SMap.get c.tk tk 0) n
    { c with tk := SMap.put c.tk tk v, tkSat := if sat ∧ !(c.tkSat.contains tk) then tk :: c.tkSat else c.tkSat }
  if n = 0 then s else s.setEngine e { en with core := add en.core, snap := add en.snap }

/-! ### The layer record (R335, R336) -/

def Inst.experts (x : Inst) : Nat := field x.lrec 0x00 2
def Inst.base (x : Inst) : Nat := field x.lrec 0x02 2
def Inst.capacity (x : Inst) : Nat := field x.lrec 0x04 2
def Inst.kmin (x : Inst) : Nat := field x.lrec 0x06 1
def Inst.kmax (x : Inst) : Nat := field x.lrec 0x07 1
def Inst.tau (x : Inst) : Nat := field x.lrec 0x08 2
def Inst.renorm (x : Inst) : Bool := bit (field x.lrec 0x0A 1) 0
def Inst.bf16 (x : Inst) : Bool := bit (field x.lrec 0x0A 1) 1
def Inst.rtk (x : Inst) : Nat := field x.lrec 0x0B 1 % 32
def Inst.deadlineUs (x : Inst) : Nat := let d := field x.lrec 0x0C 4; if d = 0 then 2000 else d
def Inst.emap (x : Inst) : Nat := field x.lrec 0x10 8
def Inst.xdpa (x : Inst) : Nat := field x.lrec 0x18 8
def Inst.hidden (x : Inst) : Nat := field x.lrec 0x20 2
def Inst.pred (x : Inst) : Nat := field x.lrec 0x22 1
def Inst.nw (x : Inst) : Nat := field x.lrec 0x23 1
def Inst.mergeLoam (x : Inst) : Nat := field x.lrec 0x24 4
/-- Bytes of an input row (R339). -/
def Inst.xrow (x : Inst) : Nat := 32 * ceilDiv (x.hidden + x.hidden / 32) 32
/-- Bytes of a merged row (R355). -/
def Inst.mrow (x : Inst) : Nat := 256 * ceilDiv ((if x.bf16 then 2 else 4) * x.hidden) 256

/-! ### Return buffers (R353, R361) -/

/-- Bytes of a return: its record, rounded up to 32 bytes. -/
def retSize (h : Nat) : Nat := 32 * ceilDiv (16 + 2 * h) 32

/-- The buffer of a pair of an instance. -/
def Inst.buf (x : Inst) (tok gid : Nat) : RetBuf := ⟨x.handle, x.step, x.epoch, x.layer, tok, gid, retSize x.hidden⟩

/-- A buffer is released. -/
def State.freeBuf (s : State) (b : RetBuf) : State := { s with rbufs := s.rbufs.erase b }

/-- Reserve the buffers of pairs, where the reserved memory holds them all: it has room for at least one return of a row of 16,384 codes
(log 63). -/
def State.reserve (s : State) (l : List RetBuf) : Option State :=
  if s.hasStack && decide (((s.rbufs ++ l).map (·.size)).sum ≤ retSize 16384 + Config.returnSpace) then
    some { s with rbufs := s.rbufs ++ l }
  else none

/-- An SSQ of OVF in a return raises the overflow condition (R354). -/
def State.ssqOver (s : State) (x : Inst) (ssq : Nat) : State :=
  if !lIsOvf ssq then s
  else
    let w := s.item x.item
    let i := x.nw
    if w.normOver.contains i then s else s.setItem x.item { w with normOver := w.normOver ++ [i] }

/-- What a return that counts does to its work item (R354, R356, R371, R374): its status, its overflow, its audit counts where the step's
decisions are speculative, its skip. -/
def State.noteReturn (s : State) (x : Inst) (p : QPair) : State :=
  let st := if statusOrder.contains p.status then p.status else stINTERNAL
  let s1 := (s.addStatus x.item st 0).ssqOver x p.ssq
  let w := s1.item x.item
  let spec := (x.view.map (fun v => decide (v.mode = 2) && !v.fallen)).getD false
  let w1 := if spec then { w with audits := w.audits ++ [(x.pred, p.tok, p.aud, p.miss)], retPairs := x.pred :: w.retPairs } else w
  s1.setItem x.item (if bit p.flags 0 ∨ p.status = stDEGRADED then { w1 with skips := w1.skips ++ [(64, p.tok, true)] } else w1)

/-- An instance closes: the returns it holds have counted, but for those of this tick where the batch epoch advances in it, which are stale
(R361, R362); their buffers are released. -/
def State.dropReturns (s : State) (x : Inst) (epoch : Bool) : State :=
  (x.pairs.filter (fun p => decide (p.st = .returned))).foldl (fun s p =>
    let s1 := s.freeBuf (x.buf p.tok p.gid)
    if epoch ∧ p.at_ = s.pav then s1.count 0xA0030 1 else s1.noteReturn x p) s

/-- Close an instance: its counts stay for the routing report (R334, R363). -/
def State.closeInst (s : State) (k : Nat) (epoch : Bool := false) : State :=
  match SMap.find? s.insts k with
  | none => s
  | some x =>
    let s1 : State := { s.dropReturns x epoch with insts := SMap.erase s.insts k }
    match SMap.find? s1.items x.item with
    | none => s1
    | some w => s1.setItem x.item { w with report := w.report ++ [(x.layer, x.selected, x.ovr, x.unr, x.tmo, x.skipped)] }

/-- Close every instance that satisfies a test. -/
def State.closeInsts (s : State) (p : Inst → Bool) (epoch : Bool := false) : State :=
  (s.insts.filter (fun kv => p kv.2)).foldl (fun s kv => s.closeInst kv.1 epoch) s

/-! ### QSEND (R338, R340, R341) -/

/-- Open instances, and those of work other than TC0 (R334). -/
def State.instFree (s : State) (tc : Nat) : Bool :=
  let n := s.insts.length
  let lower := (s.insts.filter (fun kv => kv.2.tc != 0)).length
  decide (n < 256) && (decide (tc = 0) || decide (lower < 256 - min 128 (s.getField 0xA0000 8 8)))

/-- The open instance of a work item's step and layer. -/
def State.instOf (s : State) (item layer : Nat) : Option Nat :=
  (s.insts.find? (fun kv => kv.2.item == item && kv.2.layer == layer)).map (·.1)

/-- The channel handle of a channel of this module (R439). -/
def State.handleOf (s : State) (ch : Nat) : Nat := ch + 2 ^ 12 * s.self + 2 ^ 24 * (s.chan ch).gen

/-- Refuse a QSEND whole (R338). -/
def State.qsendRange (s : State) (item : Nat) : State :=
  (s.raise 0x8003 0 (some (s.item item).tenant) []).stopItem item stTENANT_FAULT 0x8003

/-- L16 codes of a score row. -/
def codes2 : Nat → Bytes → List Nat
  | 0, _ => []
  | n + 1, b => field b 0 2 :: codes2 n (b.drop 2)

/-- Read the score rows of a QSEND into an instance; whether a row lacks the tag L16. -/
def State.readScores (s : State) (k e a srow t experts : Nat) : Nat → State × Bool × Nat
  | 0 => (s, false, 0)
  | n + 1 =>
    let en := s.engine e
    if (rowsOf a srow).any (fun r => en.snap.loam.tag r != fL16) then (s, true, 0)
    else
      let (u, s1) := s.extRead e srcDma .loam a (srow / 32)
      let c := codes2 experts (u.flatMap (·.1))
      let m := u.foldl (fun m p => max m p.2) 0
      let x := SMap.find? s1.insts k
      let s2 := match x with
        | none => s1
        | some x => { s1 with insts := SMap.set s1.insts k { x with scores := SMap.set x.scores t c } }
      let (s3, b, m2) := State.readScores s2 k e (a + srow) srow (t + 1) experts n
      (s3, b, max m m2)

/-- Join an open instance: read the scores, then add the completion token (R202, R338). -/
def State.qsendJoin (s : State) (k : Nat) (q : UnitReq) : State :=
  match SMap.find? s.insts k with
  | none => s
  | some x =>
    let n := q.x1.toNat
    let t0 := q.x3.toNat
    let srow := 256 * ceilDiv (2 * x.experts) 256
    let w := s.item q.item
    if x.parts.any (fun p => decide (p.t0 < t0 + n ∧ t0 < p.t0 + p.n)) then s.qsendRange q.item
    else if w.hdr.lNeed < q.x0.toNat + n * srow then s.progFault q.eng fkSTORE_RANGE
    else
      let s0 : State := { s with insts := SMap.set s.insts k { x with parts := x.parts ++ [⟨(s.engine q.eng).logical, t0, n, []⟩] } }
      let (s1, bad, m) := s0.readScores k q.eng q.x0.toNat srow t0 x.experts n
      if bad then (s1.raise 0x2004 0 (some w.tenant) []).stopItem q.item stFORMAT_MISMATCH 0x2004
      else
        let ovf := ((SMap.get s1.insts k x).scores.filter (fun kv => decide (t0 ≤ kv.1 ∧ kv.1 < t0 + n))).map (fun kv => (kv.2.filter lIsOvf).length)
        ((s1.noteMark q.item m 0x3100).count 0xA0040 ovf.sum).addToken q.eng q.tk q.inc

/-- Open the instance of a QSEND (R334): the layer record is read from the routing table. -/
def State.qsendOpen (s : State) (q : UnitReq) : Nat × State :=
  let w := s.item q.item
  let layer := q.x2.toNat
  let (lr, m, s2) := s.memRead (w.routing + 64 + 64 * layer) 64 1
  let x : Inst := { chan := w.chan, item := q.item, tenant := w.tenant, tc := w.tc, handle := s.handleOf w.chan, step := w.step,
                    layer := layer, epoch := (s.chan w.chan).epoch, lrec := lr, tokens := w.stepTokens, opened := s.pav }
  (s2.nextInst, (({ s2 with insts := SMap.set s2.insts s2.nextInst x, nextInst := s2.nextInst + 1 } : State).noteMark q.item m 0x3000))

/-- What the router's reads of the routing table for a QSEND meet in reloadable granules (R540). -/
def State.qsendGate (s : State) (q : UnitReq) : ReadGate :=
  s.readGate (s.failFast q.item) ((s.item q.item).routing + 64 + 64 * q.x2.toNat) 64

/-- Open the instance of a QSEND and join it, unless its read of the layer record is refused (R305, R540). -/
def State.qsendFirst (s : State) (q : UnitReq) : State :=
  let w := s.item q.item
  if s.qsendGate q = .refuse then s.refuseRead q.item
  else if !s.mayRead w.tenant (w.routing + 64 + 64 * q.x2.toNat) 64 then s.stopItem q.item stADDR_RANGE 0
  else let (k, s1) := s.qsendOpen q; s1.qsendJoin k q

/-- Whether the routing table lets a QSEND open its instance now, or be refused. -/
def State.qsendDue (s : State) (q : UnitReq) : Bool := s.qsendGate q == .go || s.qsendGate q == .refuse

/-- A waiting QSEND can go: its instance is open, or can open now. -/
def State.qsendReady (s : State) (q : UnitReq) : Bool :=
  (s.instOf q.item q.x2.toNat).isSome || (s.instFree (s.item q.item).tc && s.qsendDue q)

/-- Of waiting QSENDs that can go the one whose turn it is (R25): TC0 first, then the classes by their shares of the router's input, within a
class in order of arrival. -/
def State.qNext (s : State) : Option UnitReq :=
  let l := s.qwait.filter s.qsendReady
  let key := fun (q : UnitReq) =>
    let c := (s.item q.item).tc
    if c = 0 then 0 else 1 + 8 * (SMap.get s.netWrr (256 + c) 0 * (if c = 1 then 1 else if c = 2 then 4 else 8)) + c
  l.foldl (fun best q => match best with | none => some q | some b => if key q < key b then some q else some b) none

/-- A waiting QSEND leaves the router's input: it joins its instance, or opens it. -/
def State.qTake (s : State) (q : UnitReq) : State :=
  let c := (s.item q.item).tc
  let s1 : State := { s with qwait := s.qwait.erase q, netWrr := SMap.set s.netWrr (256 + c) (SMap.get s.netWrr (256 + c) 0 + 1) }
  match s1.instOf q.item q.x2.toNat with
  | some k => s1.qsendJoin k q
  | none => s1.qsendFirst q

/-- What R338 asks of a QSEND before its instance is looked for. -/
def WorkItem.qsendOk (w : WorkItem) (x0 x1 x2 x3 : W64) : Bool :=
  decide (w.routing ≠ 0) && decide (x2.toNat < w.experts.length) && decide (1 ≤ x1.toNat ∧ x1.toNat ≤ 256) && decide (x0.toNat % 256 = 0)
    && decide (x3.toNat + x1.toNat ≤ w.stepTokens)

/-- A QSEND reaches the router (R334, R338): refused whole, joined to its instance, opening one, or waiting. -/
def State.qsendGo (s : State) (q : UnitReq) : State :=
  let w := s.item q.item
  if !w.qsendOk q.x0 q.x1 q.x2 q.x3 ∨ ((s.instOf q.item q.x2.toNat).isNone ∧ w.report.any (fun r => r.1 == q.x2.toNat)) then s.qsendRange q.item
  else
    let s1 : State := { s with qwait := s.qwait ++ [q] }
    if s1.qNext = some q then s1.qTake q else s1

/-- INSTANCE_OPEN (R334): the waiting QSEND whose turn it is opens its instance, or joins the one opened meanwhile. -/
def execInstanceOpen (s : State) : Host.Outcome State Fault Refusal :=
  match s.qNext with
  | none => .next s
  | some q => .next (s.qTake q)

/-! ### Selection and admission (R340 to R345) -/

/-- Order of scores: descending by value; equal values keep their order (R340). -/
def insDesc (key : Nat × Nat → Int) (p : Nat × Nat) : List (Nat × Nat) → List (Nat × Nat)
  | [] => [p]
  | q :: t => if key q < key p then p :: q :: t else q :: insDesc key p t

/-- Candidates of a token in order: score descending, global ID ascending. -/
def candidates (base : Nat) (scores : List Nat) : List (Nat × Nat) :=
  let c := (scores.zipIdx.filter (fun (s, _) => !lIsOvf s)).map (fun (s, e) => (s, base + e))
  c.foldl (fun l p => insDesc (fun q => lKey q.1) p l) []

/-- The experts a token selects (R340). -/
def selectExperts (base tau kmin kmax : Nat) (scores : List Nat) : List (Nat × Nat) :=
  let cand := candidates base scores
  let sel := cand.filter (fun c => decide (lKey tau ≤ lKey c.1))
  let sel1 := if sel.length < kmin then cand.take kmin else sel
  sel1.take kmax

/-- Insert a pair by score descending, keeping the order of tokens and IDs for equal scores (R342). -/
def insPair (p : Nat × Nat × Nat) : List (Nat × Nat × Nat) → List (Nat × Nat × Nat)
  | [] => [p]
  | q :: t => if lKey q.1 < lKey p.1 then p :: q :: t else q :: insPair p t

/-- Admit up to the capacity of each expert (R342): admitted pairs and the number dropped. -/
def admitPairs (cap : Nat) : List (Nat × Nat × Nat) → SMap Nat → List (Nat × Nat × Nat) × Nat
  | [], _ => ([], 0)
  | (s, t, id) :: l, cnt =>
    let n := SMap.get cnt id 0
    if n < cap then let (a, d) := admitPairs cap l (SMap.set cnt id (n + 1)); ((s, t, id) :: a, d)
    else let (a, d) := admitPairs cap l cnt; (a, d + 1)

/-- The gate weight of a pair among its token's admitted pairs (R344). -/
def gateWeight (renorm : Bool) (score : Nat) (all : List (Nat × Nat)) : Nat :=
  if renorm then (lDiv score (lTree (numbered ((sortIdx all).map (·.2))))).code else score

/-- Read map entries through the Marl port (R345); whether one is invalid. -/
def State.mapEntries (s : State) (item emap : Nat) : List Nat → SMap Nat × Bool × State
  | [] => ([], false, s)
  | g :: t =>
    let (b, m, s0) := s.marlRead (emap + 8 * g)
    let s1 := s0.noteMark item m 0x3000
    let v := field b ((emap + 8 * g) % 32) 8
    let bad := bits v 42 22 ≠ 0 ∨ (!bit v 20 ∧ !bit v 41)
    let (l, bad2, s2) := State.mapEntries s1 item emap t
    (SMap.set l g v, decide bad || bad2, s2)

/-- Distinct numbers of a list. -/
def dedup : List Nat → List Nat
  | [] => []
  | a :: t => if t.contains a then dedup t else a :: dedup t

/-- What an instance selects and admits (R340 to R342): admitted triples of score, token and ID, the number dropped, and the number
selected. -/
def Inst.choose (x : Inst) : List (Nat × Nat × Nat) × Nat × Nat :=
  let sel := x.scores.flatMap (fun (t, sc) =>
    (selectExperts x.base x.tau x.kmin x.kmax sc).map (fun (v, id) => (v, t, id)))
  -- ascending by token, then ID, before the stable sort by score
  let pre := x.scores.flatMap (fun (t, _) => (sortIdx ((sel.filter (fun p => p.2.1 == t)).map (fun p => (p.2.2, p.1)))).map
    (fun (id, v) => (v, t, id)))
  let (adm, drop) := admitPairs x.capacity (pre.foldl (fun l p => insPair p l) []) []
  (adm, drop, sel.length)

/-- ADMISSION (R342): an instance that holds every token's scores selects, admits and weighs its pairs. -/
def execAdmission (inst : Nat) (s : State) : Host.Outcome State Fault Refusal :=
  match SMap.find? s.insts inst with
  | none => .next s
  | some x =>
    if x.admitted ∨ x.scores.length < x.tokens then .next s
    else
      let (adm, drop, n) := x.choose
      let gids := dedup (adm.map (fun p => p.2.2))
      let fast := s.failFast x.item
      let gates := gids.map (fun g => s.readGate fast (x.emap + 8 * g) 8)
      if gates.any (fun g => decide (g = ReadGate.refuse)) then .next (s.refuseRead x.item)
      else if gates.any (fun g => decide (g ≠ ReadGate.go)) then .next s
      else if gids.any (fun g => !s.mayRead x.tenant (x.emap + 8 * g) 8) then .next (s.stopItem x.item stADDR_RANGE 0)
      else
        let (m, bad, s2) := s.mapEntries x.item x.emap gids
        if bad then .next ((s2.raise 0x8005 0 (some x.tenant) []).stopItem x.item stDESC_INVALID 0x8005)
        else
          let pairs : List QPair := adm.map (fun (v, t, id) =>
            { tok := t, gid := id, score := v,
              w := gateWeight x.renorm v ((adm.filter (fun p => p.2.1 == t)).map (fun p => (p.2.2, p.1))),
              entry := SMap.get m id 0 })
          .next ({ s2.count 0xA0018 drop with
            insts := SMap.set s2.insts inst { x with
              admitted := true, pairs := pairs, selected := n, ovr := drop,
              view := if x.pred = 0xFF then none else some (SMap.get s.preds (x.chan * 64 + x.pred) {}) } })

/-! ### Bundles (R346 to R353) -/

def locA (v : Nat) : Nat × Nat := (64 * bits v 0 6 + bits v 6 6, bits v 12 8)
def locB (v : Nat) : Nat × Nat := (64 * bits v 21 6 + bits v 27 6, bits v 33 8)

/-- The ingress module that traffic for another rack takes (R348): the primary, else the alternate; none where neither has a
route. -/
def State.ingress (s : State) (r flow : Nat) : Option (Nat × Bool) :=
  let v := s.reg (0xA0100 + 8 * r)
  let p := bits v.toNat 0 6
  let a := bits v.toNat 7 6
  if bit v.toNat 6 && s.routeTo (64 * r + p) flow then some (p, false)
  else if bit v.toNat 13 && s.routeTo (64 * r + a) flow then some (a, true)
  else none

/-- Whether a location is reachable for a bundle's flow (R346). -/
def State.locReach (s : State) (flow d : Nat) : Bool :=
  if d / 64 = s.rack then s.routeLocal (d % 64) flow
  else match s.ingress (d / 64) flow with
    | some (m, _) => !s.tables.view.cutOff (64 * (d / 64) + m) (d % 64) flow
    | none => false

/-- Location of a pair when its bundle is formed: destination, slot, whether B stands in for an unreachable A. -/
def State.chooseLoc (s : State) (flow v : Nat) : Option (Nat × Nat × Bool) :=
  if bit v 20 && s.locReach flow (locA v).1 then some ((locA v).1, (locA v).2, false)
  else if bit v 41 && s.locReach flow (locB v).1 then some ((locB v).1, (locB v).2, bit v 20)
  else none

/-- PMODE of a layer's predictor (R373). -/
def pmodeOf (x : Pred) : Nat :=
  if x.mode = 0 then 0 else if x.mode = 1 then 1 else if !x.fallen then 2 else if x.fallback = 0 then 1 else 3

/-- The 64-byte header of a bundle or return message (R350). -/
def bundleHdr (kind : Nat) (x : Inst) (origin deadline count : Nat) (p : Option Pred) : Bytes :=
  let pr : Pred := p.getD {}
  leBytes 2 0x5142 ++ leBytes 1 kind ++ leBytes 1 x.tc ++ leBytes 4 x.handle ++ leBytes 8 x.step ++ leBytes 4 x.epoch
    ++ leBytes 1 x.layer ++ leBytes 1 x.tenant ++ leBytes 2 origin ++ leBytes 8 deadline ++ leBytes 2 count ++ leBytes 2 x.hidden
    ++ leBytes 1 (if p.isSome then pmodeOf pr + 4 * pr.act + 16 * pr.auditLog2 else 0)
    ++ leBytes 1 (if kind = 1 then x.pred else 0) ++ leBytes 2 (if p.isSome then pr.floor else 0)
    ++ leBytes 8 (if p.isSome then pr.seed else 0) ++ leBytes 16 0

/-- A module address as the SRC, DST and ORIGIN fields hold it (R350, R393). -/
def modField (d : Nat) : Nat := d % 64 + 64 * (d / 64)

/-- Read the input rows of pairs: records with their rows. -/
def State.pairRecords (s : State) (x : Inst) : List QPair → Bytes × Nat × State
  | [] => ([], 0, s)
  | p :: t =>
    let (b, m, s1) := s.memRead (x.xdpa + p.tok * x.xrow) x.xrow 0
    let r := leBytes 4 p.tok ++ leBytes 2 p.gid ++ leBytes 1 p.slot ++ leBytes 1 (p.dest % 64) ++ b
    let (rs, m2, s2) := State.pairRecords s1 x t
    (r ++ rs, max m m2, s2)

/-- Cut a list into parts of a length. -/
def cutList {α : Type} (per : Nat) : Nat → List α → List (List α)
  | 0, _ => []
  | f + 1, l => if l.isEmpty then [] else l.take per :: cutList per f (l.drop per)

/-- The flow of an instance's bundles. -/
def Inst.flow (x : Inst) : Nat := x.handle % 65536

/-- Insert a pair by ascending token index, then expert: eight positions make a group (R351). -/
def insJobPair (p : JobPair) : List JobPair → List JobPair
  | [] => [p]
  | q :: t => if p.tok < q.tok ∨ (p.tok = q.tok ∧ p.gid < q.gid) then p :: q :: t else q :: insJobPair p t

/-- Add pairs to the expert work of one instance and slot (R351). -/
def State.addJob (s : State) (hdr : Bytes) (slot origin : Nat) (p : JobPair) : State :=
  match s.jobs.find? (fun kv => decide (kv.2.slot = slot ∧ kv.2.origin = origin ∧ kv.2.item = none) &&
      (kv.2.hdr.take 0x18 == hdr.take 0x18)) with
  | some (k, j) => { s with jobs := SMap.set s.jobs k { j with pairs := insJobPair p j.pairs } }
  | none => { s with jobs := SMap.set s.jobs s.nextJob ⟨hdr, slot, origin, [p], none⟩, nextJob := s.nextJob + 1 }

/-- A return of a pair reaches its instance (R352, R357, R361): stale, or kept in its buffer. -/
def State.takeReturn (s : State) (k tok gid status flags ssq aud miss : Nat) (row : List Nat) : State :=
  match SMap.find? s.insts k with
  | none => s.count 0xA0030 1
  | some x =>
    let mine := fun (p : QPair) => decide (p.tok = tok ∧ p.gid = gid)
    let late := match x.deadline with | some d => decide (d + (s.thr - x.thr0) < s.pav) | none => false
    if !(x.pairs.any (fun p => mine p && decide (p.st = .sent))) || late then
      (if x.pairs.any (fun p => mine p && decide (p.st = .returned)) then s else s.freeBuf (x.buf tok gid)).count 0xA0030 1
    else
      let ps := x.pairs.map (fun p => if mine p then
        { p with st := PairSt.returned, row := row, status := status, flags := flags, ssq := ssq, aud := aud, miss := miss, at_ := s.pav } else p)
      { s with insts := SMap.set s.insts k { x with pairs := ps } }

/-- A slot runs pairs of a tenant; a module without a stack refuses every slot entry (R301, R351). -/
def State.slotOk (s : State) (tenant slot : Nat) : Bool :=
  match SMap.find? s.slots slot with
  | some e => decide (e.tenant = tenant) && s.hasStack
  | none => false

/-- BUNDLE_SEND (R346 to R353): the unsent pairs of an instance for one destination leave; pairs without a reachable location
are dropped. -/
def execBundleSend (inst dest : Nat) (s : State) : Host.Outcome State Fault Refusal :=
  match SMap.find? s.insts inst with
  | none => .next s
  | some x =>
    let me := 64 * s.rack + s.self
    let chosen := (x.pairs.filter (fun p => p.st == .admitted)).map (fun p => (p, s.chooseLoc x.flow p.entry))
    let lost := (chosen.filter (fun c => c.2.isNone)).map (fun c => c.1)
    let key := fun (d : Nat) => if d / 64 = s.rack then d else d / 64 * 64
    let go := (chosen.filterMap (fun (p, l) => match l with
      | some (d, sl, b) => if key d = key dest then some ({ p with dest := d, slot := sl, st := PairSt.sent }, b) else none
      | none => none))
    let gates := go.map (fun g => s.readGate (s.failFast x.item) (x.xdpa + g.1.tok * x.xrow) x.xrow)
    if !x.admitted ∨ (go.isEmpty ∧ lost.isEmpty) then .next s
    else if gates.any (fun g => g == .refuse) then .next (s.refuseRead x.item)
    else if gates.any (fun g => g != .go) then .next s
    else if go.any (fun g => !s.mayRead x.tenant (x.xdpa + g.1.tok * x.xrow) x.xrow) then .next (s.stopItem x.item stADDR_RANGE 0)
    else match (if key dest = me then some s else s.reserve (go.map (fun g => x.buf g.1.tok g.1.gid))) with
    | none => .next s
    | some s =>
      let w := s.item x.item
      let anyB := go.any (fun g => g.2)
      let alt := decide (dest / 64 ≠ s.rack) && (match s.ingress (dest / 64) x.flow with | some (_, a) => a | none => false)
      let upd := x.pairs.map (fun p =>
        match go.find? (fun g => g.1.tok == p.tok && g.1.gid == p.gid) with
        | some (q, _) => q
        | none => if lost.any (fun q => q.tok == p.tok && q.gid == p.gid) then { p with st := PairSt.unreachable } else p)
      let dl := match x.deadline with
        | some d => some d
        | none => if go.isEmpty ∨ key dest = me then none else some (s.pav + 1000 * x.deadlineUs)
      let x1 := { x with pairs := upd, deadline := dl, thr0 := if x.deadline.isNone then s.thr else x.thr0, unr := x.unr + lost.length }
      let s1 : State := { s with insts := SMap.set s.insts inst x1 }
      let s2 := s1.setItem x.item { w with rerouted := w.rerouted || anyB || alt || s.rerouted dest x.flow }
      let s3 := ((s2.count 0xA0038 (if alt then go.length else (go.filter (fun g => g.2)).length)).count 0xA0010 go.length)
      let s4 := if lost.isEmpty then s3
        else ((s3.count 0xA0020 lost.length).raise 0x8001 0 (some x.tenant) []).addStatus x.item stFABRIC_UNREACHABLE 0x8001
      let pr := x.view
      let ps := go.map (fun g => g.1)
      if key dest = me then
        let h := bundleHdr 1 x1 (modField me) (dl.getD 0) ps.length pr
        .next (ps.foldl (fun s p =>
          if s.slotOk x.tenant p.slot then
            let (b, m, s') := s.memRead (x.xdpa + p.tok * x.xrow) x.xrow 0
            (s'.noteMark x.item m 0x3000).addJob h p.slot me ⟨p.tok, p.gid, b⟩
          else (s.raise 0x8002 0 (some x.tenant) []).takeReturn inst p.tok p.gid stTENANT_FAULT 0 lZERO 0 0
            (List.replicate x.hidden 0)) s4)
      else
        let goal := if dest / 64 = s.rack then dest
          else dest / 64 * 64 + (match s.ingress (dest / 64) x.flow with | some (m, _) => m | none => 0)
        let per := max 1 ((65536 - 64) / (8 + x.xrow))
        .next ((cutList per (ps.length + 1) ps).foldl (fun s c =>
          let (b, m, s') := s.pairRecords x c
          (s'.noteMark x.item m 0x3000).send
            ⟨1, x.tc, goal, x.flow, x.tenant, bundleHdr 1 x1 (modField me) (dl.getD 0) c.length pr ++ b⟩) s4)

/-- A fabric management message with a code in its first byte. -/
def Msg.isMgmt (m : Msg) (code : Nat) : Bool := m.kind == 8 && decide (field m.body 0 1 = code)

/-- Take the first message of a kind that satisfies a test out of the inbox. -/
def State.takeMsg (s : State) (p : Msg → Bool) : Option (Msg × State) :=
  match s.inbox.find? p with
  | none => none
  | some m => some (m, { s with inbox := s.inbox.erase m })

/-- Cut the pair records of a bundle message. -/
def bundleRecords (xrow : Nat) : Nat → Bytes → List (Nat × Nat × Nat × Nat × Bytes)
  | 0, _ => []
  | n + 1, b => (field b 0 4, field b 4 2, field b 6 1, field b 7 1 % 64, (b.drop 8).take xrow) :: bundleRecords xrow n (b.drop (8 + xrow))

/-- The record of a return (R352). -/
def returnRec (tok gid status flags ssq aud miss h : Nat) (row : Bytes) : Bytes :=
  leBytes 4 tok ++ leBytes 2 gid ++ leBytes 1 status ++ leBytes 1 flags ++ leBytes 2 ssq ++ leBytes 2 aud ++ leBytes 2 miss
    ++ leBytes 2 0 ++ padTo (32 * ceilDiv (16 + 2 * h) 32 - 16) row

/-- The header of a return message: the bundle's, with KIND 2, its count, and its predictor fields 0 (R350). -/
def returnHdr (h : Bytes) (count : Nat) : Bytes :=
  h.take 2 ++ leBytes 1 2 ++ (h.drop 3).take 0x1D ++ leBytes 2 count ++ (h.drop 0x22).take 2 ++ List.replicate 28 0

/-- Send returns toward their origin (R352): one by one within the rack, else bundled to the origin rack's ingress module. -/
def State.sendReturns (s : State) (hdr : Bytes) (origin : Nat) (rs : List Bytes) : State :=
  let tc := field hdr 3 1 % 4
  let flow := field hdr 4 2
  let far := decide (origin / 64 ≠ s.rack)
  let goal := if far then origin / 64 * 64 + (match s.ingress (origin / 64) flow with | some (m, _) => m | none => 0) else origin
  let per := if far then max 1 ((65536 - 64) / retSize (field hdr 0x22 2)) else 1
  (cutList per (rs.length + 1) rs).foldl (fun s c =>
    s.send ⟨2, tc, goal, flow, field hdr 0x15 1 % 64, returnHdr hdr c.length ++ c.flatten⟩) s

/-- The instance that a return's header names (R361). -/
def State.instByHdr (s : State) (h : Bytes) : Option Nat :=
  (s.insts.find? (fun kv => decide (kv.2.handle = field h 4 4 ∧ kv.2.step = field h 8 8 ∧ kv.2.epoch = field h 0x10 4 ∧
    kv.2.layer = field h 0x14 1))).map (·.1)

/-- What comes back for a pair (R352). -/
structure RetVal where
  tok : Nat
  gid : Nat
  status : Nat
  flags : Nat := 0
  ssq : Nat := lZERO
  aud : Nat := 0
  miss : Nat := 0
  row : Bytes
  deriving DecidableEq, Repr

/-- A pair that was not run, or whose work failed: a row of zeros (R351, R356). -/
def RetVal.fail (hdr : Bytes) (p : JobPair) (st : Nat) : RetVal := { tok := p.tok, gid := p.gid, status := st, row := leBytes (2 * field hdr 0x22 2) 0 }

/-- A return that no instance of this module matches is stale; its buffer is released (R361). -/
def State.staleReturn (s : State) (hdr : Bytes) (tok gid : Nat) : State :=
  (s.freeBuf ⟨field hdr 4 4, field hdr 8 8, field hdr 0x10 4, field hdr 0x14 1, tok, gid, retSize (field hdr 0x22 2)⟩).count 0xA0030 1

/-- Deliver returns of pairs: to this module's instance, or towards their origin. -/
def State.giveReturns (s : State) (hdr : Bytes) (origin : Nat) (l : List RetVal) : State :=
  let h := field hdr 0x22 2
  if origin = 64 * s.rack + s.self then
    l.foldl (fun s r => match s.instByHdr hdr with
      | none => s.staleReturn hdr r.tok r.gid
      | some k => s.takeReturn k r.tok r.gid r.status r.flags r.ssq r.aud r.miss (codes2 h r.row)) s
  else s.sendReturns hdr origin (l.map (fun r => returnRec r.tok r.gid r.status r.flags r.ssq r.aud r.miss h r.row))

/-- BUNDLE_ARRIVAL (R349, R351): a bundle delivered by the transport; parts for other modules of the rack go on, pairs for this
module are queued or refused. -/
def execBundleArrival (s : State) : Host.Outcome State Fault Refusal :=
  match s.takeMsg (fun m => m.kind == 1) with
  | none => .next s
  | some (m, s0) =>
    let hdr := m.body.take 64
    let h := field hdr 0x22 2
    let xrow := 32 * ceilDiv (h + h / 32) 32
    let origin := field hdr 0x16 2 % 4096
    let tenant := field hdr 0x15 1 % 64
    let recs := bundleRecords xrow (field hdr 0x20 2) (m.body.drop 64)
    let mine := recs.filter (fun r => r.2.2.2.1 == s0.self)
    let others := dedup ((recs.filter (fun r => r.2.2.2.1 != s0.self)).map (fun r => r.2.2.2.1))
    let s1 := others.foldl (fun s d =>
      let part := recs.filter (fun r => r.2.2.2.1 == d)
      let body := part.flatMap (fun (t, g, sl, dm, b) => leBytes 4 t ++ leBytes 2 g ++ leBytes 1 sl ++ leBytes 1 dm ++ b)
      s.send ⟨1, m.tc, 64 * s.rack + d, m.flow, m.tenant, hdr.take 0x20 ++ leBytes 2 part.length ++ hdr.drop 0x22 ++ body⟩) s0
    let s2 := (mine.filter (fun r => s1.slotOk tenant r.2.2.1)).foldl (fun s (t, g, sl, _, b) => s.addJob hdr sl origin ⟨t, g, b⟩) s1
    let other := fun (sl : Nat) => match SMap.find? s1.slots sl with | some e => decide (e.tenant ≠ tenant) | none => false
    let s3 : State := { s2 with tenantDrop := s2.tenantDrop + (mine.filter (fun r => other r.2.2.1)).length }
    let no := (mine.filter (fun r => !s1.slotOk tenant r.2.2.1)).map (fun r => RetVal.fail hdr ⟨r.1, r.2.1, []⟩ stTENANT_FAULT)
    .next ((no.foldl (fun s _ => s.raise 0x8002 0 (some tenant) []) s3).giveReturns hdr origin no)

/-- Cut the records of a return message. -/
def returnRecords (size : Nat) : Nat → Bytes → List Bytes
  | 0, _ => []
  | n + 1, b => b.take size :: returnRecords size n (b.drop size)

/-- RETURN_ARRIVAL (R352, R361): a return message for this origin. -/
def execReturnArrival (s : State) : Host.Outcome State Fault Refusal :=
  let me := 64 * s.rack + s.self
  match s.takeMsg (fun m => m.kind == 2 && decide (field m.body 0x16 2 % 4096 = me)) with
  | none => .next s
  | some (m, s0) =>
    let h := field m.body 0x22 2
    let recs := returnRecords (retSize h) (field m.body 0x20 2) (m.body.drop 64)
    .next (recs.foldl (fun s r =>
      match s.instByHdr m.body with
      | none => s.staleReturn m.body (field r 0 4) (field r 4 2)
      | some k => s.takeReturn k (field r 0 4) (field r 4 2) (field r 6 1) (field r 7 1) (field r 8 2) (field r 10 2) (field r 12 2)
          (codes2 h (r.drop 16))) s0)

/-- RETURN_BUNDLE_ARRIVAL (R352): the ingress module passes returns of another origin of its rack over the torus. -/
def execReturnBundleArrival (s : State) : Host.Outcome State Fault Refusal :=
  let me := 64 * s.rack + s.self
  match s.takeMsg (fun m => m.kind == 2 && decide (field m.body 0x16 2 % 4096 ≠ me)) with
  | none => .next s
  | some (m, s0) => .next (s0.send { m with peer := field m.body 0x16 2 % 4096 })

/-! ### Merging (R343, R354 to R356) -/

/-- One element of a merged row, as an FP32 code (R354). -/
def mergeEl (ps : List QPair) (k : Nat) : Nat :=
  let cs := (sortIdx (ps.map (fun p => (p.gid, lToF fFP32 (lMul p.w (fToL fBF16 (p.row.getD k 0))).code)))).map (·.2)
  treeOf (fAdd fFP32) 0 64 (numbered cs)

/-- The pairs of a token, and whether every one that can return has returned. -/
def Inst.settled (x : Inst) (t : Nat) : Bool :=
  x.admitted && (x.pairs.filter (fun p => p.tok == t)).all (fun p => p.st != .admitted && p.st != .sent)

/-- Close an instance whose every row is written (R334). -/
def State.closeIfDone (s : State) (k : Nat) : State :=
  match SMap.find? s.insts k with
  | some x => if x.admitted ∧ x.tokens ≤ x.parts.foldl (fun n p => n + p.done.length) 0 then s.closeInst k else s
  | none => s

/-- The engine of a work item at a logical index; none while the item is suspended. -/
def WorkItem.engAt (w : WorkItem) (logical : Nat) : Option Nat := w.engines[logical]?

/-- MERGE_ROWS (R354, R355): merge a settled token once the tick of its last return is over (R362), write its row at the engine that sent its
scores, and add the merge token after its QSEND's last row. -/
def execMergeRows (inst tok : Nat) (s : State) : Host.Outcome State Fault Refusal :=
  match SMap.find? s.insts inst with
  | none => .next s
  | some x =>
    match x.parts.find? (fun p => decide (p.t0 ≤ tok ∧ tok < p.t0 + p.n) && !p.done.contains tok) with
    | none => .next s
    | some part =>
      let ps := x.pairs.filter (fun p => p.tok == tok && p.st == .returned)
      match (s.item x.item).engAt part.logical with
      | none => .next s
      | some e =>
        if !x.settled tok ∨ ps.any (fun p => decide (s.pav ≤ p.at_)) then .next s
        else
          let h := x.hidden
          let vals := (List.range h).map (fun k =>
            let v := mergeEl ps k
            if x.bf16 then fConv fFP32 fBF16 v else v)
          let fmt := if x.bf16 then fBF16 else fFP32
          let bytes := padTo x.mrow (vals.flatMap (fun v => leBytes (if x.bf16 then 2 else 4) v))
          let mark := ps.foldl (fun m p => max m (statusMark p.status)) 0
          let units := unitsOf (List.replicate (x.mrow / 32) mark) bytes
          let a := x.mergeLoam + (tok - part.t0) * x.mrow
          let ws := (rowParts (units.length + 1) a 0 units).map (fun (p, _, u) => partWrite .loam fmt p u)
          if (s.item x.item).hdr.lNeed < a + x.mrow then .next (s.progFault e fkSTORE_RANGE)
          else
            let (s0, _) := s.writeRows e ws
            let s1 := ps.foldl (fun s p => (s.freeBuf (x.buf p.tok p.gid)).noteReturn x p) s0
            let done := tok :: part.done
            let parts := x.parts.map (fun p => if p.t0 = part.t0 then { p with done := done } else p)
            let x1 := { x with
              parts := parts, skipped := if ps.isEmpty then tok :: x.skipped else x.skipped,
              pairs := x.pairs.map (fun p => if p.tok = tok ∧ p.st = .returned then { p with st := PairSt.merged } else p) }
            let w1 := s1.item x.item
            let sq := if x.nw = 255 then []
              else vals.zipIdx.map (fun (v, k) => (x.nw, tok * h + k, (lSqr (fToL fmt v)).code))
            let s2 := ({ s1 with insts := SMap.set s1.insts inst x1 } : State).setItem x.item { w1 with normSq := w1.normSq ++ sq }
            let s3 := if done.length = part.n then s2.addToken e x.rtk 1 else s2
            .next (s3.closeIfDone inst)

/-! ### Deadlines (R357 to R359) -/

/-- EXPERT_TIMEOUT (R357, R359): the first tick after the deadline has passed with reachable pairs missing; a pair without a reachable
location counts as unreachable (R362). -/
def execExpertTimeout (inst : Nat) (s : State) : Host.Outcome State Fault Refusal :=
  match SMap.find? s.insts inst with
  | none => .next s
  | some x =>
    let isLate := fun (p : QPair) => decide (p.st = .sent) || (decide (p.st = .admitted) && (s.chooseLoc x.flow p.entry).isSome)
    let late := x.pairs.filter isLate
    if late.isEmpty || (match x.deadline with | some d => decide (s.pav ≤ d + (s.thr - x.thr0) + 1) | none => true) then .next s
    else
      let lost := x.pairs.filter (fun p => decide (p.st = .admitted) && !isLate p)
      let x1 := { x with tmo := x.tmo + late.length, unr := x.unr + lost.length,
                         pairs := x.pairs.map (fun p => if isLate p then { p with st := PairSt.missing }
                           else if p.st = .admitted then { p with st := PairSt.unreachable } else p) }
      let s0 : State := { s with insts := SMap.set s.insts inst x1 }
      let s1 := if lost.isEmpty then s0
        else ((s0.count 0xA0020 lost.length).raise 0x8001 0 (some x.tenant) []).addStatus x.item stFABRIC_UNREACHABLE 0x8001
      let s2 := (s1.count 0xA0028 late.length).raise 0x8000 x.handle (some x.tenant) [(4, x.handle), (8, x.step), (1, x.layer), (4, late.length)]
      if bit (s.chan x.chan).attr 1 then .next (s2.addStatus x.item stDEGRADED 0x8000)
      else .next ((s2.closeInst inst).stopItem x.item stEXPERT_TIMEOUT 0x8000)

/-- No engine of a work item can send scores any more (R358): every one has issued END or was stopped. -/
def State.allEnded (s : State) (w : WorkItem) : Bool :=
  if w.phase = .suspended then w.frames.all (·.ending)
  else w.engines.all (fun e => let st := (s.engine e).st; decide (st = .ending ∨ st = .done))

/-- QSEND_INCOMPLETE (R358): an instance without the scores of some token closes at its deadline, or once no engine of its work
item can send more. -/
def execQsendIncomplete (inst : Nat) (s : State) : Host.Outcome State Fault Refusal :=
  match SMap.find? s.insts inst with
  | none => .next s
  | some x =>
    if x.tokens ≤ x.scores.length ∨ (s.pav < x.opened + 1000 * x.deadlineUs ∧ !s.allEnded (s.item x.item)) then .next s
    else
      let s1 := s.raise 0x8006 x.handle (some x.tenant)
        [(4, x.handle), (8, x.step), (1, x.layer), (4, x.tokens - x.scores.length)]
      .next ((s1.closeInst inst).stopItem x.item stTENANT_FAULT 0x8006)

/-! ### The predictor's window (R371) -/

/-- PREDICTOR_EVALUATION (R371): add a step's counts to a predictor's window and evaluate it when it closes. -/
def execPredictorEvaluation (item p : Nat) (s : State) : Host.Outcome State Fault Refusal :=
  match SMap.find? s.items item with
  | none => .next s
  | some w =>
    let k := w.chan * 64 + p
    let mine := w.audits.filter (fun a => a.1 == p)
    let toks := dedup ((w.skips.filter (fun t => t.1 == p)).map (fun t => t.2.1))
    if (mine.isEmpty ∧ toks.isEmpty) ∨ w.evald.contains p ∨ w.job.isSome ∨ (w.phase ≠ .ended ∧ w.phase ≠ .complete) then .next s
    else
      let s1 := s.setItem item { w with audits := w.audits.filter (fun a => a.1 != p), retPairs := w.retPairs.filter (fun q => q != p), evald := p :: w.evald }
      match SMap.find? s.preds k with
      | none => .next s1
      | some x =>
        let aud := x.audited + mine.foldl (fun n a => n + a.2.2.1) 0
        let mis := x.misses + mine.foldl (fun n a => n + a.2.2.2) 0
        let tok := x.tokens + toks.length + (w.retPairs.filter (fun q => q == p)).length
        if tok < 4096 then .next { s1 with preds := SMap.set s1.preds k { x with tokens := tok, audited := aud, misses := mis } }
        else
          let fall := decide (0 < aud ∧ x.limit * aud < mis * 100000)
          let s2 : State := { s1 with preds := SMap.set s1.preds k { x with tokens := 0, audited := 0, misses := 0, fallen := x.fallen || fall } }
          .next (if fall then s2.raise 0x8004 (s.handleOf w.chan) (some w.tenant) [(4, tok), (4, aud), (4, mis)] else s2)

end Sys2Proof.Machine
end

