-- ==== Sys2Proof/Machine/Record.lean ====
section
/-! DEFINITION. Completion records and the routing report (R363, R374, R457 to R461, R536), and the norm watch (R222 to R230). -/

namespace Sys2Proof.Machine

/-! ### Completion records -/

/-- Tokens computed under speculative skip: distinct token indices with a skip (R374). -/
def WorkItem.skipTokens (w : WorkItem) : Nat := (dedup ((w.skips.filter (fun t => t.2.2)).map (fun t => t.2.1))).length

/-- Status and event that the completion carries (R374, R457, R536). -/
def WorkItem.outcome (w : WorkItem) : Nat × Nat :=
  let (st, ev) := worstStatus (if 0 < w.skipTokens then w.statuses ++ [(stDEGRADED, 0)] else w.statuses)
  (st, if st = stOK ∨ st = stDEGRADED ∨ st = stCANCELLED then 0 else ev)

def satN (n v : Nat) : Nat := min v (2 ^ n - 1)

/-- A completion record with PHASE 0 (R457). -/
def recBytes (seq status flags finish rkind result step skip start run thr ev : Nat) : Bytes :=
  leBytes 4 seq ++ leBytes 1 status ++ leBytes 1 flags ++ leBytes 1 finish ++ leBytes 1 rkind ++ leBytes 8 result ++ leBytes 4 step
    ++ leBytes 2 (satN 16 skip) ++ leBytes 2 (satN 16 start) ++ leBytes 4 (satN 32 run) ++ leBytes 2 (satN 16 thr) ++ leBytes 2 ev

/-- A channel writes records unless it is in ERROR or DESTROYING with cause 3 to 5 (R444). -/
def Chan.writesRecs (c : Chan) : Bool :=
  !(decide (c.st = .error ∨ c.st = .destroying) && decide (3 ≤ c.cause ∧ c.cause ≤ 5))

/-- A record joins those that wait to be written (R460); a channel that writes none abandons it. -/
def State.pushRec (s : State) (ch : Nat) (b : Bytes) (irq : Bool) : State :=
  match SMap.find? s.chans ch with
  | none => s
  | some c => if c.writesRecs then s.setChan ch { c with recs := c.recs ++ [⟨b, irq⟩] } else s

/-- Codes of the STATE byte of a control block (R442). -/
def chCode : ChState → Nat
  | .active => 1
  | .halted => 2
  | .error => 3
  | .destroying => 4

/-- A channel changes state; the module writes STATE and CAUSE into its control block (R442, R461). The admin channel's state
lies in HIF_ADMIN_STATUS as well (R434). -/
def State.setChState (s : State) (ch : Nat) (st : ChState) (cause : Nat) : State :=
  match SMap.find? s.chans ch with
  | none => s
  | some c =>
    let s1 := s.setChan ch { c with st := st, cause := cause }
    let s2 := if cause = 5 then s1 else s1.hostWr ch c.tc (if ch = 0 then 255 else c.tenant) true none (c.cb + 0x14) (leBytes 1 (chCode st) ++ leBytes 1 cause ++ leBytes 2 0)
    if ch = 0 then (if st = .error then (s2.setField rADMIN_STATUS 0 2 2).setField rADMIN_STATUS 8 8 cause else s2) else s2

def fOVERSPAN : Nat := 1
def fCANCEL_LATE : Nat := 2
def fTHROTTLED : Nat := 4
def fREROUTED : Nat := 8
def fDONE : Nat := 16
def fFINAL : Nat := 32

/-- Throttled time of a work item in 100-ns units, rounded up so that throttling shows (R574). -/
def State.thrUnits (s : State) (w : WorkItem) : Nat := if w.started = 0 then 0 else ceilDiv (s.thr - w.thr0) 100

/-- Issue a record of a work item; `extra` are its own modifiers. -/
def State.itemRec (s : State) (it : Nat) (extra finish rkind result : Nat) : State :=
  let w := s.item it
  let (st, ev) := w.outcome
  let t := s.thrUnits w
  let fl := (if w.overspan then fOVERSPAN else 0) + (if t = 0 then 0 else fTHROTTLED) + (if w.rerouted then fREROUTED else 0) + extra
  let start := if w.started = 0 then 0 else (w.started - w.announced) / 100
  let run := if w.started = 0 then 0 else (s.now - w.started) / 10
  s.pushRec w.chan (recBytes w.desc st fl finish rkind result (w.step % 2 ^ 32) w.skipTokens start run t ev)
    (w.irq || decide (fFINAL ≤ extra))

/-- Words of a skip mask (R363). -/
def skipMask (tokens : Nat) (l : List Nat) : Bytes :=
  (List.range (ceilDiv tokens 64)).flatMap (fun i => leBytes 8 ((l.filter (fun t => t / 64 == i)).foldl (fun m t => m ||| 2 ^ (t % 64)) 0))

/-- The routing report of a step (R363). -/
def WorkItem.reportBytes (w : WorkItem) : Bytes :=
  let layers := w.experts.length
  let tokens := w.stepTokens
  let at_ := fun (l : Nat) => w.report.find? (fun r => r.1 == l)
  leBytes 8 w.step ++ leBytes 2 layers ++ leBytes 6 0
    ++ (List.range layers).flatMap (fun l => match at_ l with
      | some (_, a, b, c, d, _) => leBytes 4 a ++ leBytes 4 b ++ leBytes 4 c ++ leBytes 4 d
      | none => leBytes 16 0)
    ++ (List.range layers).flatMap (fun l => skipMask tokens (match at_ l with | some (_, _, _, _, _, k) => k | none => []))

/-- Write the routing report before the step's first record (R363, R461). -/
def State.writeReport (s : State) (it : Nat) : State :=
  let w := s.item it
  if w.routing = 0 ∨ w.repIova = 0 then s
  else (s.noteProxy it).hostWr w.chan w.tc w.tenant true none w.repIova w.reportBytes

/-! ### Norm watch -/

/-- The default configuration word of a watch point (R229): EN 1, RLOG2 3, ALOG2 6, WARM 4. -/
def nwDefault : Nat := 0x2319

def State.nwWord (s : State) (ch i : Nat) : Nat := SMap.get s.nwCfg (256 * ch + i) nwDefault
def nwPolicy (c : Nat) : Nat := bits c 1 2
def nwRlog2 (c : Nat) : Nat := bits c 3 4
def nwAlog2 (c : Nat) : Nat := bits c 7 4
def nwWarm (c : Nat) : Nat := bits c 11 8

/-- Each field of a configuration word lies in its range (R229). -/
def nwValid (c : Nat) : Bool :=
  decide (nwPolicy c ≤ 2 ∧ 1 ≤ nwRlog2 c ∧ nwRlog2 c ≤ 10 ∧ 1 ≤ nwAlog2 c ∧ bits c 20 44 = 0)

/-- Statuses under which a work item takes norm-watch decisions (R225). -/
def WorkItem.decides (w : WorkItem) : Bool :=
  let st := w.outcome.1
  decide (st = stOK ∨ st = stDEGRADED ∨ st = stNORM_JUMP)

/-- A watch point at which a work item has something to decide: an index it wrote, or an overflow condition. -/
def WorkItem.wrote (w : WorkItem) (i : Nat) : Bool := w.normOver.contains i || w.normSq.any (fun p => p.1 == i)

/-- The indices still to decide. -/
def WorkItem.normLeft (w : WorkItem) : List Nat :=
  if w.job.isSome then []
  else (List.range 256).filter (fun i => w.wrote i && !w.normDone.contains i && (decide (i ≠ 255) || w.normOver.contains i))

/-- Entries that sample lack logits of part of the vocabulary (R487). -/
def ServeSt.lacks (sv : ServeSt) : Bool :=
  sv.entries.any (fun e => bit e.flags 1 && !decide ((e.parts.map (fun p => p.2.length)).sum = sv.vocab))

/-- A work item takes norm-watch decisions (R225): its status is one of those, and its commit point has not brought, and will not
bring, another. -/
def State.decides (s : State) (w : WorkItem) : Bool :=
  w.decides && (match w.srv with
    | some sv => sv.commit.isSome || (!sv.lacks && decide ((s.chan w.chan).epoch = w.epoch))
    | none => true)

/-- A decision may be taken now: one under RECORD waits for the commit point of its step, which settles the status (R225, R228). -/
def State.mayDecide (s : State) (w : WorkItem) (i : Nat) : Bool :=
  s.decides w && (match w.srv with
    | some sv => sv.commit.isSome || decide (nwPolicy (s.nwWord w.chan i) ≠ 0)
    | none => true)

/-- Decisions that the completion waits for: those under MARK and HALT (R228). -/
def State.normWaits (s : State) (it : Nat) : Bool :=
  let w := s.item it
  s.decides w && w.normLeft.any (fun i => decide (nwPolicy (s.nwWord w.chan i) ≠ 0))

/-- Every earlier step of the channel that can write an index has settled it (R228). -/
def State.normFirst (s : State) (it i : Nat) : Bool :=
  let w := s.item it
  s.items.all (fun (_, v) => decide (v.chan ≠ w.chan ∨ w.step ≤ v.step) || v.job.isSome || !v.normMay.contains i || v.normDone.contains i
    || ((decide (v.phase = .ended) || decide (v.phase = .complete)) && (!s.decides v || !v.wrote i)))

/-- The step statistic (R223). -/
def WorkItem.meanSq (w : WorkItem) (i : Nat) : Nat :=
  let l := (w.normSq.filter (fun p => p.1 == i)).map (fun p => (p.2.1, p.2.2))
  (lDiv (lTree l) (lOfQ .rne (Q.ofInt l.length)).code).code

/-- The running mean after a step (R225). -/
def nwMean (first : Bool) (alog2 m ms : Nat) : Nat :=
  if first then ms
  else
    let d := (lSub ms m).code
    let d1 := if lIsZero d || lIsOvf d then d else (lPack (lSign d) (lField d - 1024 * (alog2 : Int))).code
    (lAdd m d1).code

/-- What a decision finds: the new state, and the cause of a NORM_JUMP with its statistic (R224, R225, R654). -/
def nwDecide (cfg : Nat) (x : NwSt) (hasStat ovr : Bool) (ms step : Nat) : NwSt × Option Nat :=
  let en := bit cfg 0
  if !en then (if ovr then ({ x with jumpStep := step % 2 ^ 32 }, some 1) else (x, none))
  else if !hasStat then
    (if ovr then ({ x with jumps := satN 32 (x.jumps + 1), jumpStep := step % 2 ^ 32 }, some 1) else (x, none))
  else
    let x1 := { x with lastMs := ms }
    let ratio := decide (nwWarm cfg ≤ x.updates) && !lIsZero x.m && decide (lField x.m + 2048 * (nwRlog2 cfg : Int) < lField ms)
    let cause := if lIsOvf ms then some 0 else if ovr then some 1 else if ratio then some 2 else none
    match cause with
    | some c => ({ x1 with jumps := satN 32 (x.jumps + 1), jumpStep := step % 2 ^ 32 }, some c)
    | none => ({ x1 with m := nwMean (decide (x.updates = 0)) (nwAlog2 cfg) x.m ms, updates := satN 32 (x.updates + 1) }, none)

/-- Act on a NORM_JUMP by its policy (R227). The event's cause byte carries GRAD in bit 7 (R229; log 155). -/
def State.nwAct (s : State) (it i cause ms : Nat) : State :=
  let w := s.item it
  let pol := nwPolicy (s.nwWord w.chan i)
  let s1 := s.raise 0x1000 (s.handleOf w.chan) (some w.tenant) [(4, s.handleOf w.chan), (1, i), (8, w.step), (1, cause + 128 * bits (s.nwWord w.chan i) 19 1), (2, ms)]
  let s2 := if pol = 0 then s1 else s1.addStatus it stNORM_JUMP 0x1000
  match SMap.find? s2.chans w.chan with
  | some c => if pol = 2 ∧ c.st = .active then s2.setChState w.chan .halted 0 else s2
  | none => s2

/-- A completed work item leaves once nothing about it is undecided. -/
def State.retire (s : State) (it : Nat) : State :=
  let w := s.item it
  let pend := (w.decides && !w.normLeft.isEmpty) || (!w.job.isSome && (!w.audits.isEmpty || (w.skips.any (fun t => decide (t.1 < 64) && !w.evald.contains t.1)) || !w.retPairs.isEmpty))
  if w.phase = .complete ∧ !pend then { s with items := SMap.erase s.items it } else s

/-- NORM_WATCH_DECISION (R224 to R228): a step whose engines have ended decides one watch point, after the earlier steps. -/
def execNormWatchDecision (item : Nat) (idx : Nat) (s : State) : Host.Outcome State Fault Refusal :=
  match SMap.find? s.items item with
  | none => .next s
  | some w =>
    if !(decide (w.phase = .ended) || decide (w.phase = .complete)) || !s.mayDecide w idx || !w.normLeft.contains idx
        || (decide (idx ≠ 255) && !s.normFirst item idx) then .next s
    else
      let s0 := s.setItem item { w with normDone := idx :: w.normDone }
      if idx = 255 then .next ((s0.nwAct item 255 1 lZERO).retire item)
      else
        let k := 256 * w.chan + idx
        let ms := w.meanSq idx
        let (x, j) := nwDecide (s.nwWord w.chan idx) (SMap.get s.nwSt k {}) (w.normSq.any (fun p => p.1 == idx)) (w.normOver.contains idx) ms w.step
        let s1 : State := { s0 with nwSt := SMap.set s0.nwSt k x }
        .next ((match j with | some c => s1.nwAct item idx c ms | none => s1).retire item)

end Sys2Proof.Machine
end

