-- ==== Sys2Proof/Machine/Serve.lean ====
section
/-! DEFINITION. The serving unit: batch tables, logit parts, the commit point, sampling and stop detection (R476 to R496). -/

namespace Sys2Proof.Machine

/-! ### Streams of a tenant (R102 to R104) -/

def State.regEntries (s : State) (t : Nat) : List (Nat × StreamE) := s.streams.filter (fun kv => kv.1 / 1024 == t)

/-- Whether a new registration collides with an entry of the tenant (R104). -/
def State.collides (s : State) (t id seed : Nat) (shared : Bool) (off len : Nat) : Bool :=
  (s.regEntries t).any (fun (_, x) => decide (x.id = id) &&
    (!x.shared || !shared || decide (x.seed ≠ seed) || decide (off < x.offset + x.length ∧ x.offset < off + len)))

def State.addStream (s : State) (t : Nat) (x : StreamE) : State :=
  { s with streams := SMap.set s.streams (SMap.firstFree s.streams (1024 * t) 1024) x }

/-! ### Sequence parameter records (R481, R482) -/

def sprSeed (r : Bytes) : Nat := field r 0 8
def sprMode (r : Bytes) : Nat := field r 8 1
def sprNTok (r : Bytes) : Nat := field r 9 1
def sprNSeq (r : Bytes) : Nat := field r 0x0A 1
def sprTemp (r : Bytes) : Nat := field r 0x0C 2
def sprTopP (r : Bytes) : Nat := field r 0x0E 2
def sprTopK (r : Bytes) : Nat := field r 0x10 2
def sprEos (r : Bytes) : Nat := field r 0x14 4
def sprMax (r : Bytes) : Nat := field r 0x18 4
def sprStream (r : Bytes) : Nat := 0xF0000000 + field r 0x1C 4 % 2 ^ 26
def sprTok (r : Bytes) (i : Nat) : Nat := field r (0x20 + 4 * i) 4
def sprLen (r : Bytes) (q : Nat) : Nat := field r (0x40 + q) 1
def sprSeq (r : Bytes) (q i : Nat) : Nat := field r (0x80 + 64 * q + 4 * i) 4

/-- A sequence parameter record meets R481 for a vocabulary of `v`. -/
def sprOk (r : Bytes) (v : Nat) : Bool :=
  let m := sprMode r
  let pOk := decide (sprTopP r = 0) ||
    (!lSign (sprTopP r) && !lIsOvf (sprTopP r) && !lIsZero (sprTopP r) && decide (lKey (sprTopP r) ≤ lKey 0))
  decide (m ≤ 1 ∧ sprNTok r ≤ 8 ∧ sprNSeq r ≤ 4 ∧ field r 0x0B 1 = 0 ∧ field r 0x12 2 = 0 ∧ field r 0x1C 4 / 2 ^ 26 = 0)
  && (if m = 0 then decide (sprTemp r = 0 ∧ sprTopK r = 0)
      else !lSign (sprTemp r) && !lIsZero (sprTemp r) && !lIsOvf (sprTemp r))
  && pOk && decide (sprTopK r ≤ 256) && (decide (sprTopK r ≠ 0) || decide (sprTopP r = 0))
  && (decide (sprEos r < v) || decide (sprEos r = 0xFFFFFFFF))
  && decide (1 ≤ sprMax r ∧ sprMax r ≤ 16777216)
  && (List.range 8).all (fun i => if i < sprNTok r then decide (sprTok r i < v) else decide (sprTok r i = 0))
  && (List.range 4).all (fun q =>
      (if q < sprNSeq r then decide (1 ≤ sprLen r q ∧ sprLen r q ≤ 16) else decide (sprLen r q = 0)) &&
      (List.range 16).all (fun i => if q < sprNSeq r ∧ i < sprLen r q then decide (sprSeq r q i < v) else decide (sprSeq r q i = 0)))
  && (List.range 60).all (fun i => decide (field r (0x44 + i) 1 = 0))

/-! ### Batch tables (R477 to R480) -/

/-- Whether a batch table header meets R477. -/
def batHdrOk (h : Bytes) : Bool :=
  decide (field h 0 2 = 0x5342 ∧ field h 2 1 ≤ 1 ∧ field h 3 1 = 0 ∧ 1 ≤ field h 4 2 ∧ field h 4 2 ≤ 4096 ∧ field h 6 2 = 0 ∧
    2 ≤ field h 8 4 ∧ field h 8 4 ≤ 262144) && (List.range 20).all (fun i => decide (field h (0x0C + i) 1 = 0))

/-- A batch entry with its raw bytes. -/
def batEntry (b : Bytes) (i : Nat) : Bytes := (b.drop (32 * i)).take 32
def entSlot (e : Bytes) : Nat := field e 0 2
def entFlags (e : Bytes) : Nat := field e 2 1
def entNtok (e : Bytes) : Nat := field e 4 4
def entSpr (e : Bytes) : Nat := field e 0x18 8
def entBegin (e : Bytes) : Bool := bit (entFlags e) 0
def entLast (e : Bytes) : Bool := bit (entFlags e) 2

/-- The fields of an entry, against the channel's sequences (R478, R479). -/
def State.entOk (s : State) (ch : Nat) (e : Bytes) : Bool :=
  let q := SMap.find? s.seqs (16384 * ch + entSlot e)
  decide (entSlot e ≤ 16383 ∧ entFlags e < 8 ∧ field e 3 1 = 0 ∧ 1 ≤ entNtok e ∧ entNtok e ≤ 65536)
  && (entBegin e != q.isSome) && (entBegin e || decide (entSpr e = 0))
  && (!entLast e || (decide (entNtok e = 1) && (match q with | some x => x.last.isSome && !entBegin e | none => false)))

def dupFree : List Nat → Bool
  | [] => true
  | a :: t => !t.contains a && dupFree t

/-- What validation of a batch table answers: a failing status with the state after its reads, or the serving side and the state with
its sequences open. -/
inductive BatchR where
  | bad (st : Nat) (s : State)
  | ok (sv : ServeSt) (s : State)
  deriving DecidableEq, Repr

/-- Register the sampling streams of the sequences that begin; the status of the first failure (R482). -/
def State.openSeqs (s : State) (ch tenant : Nat) : List (Nat × Bytes) → Nat × State
  | [] => (stOK, s)
  | (slot, r) :: t =>
    let s1 : State := { s with seqs := SMap.set s.seqs (16384 * ch + slot) { id := s.nextSeq, spr := r }, nextSeq := s.nextSeq + 1 }
    if sprMode r = 0 then s1.openSeqs ch tenant t
    else if 1024 ≤ (s1.regEntries tenant).length then (stDESC_INVALID, s)
    else if (s1.regEntries tenant).any (fun kv => kv.2.id == sprStream r) then (stSTREAM_COLLISION, s)
    else (s1.addStream tenant ⟨none, sprStream r, sprSeed r, false, 0, 2 ^ 24, false⟩).openSeqs ch tenant t

/-- Write the last committed token into the entries with LAST_INPUT (R480). -/
def State.putInputs (s : State) (ch dpa : Nat) : List (Nat × Bytes) → State
  | [] => s
  | (i, e) :: t =>
    match SMap.find? s.seqs (16384 * ch + entSlot e) with
    | some q => if entLast e then (s.memWrite (dpa + 0x20 + 32 * i + 0x0C) 0 2 (leBytes 4 (q.last.getD 0))).putInputs ch dpa t
                else s.putInputs ch dpa t
    | none => s.putInputs ch dpa t

/-- Read the sampling records of the sequences that begin: each slot's record, the highest mark met, the state after the reads. -/
def State.readSprs (s : State) : List Bytes → List (Nat × Bytes) × Nat × State
  | [] => ([], 0, s)
  | e :: t =>
    let (r, m, s1) := s.memRead (entSpr e) 384 1
    let (l, m2, s2) := State.readSprs s1 t
    ((entSlot e, r) :: l, max m m2, s2)

/-- Validate a batch table (R479, R481, R482) and, where nothing fails, open its sequences and write its inputs. A marked line fails it
with the status of its mark (R288, R309). -/
def State.batch (s : State) (ch tenant dpa : Nat) : BatchR :=
  if !s.mayWrite tenant dpa 32 then .bad stADDR_RANGE s
  else
    let (h, m, s1) := s.memRead dpa 32 1
    if !batHdrOk h then .bad stDESC_INVALID s1
    else
      let n := field h 4 2
      let v := field h 8 4
      if !s1.mayWrite tenant dpa (32 + 32 * n) then .bad stADDR_RANGE s1
      else
        let (b, m1, s2) := s1.memRead (dpa + 32) (32 * n) 1
        let es := (List.range n).map (fun i => (i, batEntry b i))
        if !(es.all (fun p => s2.entOk ch p.2)) || !dupFree (es.map (fun p => entSlot p.2))
            || decide (65536 < (es.map (fun p => entNtok p.2)).sum)
            || decide (16384 < s2.seqs.length + (es.filter (fun p => entBegin p.2)).length) then .bad stDESC_INVALID s2
        else
          let begins := (es.filter (fun p => entBegin p.2)).map (·.2)
          if begins.any (fun e => !s2.mayRead tenant (entSpr e) 384) then .bad stADDR_RANGE s2
          else
            let (rs, m2, s3) := s2.readSprs begins
            let top := max m (max m1 m2)
            if rs.any (fun p => !sprOk p.2 v) then .bad stDESC_INVALID s3
            else if top ≠ 0 then .bad (markStatus top) s3
            else
              let (st, s4) := s3.openSeqs ch tenant rs
              if st ≠ stOK then .bad st s3
              else
                let s5 := s4.putInputs ch dpa es
                let mk := fun (p : Nat × Bytes) =>
                  ({ slot := entSlot p.2, flags := entFlags p.2, ntok := entNtok p.2,
                     seq := (match SMap.find? s5.seqs (16384 * ch + entSlot p.2) with | some q => q.id | none => 0) } : SEntry)
                .ok ⟨decide (field h 2 1 = 1), v, es.map mk, none⟩ s5

/-! ### Logit parts (R486) -/

def SEntry.samples (e : SEntry) : Bool := bit e.flags 1
/-- The entry holds logits for the whole vocabulary. -/
def SEntry.full (e : SEntry) (v : Nat) : Bool := decide ((e.parts.map (fun p => p.2.length)).sum = v)

/-- Refuse an SVSEND whole. -/
def State.partsBad (s : State) (item : Nat) : State :=
  (s.raise 0x8010 0 (some (s.item item).tenant) []).stopItem item stTENANT_FAULT 0x8010

/-- Read the logit rows of an SVSEND: codes row by row, whether a row lacks the tag L16, the highest mark (R486). -/
def State.readLogits (s : State) (e a row w : Nat) : Nat → List (List Nat) × Bool × Nat × State
  | 0 => ([], false, 0, s)
  | n + 1 =>
    if (rowsOf a row).any (fun r => (s.engine e).snap.loam.tag r != fL16) then ([], true, 0, s)
    else
      let (u, s1) := s.extRead e srcDma .loam a (row / 32)
      let m := u.foldl (fun m p => max m p.2) 0
      let (l, bad, m2, s2) := State.readLogits s1 e (a + row) row w n
      (codes2 w (u.flatMap (·.1)) :: l, bad, max m m2, s2)

/-- Add parts to consecutive entries that sample. -/
def addParts (v0 : Nat) : List SEntry → List (List Nat) → List SEntry
  | e :: t, p :: ps => { e with parts := e.parts ++ [(v0, p)] } :: addParts v0 t ps
  | l, _ => l

/-- An SVSEND reaches the serving unit (R202, R486, R492). -/
def State.svsendGo (s : State) (q : UnitReq) : State :=
  let w := s.item q.item
  let a := q.x0.toNat
  let first := q.x1.toNat
  let n := q.x2.toNat
  let len := bits q.x3.toNat 0 32
  let v0 := bits q.x3.toNat 32 32
  match w.srv with
  | none => s.partsBad q.item
  | some sv =>
    let es := (sv.entries.drop first).take n
    if n = 0 ∨ 256 < n ∨ sv.entries.length < first + n ∨ sv.vocab < v0 + len then s.partsBad q.item
    else if es.any (fun e => !e.samples || e.parts.any (fun p => decide (p.1 < v0 + len ∧ v0 < p.1 + p.2.length))) then s.partsBad q.item
    else
      let row := 256 * ceilDiv (2 * len) 256
      if w.hdr.lNeed < a + n * row then s.progFault q.eng fkSTORE_RANGE
      else
        let (ls, bad, m, s1) := s.readLogits q.eng a row len n
        if bad then (s1.raise 0x2004 0 (some w.tenant) []).stopItem q.item stFORMAT_MISMATCH 0x2004
        else
          let es1 := addParts v0 es ls
          let dead := es1.any (fun e => e.full sv.vocab && e.parts.all (fun p => p.2.all lIsOvf))
          let w1 := s1.item q.item
          let sv1 := { sv with entries := sv.entries.take first ++ es1 ++ sv.entries.drop (first + n) }
          let s2 := s1.setItem q.item { w1 with
            srv := some sv1, normOver := if dead ∧ !w1.normOver.contains 255 then 255 :: w1.normOver else w1.normOver }
          (s2.noteMark q.item m 0x3100).addToken q.eng q.tk q.inc

/-! ### Sequences -/

/-- Free a sequence and remove its sampling stream (R476, R482). -/
def State.freeSeq (s : State) (ch slot : Nat) : State :=
  let k := 16384 * ch + slot
  match SMap.find? s.seqs k with
  | none => s
  | some q =>
    let t := (s.chan ch).tenant
    let s1 : State := { s with seqs := SMap.erase s.seqs k }
    if sprMode q.spr = 0 then s1
    else { s1 with streams := s1.streams.filter (fun kv => !(kv.1 / 1024 == t && kv.2.id == sprStream q.spr)) }

/-- The sequence of an entry, while it is the one the entry named. -/
def State.entSeq (s : State) (ch : Nat) (e : SEntry) : Option Seq :=
  match SMap.find? s.seqs (16384 * ch + e.slot) with
  | some q => if q.id = e.seq then some q else none
  | none => none

/-- Finish codes (R457). -/
def fiEOS : Nat := 1
def fiSTOP_TOKEN : Nat := 2
def fiSTOP_SEQ : Nat := 3
def fiMAX : Nat := 4
def fiCANCELLED : Nat := 5
def fiERROR : Nat := 6
def noToken : Nat := 0xFFFFFFFF

/-- Write one slot record (R457, R489, R491). -/
def State.slotRec (s : State) (it : Nat) (slot token finish : Nat) (final late done : Bool) : State :=
  let s1 := s.itemRec it ((if late then fCANCEL_LATE else 0) + (if done then fDONE else 0) + (if final then fFINAL else 0)) finish 1
    (slot + 2 ^ 32 * token)
  let s2 := if final ∧ finish = fiCANCELLED then s1.count 0xB0030 1 else s1
  if late then s2.count 0xB0038 1 else s2

/-- An entry whose record is still to come. -/
def Dec.due : Dec → Bool
  | .sample => true
  | .rec_ _ _ _ => true
  | _ => false

/-- Write the records that are ready, in entry order (R491). -/
def State.emitRecs (s : State) (it ch : Nat) : List SEntry → List SEntry × State
  | [] => ([], s)
  | e :: t =>
    match e.dec with
    | .rec_ tok fin final =>
      let done := !(t.any (fun x => x.dec.due))
      let s1 := s.slotRec it e.slot tok fin final false done
      let s2 := if final ∧ (s1.entSeq ch e).isSome then s1.freeSeq ch e.slot else s1
      let (l, s3) := State.emitRecs s2 it ch t
      ({ e with dec := .written } :: l, s3)
    | .sample => (e :: t, s)
    | _ => let (l, s1) := State.emitRecs s it ch t; (e :: l, s1)

/-- Write what a committed step has ready. -/
def State.flushRecs (s : State) (it : Nat) : State :=
  let w := s.item it
  match w.srv with
  | none => s
  | some sv =>
    let (es, s1) := s.emitRecs it w.chan sv.entries
    s1.setItem it { s1.item it with srv := some { sv with entries := es } }

/-! ### The commit point (R487, R488) -/

/-- Decide one entry (R488, R492). -/
def State.decideEntry (s : State) (ch : Nat) (failed behind : Bool) (v : Nat) (e : SEntry) : Dec :=
  match s.entSeq ch e with
  | none => .silent
  | some q =>
    if q.cancel then .rec_ noToken fiCANCELLED true
    else if failed ∧ !behind then .rec_ noToken fiERROR true
    else if behind then .silent
    else if e.samples then
      (if e.full v ∧ e.parts.all (fun p => p.2.all lIsOvf) then .rec_ noToken fiERROR true else .sample)
    else .silent

/-- COMMIT_POINT (R487): every engine has ended, every awaited decision is made, every sampling entry holds its logits or never
will. -/
def execCommitPoint (item : Nat) (s : State) : Host.Outcome State Fault Refusal :=
  match SMap.find? s.items item with
  | none => .next s
  | some w =>
    match w.srv with
    | none => .next s
    | some sv =>
      if w.phase ≠ .ended ∨ sv.commit.isSome ∨ s.normWaits item then .next s
      else
        let s0 := if sv.lacks ∧ !w.stopped then (s.raise 0x8011 0 (some w.tenant) []).addStatus item stTENANT_FAULT 0x8011 else s
        let behind := decide ((s0.chan w.chan).epoch ≠ w.epoch)
        let s1 := if behind then s0.addStatus item stCANCELLED 0 else s0
        let st := (s0.item item).outcome.1
        let failed := !(decide (st = stOK ∨ st = stDEGRADED ∨ st = stNORM_JUMP ∨ st = stFABRIC_UNREACHABLE))
        let es := sv.entries.map (fun e => { e with dec := s1.decideEntry w.chan failed behind sv.vocab e })
        let s2 := es.foldl (fun s e => if behind ∧ bit e.flags 0 ∧ e.dec = .silent ∧ (s.entSeq w.chan e).isSome then s.freeSeq w.chan e.slot else s) s1
        let s3 := ({ s2 with nextCommit := s2.nextCommit + 1 } : State).setItem item
          { s2.item item with srv := some { sv with entries := es, commit := some s2.nextCommit } }
        .next ((s3.writeReport item).flushRecs item)

/-! ### Sampling (R492) -/

/-- Value order of two FP32 codes: strictly less; never with a NaN. -/
def fLt (a b : Nat) : Bool :=
  match floatDecode fFP32 a, floatDecode fFP32 b with
  | .fin p, .fin q => Q.lt p q
  | .fin _, .inf n => !n
  | .inf n, .fin _ => n
  | .inf n, .inf m => n && !m
  | _, _ => false

/-- At least: never with a NaN. -/
def fGe (a b : Nat) : Bool :=
  match floatDecode fFP32 a, floatDecode fFP32 b with
  | .nan, _ => false
  | _, .nan => false
  | _, _ => !fLt a b

/-- Running FP32 sums (R492). -/
def cumSums : Nat → List Nat → List Nat
  | _, [] => []
  | c, w :: t => let c1 := fAdd fFP32 c w; c1 :: cumSums c1 t

/-- The logits of an entry in token order, without the OVF ones: (code, token). -/
def SEntry.cand (e : SEntry) : List (Nat × Nat) :=
  let parts := (sortIdx (e.parts.zipIdx.map (fun (p, i) => (p.1, i)))).map (fun (_, i) => e.parts.getD i (0, []))
  (parts.flatMap (fun (v0, l) => l.zipIdx.map (fun (c, i) => (c, v0 + i)))).filter (fun p => !lIsOvf p.1)

/-- The first of the candidates by value descending, token ascending. -/
def greedy : List (Nat × Nat) → Nat × Nat
  | [] => (lZERO, noToken)
  | [p] => p
  | p :: t => let q := greedy t; if lKey p.1 < lKey q.1 then q else p

/-- The token of a sampled entry (R492): none where the procedure names none. -/
def sampleTok (temp topK topP u : Nat) (cand : List (Nat × Nat)) : Option Nat :=
  let z := cand.map (fun p => ((lDiv p.1 temp).code, p.2))
  if z.any (fun p => lIsOvf p.1) then none
  else
    let m := (greedy z).1
    let c := if topK = 0 then z else (z.foldl (fun l p => insDesc (fun q => lKey q.1) p l) []).take topK
    let w := c.map (fun p => lToF fFP32 (lExp2 (lMul (lSub p.1 m).code 0x021D).code).code)
    let sums := cumSums 0 w
    let last := fun (k : Nat) => sums.getD (k - 1) 0
    let k? : Option Nat :=
      if topP = 0 then some sums.length
      else
        let p := lToF fFP32 (lMul (fToL fFP32 (last sums.length)) topP).code
        (sums.findIdx? (fun x => fGe x p)).map (· + 1)
    match k? with
    | none => none
    | some k =>
      let t := lToF fFP32 (lMul (fToL fFP32 (last k)) (lOfQ .rne ⟨(u : Int), 2 ^ 32⟩).code).code
      match (sums.take k).findIdx? (fun x => fLt t x) with
      | some j => (c.drop j).head?.map (·.2)
      | none =>
        let pos := ((c.zip w).take k).filter (fun p => fLt 0 p.2)
        (pos.getLast?).map (fun p => p.1.2)

/-- The next token of a sequence from an entry's logits; the free value decides where the procedure names none. -/
def pickToken (q : Seq) (e : SEntry) : Nat :=
  let c := e.cand
  if sprMode q.spr = 0 then (greedy c).2
  else
    let u := philox (sprSeed q.spr) (sprStream q.spr) q.n 0
    match sampleTok (sprTemp q.spr) (sprTopK q.spr) (sprTopP q.spr) u c with
    | some t => t
    | none => (c.getD (Config.sampleOpen u c % c.length) (0, noToken)).2

/-! ### Stop detection (R495, R496) -/

/-- Length of the longest proper prefix of the first `j + 1` tokens of a sequence that is also their suffix. -/
def failLen (r : Bytes) (q j : Nat) : Nat :=
  ((List.range (j + 1)).filter (fun l => (List.range l).all (fun i => sprSeq r q i == sprSeq r q (j + 1 - l + i)))).foldl max 0

/-- Follow the failure table until token `x` continues the match. -/
def fallBack (r : Bytes) (q x : Nat) : Nat → Nat → Nat
  | 0, s => s
  | f + 1, s => if 0 < s ∧ sprSeq r q s ≠ x then fallBack r q x f (failLen r q (s - 1)) else s

/-- One matcher's next state, and whether its sequence completed (R496). -/
def matchStep (r : Bytes) (q x s : Nat) : Nat × Bool :=
  let s1 := fallBack r q x 16 s
  let s2 := if sprSeq r q s1 = x then s1 + 1 else s1
  if s2 = sprLen r q then (failLen r q (s2 - 1), true) else (s2, false)

/-- Commit a token to a sequence: its next state and its finish (R495, R496). -/
def commitToken (q : Seq) (x : Nat) : Seq × Nat :=
  let r := q.spr
  let ms := q.autos.zipIdx.map (fun (s, i) => if i < sprNSeq r then matchStep r i x s else (s, false))
  let n := q.n + 1
  let fin := if x = sprEos r then fiEOS
    else if (List.range (sprNTok r)).any (fun i => sprTok r i == x) then fiSTOP_TOKEN
    else if ms.any (·.2) then fiSTOP_SEQ
    else if n = sprMax r then fiMAX else 0
  ({ q with n := n, last := some x, autos := ms.map (·.1) }, fin)

/-! ### SLOT_SAMPLE -/

/-- The work item whose entry the lanes take next: TC0 first, else in commit order (R494). -/
def State.nextToSample (s : State) : Option Nat :=
  let l := s.items.filterMap (fun (k, w) => match w.srv with
    | some sv => match sv.commit with
      | some c => if sv.entries.any (fun e => decide (e.dec = .sample)) then some (k, decide (w.tc = 0), c) else none
      | none => none
    | none => none)
  let best := fun (l : List (Nat × Bool × Nat)) => l.foldl (fun (b : Option (Nat × Nat)) p => match b with
    | some (k, c) => if p.2.2 < c then some (p.1, p.2.2) else some (k, c)
    | none => some (p.1, p.2.2)) none
  match best (l.filter (fun p => p.2.1)) with
  | some (k, _) => some k
  | none => (best l).map (·.1)

/-- Sample one entry of a step and write its record (R489): the rest of the entries, and the state. -/
def State.sampleFirst (s : State) (it ch : Nat) : List SEntry → List SEntry × State
  | [] => ([], s)
  | e :: t =>
    if e.dec = .sample then
      match s.entSeq ch e with
      | none => ({ e with dec := .silent } :: t, s)
      | some q =>
        let (q1, fin) := commitToken q (pickToken q e)
        let late := q.cancel
        let fin1 := if fin ≠ 0 then fin else if late then fiCANCELLED else 0
        let final := decide (fin1 ≠ 0)
        let s1 := ({ s with seqs := SMap.set s.seqs (16384 * ch + e.slot) { q1 with cancel := false } } : State).count 0xB0028 1
        let s2 := s1.slotRec it e.slot (q1.last.getD 0) fin1 final late (!(t.any (fun x => x.dec.due)))
        ({ e with dec := .written } :: t, if final then s2.freeSeq ch e.slot else s2)
    else let (l, s1) := State.sampleFirst s it ch t; (e :: l, s1)

/-- SLOT_SAMPLE (R489, R494). -/
def execSlotSample (s : State) : Host.Outcome State Fault Refusal :=
  match s.nextToSample with
  | none => .next s
  | some it =>
    let w := s.item it
    match w.srv with
    | none => .next s
    | some sv =>
      let (es, s1) := s.sampleFirst it w.chan sv.entries
      .next ((s1.setItem it { s1.item it with srv := some { sv with entries := es } }).flushRecs it)

/-! ### Cancels (R490) -/

/-- Whether a slot lies in a work item that has not yet written its record. -/
def State.slotBusy (s : State) (ch slot : Nat) : Bool :=
  s.items.any (fun (_, w) => decide (w.chan = ch) && (match w.srv with
    | some sv => sv.entries.any (fun e => decide (e.slot = slot) && (e.dec.due || decide (e.dec = .undecided)) && (s.entSeq ch e).isSome)
    | none => false))

/-- Set the cancel mark of a slot's open sequence (R488, R490). -/
def State.markSlot (s : State) (ch slot : Nat) : State :=
  let k := 16384 * ch + slot
  match SMap.find? s.seqs k with
  | none => s
  | some q => { s with seqs := SMap.set s.seqs k { q with cancel := true } }

/-- Cancel one slot (R490): mark it, or write the final record of an idle cancel. -/
def State.cancelSlot (s : State) (ch seq slot : Nat) : State :=
  let k := 16384 * ch + slot
  match SMap.find? s.seqs k with
  | none => s
  | some q =>
    if s.slotBusy ch slot then { s with seqs := SMap.set s.seqs k { q with cancel := true } }
    else
      ((s.pushRec ch (recBytes seq stOK fFINAL fiCANCELLED 1 (slot + 2 ^ 32 * noToken) 0 0 0 0 0 0) true).count 0xB0030 1).freeSeq ch slot

/-- The open slots of a channel. -/
def State.slotsOf (s : State) (ch : Nat) : List Nat := (s.seqs.filter (fun kv => kv.1 / 16384 == ch)).map (fun kv => kv.1 % 16384)

/-- A channel in ERROR with cause 3 to 5 leaves its sequences without final records (R490). -/
def State.abandonSeqs (s : State) (ch : Nat) : State :=
  let l := s.slotsOf ch
  if l.isEmpty then s
  else (l.foldl (fun s x => s.freeSeq ch x) s).raise 0x8014 (s.handleOf ch) (some (s.chan ch).tenant) [(4, l.length)]

end Sys2Proof.Machine
end

