-- ==== Sys2Proof/Machine/Sy.lean ====
section
/-! DEFINITION. The SY slot, which ends its bundle: tokens, waits, transfers, fences, hub units, END; and the send queue (R129 to
R132, R195 to R203). -/

namespace Sys2Proof.Machine

/-! ### The send queue (R131, R195) -/

/-- An entry leaves the send queue: a token goes onto the network, a transfer starts, a unit takes its request. -/
def State.startEntry (s : State) (e : Nat) (k : SqKind) : State :=
  let en := s.engine e
  match k with
  | .token d tk inc => { s with tokens := s.tokens ++ [⟨e, d, tk, inc, en.item, (s.item en.item).tc, s.netSent⟩], netSent := s.netSent + 1 }
  | .dma kind x0 x1 x2 x3 tk inc mark =>
    (s.setEngine e { en with nextDma := en.nextDma + 1 }).dmaGo e ⟨en.nextDma, kind, x0, x1, x2, x3, tk, inc, mark, .good, [], 0⟩
  | .qsend x0 x1 x2 x3 tk inc => s.qsendGo ⟨e, en.item, x0, x1, x2, x3, tk, inc⟩
  | .svsend x0 x1 x2 x3 tk inc => s.svsendGo ⟨e, en.item, x0, x1, x2, x3, tk, inc⟩

/-- Every store that the engine issued before an entry has been acknowledged; its own stores have been carried out with their bundle
(R26, R131). -/
def Engine.entryReady (en : Engine) (q : SqE) : Bool := en.unacked.all (fun n => decide (q.after ≤ n))

def SqKind.isToken : SqKind → Bool
  | .token _ _ _ => true
  | _ => false

/-- Take the head of a queue; an entry that waited for a place moves in. -/
def Engine.popQueue (en : Engine) : Engine :=
  match en.hold.findSome? (fun h => match h with | .queue q => some q | _ => none) with
  | some q => { en with queue := en.queue.drop 1 ++ [q], hold := en.hold.filter (fun h => decide (h ≠ .queue q)) }
  | none => { en with queue := en.queue.drop 1 }

/-- The head leaves the queue; a stall that waited for its place ends after so many cycles (R124). -/
def State.popHead (s : State) (e cycles : Nat) : State :=
  let en := s.engine e
  let s1 := s.setEngine e en.popQueue
  if en.hold.any (fun h => match h with | .queue _ => true | _ => false) then s1.holdEnds e oSTALL_QUEUE cycles false else s1

/-- Transfers and unit requests at the head of the queue leave it as soon as they may; a token's release is TOKEN_RELEASE. -/
def State.kickQueue (s : State) (e cycles : Nat) : Nat → State
  | 0 => s
  | n + 1 =>
    let en := s.engine e
    match en.queue with
    | [] => s
    | q :: _ =>
      if q.kind.isToken || !en.entryReady q then s
      else ((s.popHead e cycles).startEntry e q.kind).kickQueue e cycles n

/-! ### Issue -/

/-- Instruction words of a bundle with errors: corrected ones are counted and mended; whether one cannot be corrected (R120,
R289, R652). -/
def State.fetchBundle (s : State) (e : Nat) : State × Bool :=
  let en := s.engine e
  let mine := en.istoreErr.filter (fun kv => decide (kv.1 / 8 = en.snap.pc))
  if mine.isEmpty then (s, false)
  else
    let cls := mine.map (fun kv =>
      let k := popcount 72 kv.2
      if k ≤ 1 then 1 else if k = 2 ∨ Config.eccOutcome (s.freeCtr + kv.1) % 3 = 0 then 2 else 3)
    let s1 := s.setEngine e { en with istoreErr := en.istoreErr.filter (fun kv => !decide (kv.1 / 8 = en.snap.pc)) }
    let s2 := ({ s1 with freeCtr := s1.freeCtr + 65536 } : State).count (engOff e oISTORE_CE) (cls.filter (· == 1)).length
    (s2, cls.contains 2)

/-- An uncorrectable instruction word stops the work item (R289): the image leaves that store. -/
def State.fetchFail (s : State) (e : Nat) : State :=
  let it := (s.engine e).item
  let s1 := s.haltGroup e
  let s2 := s1.setEngine e { s1.engine e with resident := none }
  ((s2.count (engOff e oSTORE_UE) 1).raise 0x3100 0 (some (s.item it).tenant) []).stopItem it stINTERNAL 0x3100

/-- NOP; a yield point when YIELD is 1. -/
def opSyNop (w : W64) (_ : State) (en : Engine) : Except Nat (Engine × Nat) := do
  need (onlySpans w false [(9, 1)]) fkENCODING
  .ok (en, 1)

/-- What an SY word does (R158, R159): a reserved OP is an invalid encoding, OP 0 the no-operation. -/
def syWord (w : W64) (f : State → Engine → Except Nat (Engine × Nat)) (s : State) (en : Engine) : Except Nat (Engine × Nat) :=
  if !opListed 7 (fld w 0 6) then .error fkENCODING
  else if fld w 0 6 = 0 then opSyNop w s en
  else f s en

/-- Issue the SY operation of the open bundle, which ends it; `f` also says how many schedule cycles the bundle takes. -/
def State.issueSy (s : State) (e : Nat) (i : Instr) (w : W64) (f : State → Engine → Except Nat (Engine × Nat)) : State :=
  if !s.canIssue e || (s.engine e).issued.any (fun j => decide (slotOf i ≤ slotOf j)) then s
  else if (s.item (s.engine e).item).hdr.bundles ≤ (s.engine e).snap.pc then s.progFault e fkCONTROL
  else
    let (s, bad) := s.fetchBundle e
    let en := s.engine e
    if bad then s.fetchFail e
    else match syWord w f s en with
    | .error k => s.progFault e k
    | .ok (en', n) =>
      let s1 := (s.setEngine e { en' with issued := en'.issued ++ [i] }).closeBundle e n
      (s.group e).foldl (fun s g => s.kickQueue g 0 16) s1

def Engine.enqueue (en : Engine) (k : SqKind) : Engine := en.stageIt [.queue ⟨en.core.issuedStores, k⟩]

/-- SEND (R129, R196). -/
def opSend (w : W64) (s : State) (en : Engine) : Except Nat (Engine × Nat) := do
  need (onlySpans w false [(9, 1), (10, 1), (11, 8), (19, 5), (24, 8)]) fkENCODING
  let ds := flag w 10
  need (decide (fld w 24 8 ≠ 0) && (!ds || decide (fld w 16 3 = 0))) fkENCODING
  let l := if ds then en.core.s (fld w 11 5) else fld w 11 8
  match s.destOf en l with
  | none => .error fkTOKEN
  | some d => .ok (en.enqueue (.token d (fld w 19 5) (fld w 24 8)), 1)

/-- WAIT (R130, R196): a met threshold costs no stall; otherwise the engine stalls. -/
def opWait (w : W64) (s : State) (en : Engine) : Except Nat (Engine × Nat) := do
  need (onlySpans w false [(9, 1), (10, 5), (15, 16), (31, 16)]) fkENCODING
  let tk := fld w 10 5
  let th := fld w 15 16
  let dec := fld w 31 16
  need (decide (dec ≤ th)) fkENCODING
  need (!en.core.tkSat.contains tk) fkTOKEN
  let v := (SMap.get en.core.tk tk 0).toNat
  if th ≤ v then .ok (en.setCore { en.core with tk := SMap.put en.core.tk tk (BitVec.ofNat 16 (v - dec)) }, 1)
  else .ok (en.stageIt [.hold (.wait tk th dec (flag w 9 && (s.item en.item).yds.any (fun y => y.bundle == en.core.pc)))], 1)

/-- A transfer: checked in its issue cycle, then queued (R197, R198); a KIND that R197 reserves is an invalid encoding. -/
def opDma (kind : Nat) (w : W64) (s : State) (en : Engine) : Except Nat (Engine × Nat) := do
  need (onlySpans w false [(9, 1), (10, 4), (14, 5), (19, 5), (24, 8)]) fkENCODING
  let x := fld w 14 5
  need (decide (x ≤ 28) && decide (fld w 10 4 = kind)) fkENCODING
  let c := en.core
  let _ ← s.dmaCheck en kind (c.sw x) (c.sw (x + 1)) (c.sw (x + 2)) (c.sw (x + 3))
  .ok (en.enqueue (.dma kind (c.sw x) (c.sw (x + 1)) (c.sw (x + 2)) (c.sw (x + 3)) (fld w 19 5) (fld w 24 8) c.consumed), 1)

/-- An access of R109 to a fence's targets is in flight at issue (R110): an LA in its occupancy, a fold that has not passed its read
(R183), an accumulate-on-write of the engine's own that is not acknowledged. -/
def Engine.fenceBusy (en : Engine) (e tiles first count : Nat) : Bool :=
  let c := en.core
  let inRows := fun (r : Nat) => decide (first ≤ r ∧ r < first + count)
  [0, 1].any (fun h => decide (c.pos < SMap.get c.occ (1 + h) 0) && bit tiles (SMap.get c.laTile (1 + h) 4)) ||
    c.pend.any (fun p => match p.res with
      | .fold t _ _ => bit tiles t && decide (c.pos < p.issued + 2)
      | .acw row _ _ _ => inRows row
      | _ => false) ||
    c.shadow.any (fun x => x.acw && x.bytes.any (fun b => inRows (b.1 / 256))) ||
    en.selfAcw.any (fun a => inRows a.2) ||
    en.staged.any (fun x => match x with
      | .net w => decide (w.dst = e) && (match w.kind with | .acw row _ _ _ => inRows row | _ => false)
      | _ => false)

/-- FMT (R109, R110, R201). -/
def opFmt (e : Nat) (w : W64) (s : State) (en : Engine) : Except Nat (Engine × Nat) := do
  need (onlySpans w false [(9, 1), (10, 4), (14, 8), (22, 12), (34, 13), (47, 4)]) fkENCODING
  let tiles := fld w 10 4
  let tt := fld w 14 8
  let first := fld w 22 12
  let count := fld w 34 13
  let lt := fld w 47 4
  let ttOk := decide (tt = 0) || (decide (tt < 128) && (decide (tt % 16 = fI8) || (decide (tt % 16 = fI4) && decide (bits tt 4 2 ≠ 3))))
  need (ttOk && decide (count ≤ 4096) && !fmtReserved lt) fkENCODING
  need (decide (count = 0) || decide (256 * (first + count) ≤ (s.item en.item).hdr.lNeed)) fkSTORE_RANGE
  let n : Nat := if (tiles = 0 ∧ count = 0) ∨ !en.fenceBusy e tiles first count then 1 else 12
  .ok (en.setCore { en.core with fence := some (tiles, tt, first, count, lt) }, n)

/-- The end of the Loam rows that a QSEND or SVSEND names (R338, R486); 0 where its unit refuses it whole. -/
def WorkItem.unitEnd (it : WorkItem) (serve : Bool) (x0 x1 x2 x3 : W64) : Nat :=
  if serve then
    (match it.srv with
      | some sv => if x2.toNat = 0 ∨ 256 < x2.toNat ∨ sv.entries.length < x1.toNat + x2.toNat ∨ sv.vocab < bits x3.toNat 32 32 + bits x3.toNat 0 32 then 0
          else x0.toNat + x2.toNat * (256 * ceilDiv (2 * bits x3.toNat 0 32) 256)
      | none => 0)
  else if it.qsendOk x0 x1 x2 x3 then x0.toNat + x1.toNat * (256 * ceilDiv (2 * it.experts.getD x2.toNat 0) 256) else 0

/-- QSEND and SVSEND: four scalars read at issue, rows inside LOAM_NEED (R163), queued (R202). -/
def opUnit (serve : Bool) (w : W64) (s : State) (en : Engine) : Except Nat (Engine × Nat) := do
  need (onlySpans w false [(9, 1), (14, 5), (19, 5), (24, 8)]) fkENCODING
  let x := fld w 14 5
  need (decide (x ≤ 28)) fkENCODING
  let c := en.core
  let it := s.item en.item
  need (decide (it.unitEnd serve (c.sw x) (c.sw (x + 1)) (c.sw (x + 2)) (c.sw (x + 3)) ≤ it.hdr.lNeed)) fkSTORE_RANGE
  let k := if serve then SqKind.svsend (c.sw x) (c.sw (x + 1)) (c.sw (x + 2)) (c.sw (x + 3)) (fld w 19 5) (fld w 24 8)
    else SqKind.qsend (c.sw x) (c.sw (x + 1)) (c.sw (x + 2)) (c.sw (x + 3)) (fld w 19 5) (fld w 24 8)
  .ok (en.enqueue k, 1)

/-- END (R203, R246): issue stops; an open compressor row is closed, inside the rows that the program declared (R163). -/
def opEnd (w : W64) (s : State) (en : Engine) : Except Nat (Engine × Nat) := do
  need (onlySpans w false []) fkENCODING
  match en.core.cmp with
  | none => .ok (en.stageIt [.finish], 1)
  | some r =>
    let (ws, fs) := endRow r
    need (ws.all (fun sw => sw.bytes.all (fun p => decide (p.1 < (s.item en.item).hdr.lNeed)))) fkSTORE_RANGE
    let e1 := ws.foldl (fun (x : Engine) sw => x.putStore 7 12 4 sw) en
    .ok ((e1.setCore { e1.core with cmp := none }).stageIt (fs.map (fun f => .count (oCMP_DENSE + 8 * f) 1) ++ [.finish]), 1)

def execSyNop (e : EngId) (w : W64) (s : State) : Host.Outcome State Fault Refusal := .next (s.issueSy e (.syNop e w) w (opSyNop w))
def execSend (e : EngId) (w : W64) (s : State) : Host.Outcome State Fault Refusal := .next (s.issueSy e (.send e w) w (opSend w))
def execWait (e : EngId) (w : W64) (s : State) : Host.Outcome State Fault Refusal := .next (s.issueSy e (.wait e w) w (opWait w))
def execStackLoad (e : EngId) (w : W64) (s : State) : Host.Outcome State Fault Refusal :=
  .next (s.issueSy e (.stackLoad e w) w (opDma 0 w))
def execStackStore (e : EngId) (w : W64) (s : State) : Host.Outcome State Fault Refusal :=
  .next (s.issueSy e (.stackStore e w) w (opDma 1 w))
def execHostLoad (e : EngId) (w : W64) (s : State) : Host.Outcome State Fault Refusal :=
  .next (s.issueSy e (.hostLoad e w) w (opDma 2 w))
def execHostStore (e : EngId) (w : W64) (s : State) : Host.Outcome State Fault Refusal :=
  .next (s.issueSy e (.hostStore e w) w (opDma 3 w))
def execPlaneGather (e : EngId) (w : W64) (s : State) : Host.Outcome State Fault Refusal :=
  .next (s.issueSy e (.planeGather e w) w (opDma 4 w))
def execMarlGather (e : EngId) (w : W64) (s : State) : Host.Outcome State Fault Refusal :=
  .next (s.issueSy e (.marlGather e w) w (opDma 5 w))
def execPeer (e : EngId) (w : W64) (s : State) : Host.Outcome State Fault Refusal := .next (s.issueSy e (.peer e w) w (opDma 6 w))
def execStackCopy (e : EngId) (w : W64) (s : State) : Host.Outcome State Fault Refusal :=
  .next (s.issueSy e (.stackCopy e w) w (opDma 7 w))
def execFmtFence (e : EngId) (w : W64) (s : State) : Host.Outcome State Fault Refusal :=
  .next (s.issueSy e (.fmtFence e w) w (opFmt e.val w))
def execQsend (e : EngId) (w : W64) (s : State) : Host.Outcome State Fault Refusal := .next (s.issueSy e (.qsend e w) w (opUnit false w))
def execSvsend (e : EngId) (w : W64) (s : State) : Host.Outcome State Fault Refusal := .next (s.issueSy e (.svsend e w) w (opUnit true w))
def execEndOp (e : EngId) (w : W64) (s : State) : Host.Outcome State Fault Refusal := .next (s.issueSy e (.endOp e w) w (opEnd w))

end Sys2Proof.Machine
end

