-- ==== Sys2Proof/Machine/EngEv.lean ====
section
/-! DEFINITION. What happens to engines besides issue: repeats, tokens, acknowledgements, transfers that end, writes of other
engines, expander checkers, scrub, the watchdog (R26, R123 to R132, R140, R192, R198, R261 to R265, R273 to R291). -/

namespace Sys2Proof.Machine

/-! ### The on-die networks (R25, R26; log 133) -/

/-- A message on its way between quadrants: class (0 response, 1 token, 2 request), traffic class, source, place among the messages sent. -/
structure Wire where
  cls : Nat
  tc : Nat
  src : Nat
  sent : Nat
  deriving DecidableEq, Repr

/-- The way from one engine to another, by quadrants. -/
def netPath (src dst : Nat) : Nat := 8 * quadOf src + quadOf dst

def TokenMsg.wire (t : TokenMsg) : Wire := ⟨1, t.tc, t.src, t.sent⟩
def NetW.wire (w : NetW) : Wire := ⟨2, w.tc, w.src, w.sent⟩

/-- The messages on a way. -/
def State.onPath (s : State) (p : Nat) : List Wire :=
  (s.tokens.filter (fun t => decide (netPath t.src t.dst = p))).map TokenMsg.wire
    ++ (s.net.filter (fun w => decide (netPath w.src w.dst = p))).map NetW.wire
    ++ s.eng.flatMap (fun kv => (kv.2.acks.filter (fun a => decide (netPath a.2.1 kv.1 = p))).map (fun a => ⟨0, 0, a.2.1, a.2.2⟩))

/-- What a class of requests has had, weighted 8 : 2 : 1 for TC1, TC2 and TC3. -/
def State.netShare (s : State) (p c : Nat) : Nat := SMap.get s.netWrr (4 * p + c) 0 * (if c = 1 then 1 else if c = 2 then 4 else 8)

/-- Of two messages that wait on one way, whether `x` goes before `m` (R25): responses, then tokens, then requests; of requests TC0 first,
then the classes by their shares, and within a class the sources in turn. -/
def State.goesBefore (s : State) (p : Nat) (x m : Wire) : Bool :=
  if x.cls ≠ m.cls then decide (x.cls < m.cls)
  else if x.cls ≠ 2 then false
  else if x.tc ≠ m.tc then
    decide (x.tc = 0) || (decide (m.tc ≠ 0) && (decide (s.netShare p x.tc < s.netShare p m.tc) || (decide (s.netShare p x.tc = s.netShare p m.tc ∧ x.tc < m.tc))))
  else
    let turn := fun (e : Nat) => (e + 384 - SMap.get s.netLast (4 * p + x.tc) 0 - 1) % 192
    decide (x.src ≠ m.src ∧ turn x.src < turn m.src)

/-- A message may arrive: none that set out before it goes before it. -/
def State.mayArrive (s : State) (p : Nat) (m : Wire) : Bool :=
  (s.onPath p).all (fun x => decide (m.sent ≤ x.sent) || !s.goesBefore p x m)

/-- A request of a way has been served. -/
def State.netServed (s : State) (p : Nat) (m : Wire) : State :=
  { s with netWrr := SMap.set s.netWrr (4 * p + m.tc) (SMap.get s.netWrr (4 * p + m.tc) 0 + 1), netLast := SMap.set s.netLast (4 * p + m.tc) m.src }

/-! ### Tokens -/

/-- TOKEN_RELEASE (R131): the head of a send queue leaves once every store issued before it has been acknowledged; an entry that
waited for a place moves in and its stall is counted. -/
def execTokenRelease (e : EngId) (cycles : Nat) (s : State) : Host.Outcome State Fault Refusal :=
  let en := s.engine e
  match en.queue with
  | [] => .next s
  | q :: _ =>
    if !en.entryReady q then .next s
    else .next ((((s.popHead e cycles).startEntry e q.kind).kickQueue e cycles 16).settle e 16)

/-- The first element that satisfies a test, and the list without it. -/
def takeFirst {α : Type} (p : α → Bool) : List α → Option (α × List α)
  | [] => none
  | a :: t => if p a then some (a, t) else (takeFirst p t).map (fun (x, l) => (x, a :: l))

/-- TOKEN_ARRIVAL (R26, R129): the oldest token from one engine to another, which is for this counter, adds its increment. -/
def execTokenArrival (src dst : EngId) (tk : Fin 32) (s : State) : Host.Outcome State Fault Refusal :=
  match takeFirst (fun t => decide (t.src = src.val ∧ t.dst = dst.val)) s.tokens with
  | none => .next s
  | some (t, rest) =>
    if t.tk ≠ tk.val ∨ !s.mayArrive (netPath src dst) t.wire then .next s
    else
      let s1 : State := { s with tokens := rest }
      .next (if (s1.engine dst).item = t.item then s1.addToken dst t.tk t.inc else s1)

/-- WAIT_SATISFIED (R130): the counter holds the threshold; issue resumes and the decrement is subtracted. -/
def execWaitSatisfied (e : EngId) (cycles : Nat) (s : State) : Host.Outcome State Fault Refusal :=
  let en := s.engine e
  match en.hold.findSome? (fun h => match h with | .wait tk th dec y => some (tk, th, dec, y) | _ => none) with
  | none => .next s
  | some (tk, th, dec, y) =>
    let v := (SMap.get en.core.tk tk 0).toNat
    if en.st ≠ .running ∨ s.frozen ∨ v < th then .next s
    else
      let sub := fun (c : Core) => { c with tk := SMap.put c.tk tk (BitVec.ofNat 16 (v - dec)) }
      let s1 := s.setEngine e { en with core := sub en.core, snap := sub en.snap, hold := en.hold.filter (fun h => decide (h ≠ .wait tk th dec y)) }
      .next ((s1.holdEnds e oSTALL_WAIT cycles y).settle e 16)

/-- STORE_ACK (R26, R124): the oldest acknowledgement on its way to an engine reaches it. -/
def execStoreAck (e : EngId) (cycles : Nat) (s : State) : Host.Outcome State Fault Refusal :=
  let en := s.engine e
  match en.acks with
  | [] => .next s
  | a :: _ =>
    let m := en.acked a.1
    let free := decide (m.outstanding < 64) && en.hold.contains .stores
    let s1 := s.setEngine e { m with hold := if free then en.hold.filter (fun h => decide (h ≠ .stores)) else en.hold }
    .next (((if free then s1.holdEnds e oSTALL_QUEUE cycles false else s1).kickQueue e cycles 16).settle e 16)

/-! ### Transfers (R132, R198, R474) -/

def State.dropDma (s : State) (e id : Nat) : State :=
  let en := s.engine e
  s.setEngine e { en with dma := en.dma.filter (fun x => x.id != id) }

def State.dropReads (s : State) (who : ReadWho) : State := { s with reads := s.reads.filter (fun kv => !(kv.2.who == who)) }

/-- Host data of a transfer from the parts of its proxied reads, in order. -/
def joinParts (l : List (Nat × Bytes × Bool)) : Bytes × Bool :=
  let o := sortIdx (l.zipIdx.map (fun (p, i) => (p.1, i)))
  (o.flatMap (fun (_, i) => (l.getD i (0, [], false)).2.1), l.any (fun p => p.2.2))

/-- DMA_COMPLETION (R132, R198): the last byte is written and acknowledged; the remote counter of a PEER, then the local one. -/
def execDmaCompletion (e : EngId) (n : Nat) (rd : HostRead) (s : State) : Host.Outcome State Fault Refusal :=
  match (s.engine e).dma.find? (fun x => x.id == n) with
  | none => .next s
  | some d =>
    let who := ReadWho.dma e n
    let fin := fun (s : State) => ((s.dropDma e n).addToken e d.tk d.inc)
    if d.fate = .good then
      if s.awaiting who ∨ s.net.any (fun w => decide (w.src = e.val ∧ w.seq = 2 ^ 40 + n)) then .next s
      else if d.kind = 6 then
        let dst := (s.item (s.engine e).item).engines.getD (bits d.x3.toNat 0 8) 0
        .next (fin (s.addToken dst (bits d.x3.toNat 8 5) (bits d.x3.toNat 13 8)))
      else .next (fin s)
    else if d.fate = .hostWait then
      let want := 32 * d.x2.toNat
      let got : Option (Bytes × Bool) :=
        if s.isHead then (match rd with | .ok b p => some (b, p) | _ => none)
        else if s.awaiting who then none else some (joinParts d.buf)
      match got with
      | none => .next s
      | some (b, p) =>
        if b.length ≠ want then .next s
        else
          let it := (s.engine e).item
          let s1 := ((s.dropReads who).noteMark it (if p then 3 else 0) 0x3000).dmaLoad e d (hostUnits b p)
          .next (if ((s1.engine e).dma.find? (fun x => x.id == n)).any (fun x => decide (x.fate = .good)) then fin s1 else s1)
    else .next s

/-- Record a failed host read (R474, R475): 8 bytes of IOVA and one byte naming the requester. -/
def State.hostFailed (s : State) (iova req : Nat) (tenant : Option Nat) : State :=
  (s.count rHOST_TIMEOUT 1).raise 0x5001 0 tenant [(8, iova), (1, req)]

/-- DMA_FAILURE (R198, R200): a transfer that cannot complete stops the work item without its token. A PROG_FAULT it raises names the bundle
that the engine issues next (log 144). -/
def execDmaFailure (e : EngId) (n : Nat) (rd : HostRead) (s : State) : Host.Outcome State Fault Refusal :=
  match (s.engine e).dma.find? (fun x => x.id == n) with
  | none => .next s
  | some d =>
    let it := (s.engine e).item
    let t := (s.item it).tenant
    let s1 := (s.dropDma e n).dropReads (.dma e n)
    let fate : DmaFate := if d.fate = .hostWait ∧ s.isHead then
        (match rd with | .failed => .hostFail | .range => .hostRange | .undelivered => .undelivered | .ok _ _ => .hostWait) else d.fate
    match fate with
    | .tagFail => .next ((s1.raise 0x2004 0 (some t) []).stopItem it stFORMAT_MISMATCH 0x2004)
    | .index => .next (s1.progFault e fkHOST_RANGE)
    | .hostRange => .next (s1.progFault e fkHOST_RANGE)
    | .hostFail => .next ((s1.hostFailed (addr32 d.x0) 2 (some t)).stopItem it stHOST_TIMEOUT 0x5001)
    | .undelivered => .next (s1.stopItem it stFABRIC_UNREACHABLE 0)
    | .refused => .next s1
    | _ => .next s

/-! ### Writes of other engines (R192, R193, R273, R274, R284) -/

/-- The bytes of its store that a network write touches, from the first to behind the last. -/
def NetW.extent (w : NetW) : StoreId × Nat × Nat :=
  match w.kind with
  | .plain x => (x.store, x.bytes.foldl (fun m p => min m p.1) (2 ^ 40), x.bytes.foldl (fun m p => max m (p.1 + 1)) 0)
  | .acw row _ _ _ => (.loam, 256 * row, 256 * row + 256)

/-- NETWORK_WRITE_ARRIVAL (R25, R26, R273): the oldest write of one engine to another is carried out at its destination; where an access of
the engine that came first is being repeated, the write receives BUSY and comes again (R276). -/
def execNetworkWriteArrival (src dst : EngId) (s : State) : Host.Outcome State Fault Refusal :=
  match takeFirst (fun w => decide (w.src = src.val ∧ w.dst = dst.val)) s.net with
  | none => .next s
  | some (w, rest) =>
    let (id, lo, hi) := w.extent
    if !s.mayArrive (netPath src dst) w.wire then .next s
    else if (s.engine dst).goesFirst id lo hi true then .next (s.noteRace dst id)
    else .next ((({ s with net := rest } : State).netServed (netPath src dst) w.wire).deliverWrite w)

/-! ### Write-backs, checkers, scrub (R261 to R265, R285, R290, R291) -/

/-- Drop a pending write-back: the word is clean again. -/
def Store.writeBack (st : Store) (word : Nat) : Store :=
  if st.wb.contains word then { st with wb := st.wb.filter (· != word), errs := SMap.erase st.errs word } else st

/-- KAOLIN_WRITEBACK (R285): a corrected word of the Kaolin store, or of the Loam store, is written back. -/
def execKaolinWriteback (e : EngId) (loam : Bool) (word : Nat) (s : State) : Host.Outcome State Fault Refusal :=
  let en := s.engine e
  let id : StoreId := if loam then .loam else .kaolin
  let fix := fun (c : Core) => c.setStore id ((c.store id).writeBack word)
  .next (s.setEngine e { en with core := fix en.core, snap := fix en.snap })

/-- The checker reads the rows of its block that no access has read since it opened (R261, R265). -/
def Engine.checkRest (en : Engine) (free xc : Nat) : Engine :=
  let x := en.snap.x xc
  let stored := field (Memory.readN (en.snap.kaolin.dirty free) x.base 512) 8 4
  let rest := ((List.range (blockRows stored x.extent)).map (· + x.base / 256)).filter (fun r => !x.rows.contains r)
  let read := fun (c : Core) => rest.foldl (fun (e : Engine) r => e.tookRead .kaolin (Store.read e.core.kaolin .kaolin free (256 * r) 256)) { core := c }
  let a := read en.core
  { en with core := a.core, snap := (read en.snap).core, staged := en.staged ++ a.staged }

/-- CHECKER_DONE (R261 to R263): a checker's verdict; an XOPEN that waited for it opens its block. -/
def execCheckerDone (e : EngId) (xc : Fin 2) (cycles : Nat) (s : State) : Host.Outcome State Fault Refusal :=
  let en0 := s.engine e
  let x := en0.snap.x xc
  if !x.checking then .next s
  else
    let en1 := en0.checkRest s.freeCtr xc
    let s0 := (s.setEngine e { en1 with staged := en0.staged }).stageAll e (en1.staged.drop en0.staged.length)
    let en := s0.engine e
    let km := en.snap.kaolin.dirty s.freeCtr
    let h := Memory.readN km x.base 512
    let bad := if x.failed then none else checkBlock km h x.base
    let done := fun (c : Core) => c.setX xc { c.x xc with checking := false }
    let fail := fun (c : Core) => done (c.failBlock xc (blockRows (field h 8 4) x.extent) 1)
    let s1 := match bad with
      | none => s0.setEngine e { en with core := done en.core, snap := done en.snap }
      | some (sub, chk) =>
        (((s0.setEngine e { en with core := fail en.core, snap := fail en.snap }).count (engOff e oXP_FAIL) 1).addStatus en.item
          stDECODE_ERROR 0x2001).raise 0x2001 0 (some (s.item en.item).tenant)
            [(1, e), (4, x.base), (4, x.tensorTag), (4, x.blockIndex), (1, sub), (1, chk)]
    match en.hold.findSome? (fun q => match q with | .checker c y => if c = xc.val then some y else none | _ => none) with
    | none => .next s1
    | some y =>
      let en2 := s1.engine e
      let s2 := s1.setEngine e { en2 with core := en2.core.setX xc y, snap := en2.snap.setX xc y, hold := en2.hold.filter (fun q => decide (q ≠ .checker xc y)) }
      .next ((s2.holdEnds e oSTALL_QUEUE cycles false).settle e 16)

/-- Rows that corrected most often, highest first. -/
def worstRows (l : List (Nat × Nat)) : List Nat :=
  ((l.foldl (fun acc p => insDesc (fun q => (q.1 : Int)) (p.2, p.1) acc) []).map (·.2)).take 3

/-- KAOLIN_SCRUB (R290, R291): read the next row, correct it, and close the pass after the last row; outside its bounded slice scrub yields
to an access of the DMA or network port to its bank (R273, R545). -/
def execKaolinScrub (e : EngId) (s : State) : Host.Outcome State Fault Refusal :=
  let en := s.engine e
  let off := engOff e 0x178
  if en.st = .clearing ∨ s.getField (0x10100 + 8 * (e.val / 24)) 32 3 = 4 then .next s
  else
    let row := s.getField off 0 13
    let words := en.snap.kaolin.errs.filter (fun kv => decide (8 * row ≤ kv.1 ∧ kv.1 < 8 * row + 8))
    if s.extBusy e .kaolin row ∧ !s.bgSlice.contains e.val then .next (s.count (engOff e oBANKC_K_SCRUB) 1)
    else
    let (_, s1) := s.extRead e srcScrub .kaolin (256 * row) 8
    let fixed := words.filter (fun kv => decide (eccClass .kaolin (popcount 256 kv.2) 0 = 1))
    let en1 := s1.engine e
    let wash := fun (c : Core) => { c with kaolin := fixed.foldl (fun st kv => st.writeBack kv.1) c.kaolin }
    let ce := if fixed.isEmpty then en1.scrubCe else en1.scrubCe ++ [(row, fixed.length)]
    let s2 := s1.setEngine e { en1 with core := wash en1.core, snap := wash en1.snap, scrubCe := ce }
    if row < 8191 then .next (s2.setField off 0 13 (row + 1))
    else
      let n := (ce.map (·.2)).sum
      let lim := s2.getField (engOff e oSTORE_CTRL) 16 8
      let s3 := ((s2.setField off 0 13 0).setField off 16 16 (s2.getField off 16 16 + 1)).setField off 32 16 (satN 16 n)
      let s4 := (s3.setEngine e { s3.engine e with scrubCe := [] }).bgDone 0 e
      .next (if lim ≠ 0 ∧ lim < n then s4.raise 0x3101 0 none ((1, e.val) :: (4, n) :: (worstRows ce).map (fun r => (2, r))) else s4)

/-- YIELD_OVERRUN (R140): the watchdog's count, with the cycles of the running stall, is beyond its limit; that stall is counted (R156). -/
def execYieldOverrun (e : EngId) (cycles : Nat) (s : State) : Host.Outcome State Fault Refusal :=
  let en := s.engine e
  let waiting := en.hold.any (fun h => match h with | .wait _ _ _ y => y | _ => false)
  let extra := if en.hold.isEmpty ∨ waiting then 0 else cycles - en.held
  if en.st ≠ .running ∨ en.wd + extra ≤ s.getField (engOff e oYWD_LIMIT) 0 24 then .next s
  else
    let s1 := (en.hold.map Hold.counter).eraseDups.foldl (fun s off => s.holdEnds e off cycles false) s
    .next ((s1.setEngine e { s1.engine e with hold := [] }).progFault e fkYIELD_OVERRUN)

end Sys2Proof.Machine
end

