-- ==== Sys2Proof/Machine/Quadrant.lean ====
section
/-! DEFINITION. Quadrants: clocks, power states, the warm reserve (R141, R503, R567 to R570), and what a start asks of them. -/

namespace Sys2Proof.Machine

def rPWR_CTRL : Nat := 0x10000
def rPWR_STATUS : Nat := 0x10008
def rSRV_CTRL : Nat := 0xB0000
def rSRV_POOLS : Nat := 0xB0008
def rSRV_LIMITS : Nat := 0xB0010

def State.setQState (s : State) (q st : Nat) : State :=
  let s1 : State := { s with qSince := SMap.set s.qSince q s.now }
  s1.setField (qclkOff q) 32 3 st

/-- An engine runs a work item or clears. -/
def State.engBusy (s : State) (e : Nat) : Bool :=
  let st := (s.engine e).st
  decide (st = .running ∨ st = .ending ∨ st = .yielded ∨ st = .clearing)

def State.quadBusy (s : State) (q : Nat) : Bool := (quadEngines q).any s.engBusy

/-- An engine in service: ENG_STORE_CTRL.EN set and CLEAR_FAIL clear (R497, R623). -/
def State.inService (s : State) (e : Nat) : Bool :=
  decide (s.getField (engOff e oSTORE_CTRL) 24 1 = 1) && decide (s.getField (engOff e oSTORE_CTRL) 26 1 = 0) && !(s.engine e).clrFail

/-- The module has decided to reset a quadrant (R596): its PLL lost lock, or an engine whose clear failed waits for it. -/
def State.resetDue (s : State) (q : Nat) : Bool :=
  s.pllLost.contains q || s.eng.any (fun kv => kv.2.clrFail && quadOf kv.1 == q && !s.clrDead.contains kv.1)

/-- An available engine, one with EN set (R497). -/
def State.isAvail (s : State) (e : Nat) : Bool := decide (e < 192) && decide (s.getField (engOff e oSTORE_CTRL) 24 1 = 1)
/-- E: the number of available engines. -/
def State.availCount (s : State) : Nat := ((List.range 192).filter s.isAvail).length

/-! ### The warm reserve (R503) -/

/-- The smallest set of quadrants that holds WARM available engines: fullest first, lower number first (log 36). -/
def warmSet (counts : List (Nat × Nat)) (warm : Nat) : List Nat :=
  (counts.foldl (fun (acc : List Nat × Nat) p => if acc.2 < warm then (acc.1 ++ [p.2], acc.2 + p.1) else acc) ([], 0)).1

def State.warmQuads (s : State) : List Nat :=
  let c := (List.range 8).map (fun q => (((quadEngines q).filter s.isAvail).length, q))
  let sorted := c.foldl (fun l p => insDesc (fun q => (q.1 : Int)) p l) []
  warmSet (sorted.filter (fun p => decide (0 < p.1))) (s.getField rSRV_LIMITS 32 8)

def State.isWarm (s : State) (e : Nat) : Bool := s.warmQuads.contains (quadOf e)

/-! ### Clocks (R141, R567) -/

/-- The grade's maximum clock in 10 MHz units (R1, R618). -/
def State.gradeClk (s : State) : Nat := s.getField 0x10 1 8

/-- The clock that a YMAX asks for: YMAX / 3.6 µs in 10 MHz units, rounded up. -/
def needClk (ymax : Nat) : Nat := ceilDiv ymax 36

/-- The highest clock that the programs running on a quadrant ask for. -/
def State.runNeed (s : State) (q : Nat) : Nat :=
  (quadEngines q).foldl (fun m e => if s.engBusy e ∧ (s.engine e).item ≠ 0 then max m (needClk (s.item (s.engine e).item).hdr.ymax) else m) 0

/-- WARM_CLK, clamped to the grade (R511). -/
def State.warmClk (s : State) : Nat := min (s.getField rSRV_CTRL 8 8) s.gradeClk

/-- CEIL of a quadrant (R567): the lower of the two ceilings; outside the thermal-critical state never below F_need. -/
def State.refreshCeil (s : State) (q : Nat) : State :=
  let c := min (SMap.get s.supply.limCeil q 200) (SMap.get s.supply.thermCeil q 200)
  s.setField (qclkOff q) 24 8 (if 2 ≤ s.getField rPWR_STATUS 3 2 then c else max c (s.getField (qclkOff q) 16 8))

/-- Set F_need of a quadrant for its running programs and a start that waits (R567); a floor above the grade is clamped and
reported. -/
def State.setNeed (s : State) (q extra : Nat) : State :=
  let warm := decide (q ∈ s.warmQuads)
  let need := max (max (s.runNeed q) extra) (if warm then s.getField rSRV_CTRL 8 8 else 0)
  let g := s.gradeClk
  let s1 := ((s.setField (qclkOff q) 16 8 (min need g)).setField (qclkOff q) 35 1 (if warm then 1 else 0)).refreshCeil q
  if need ≤ g then s1
  else ((s1.setField (qclkOff q) 36 1 1).setField rPWR_STATUS 8 1 1).raise 0x6008 0 none [(1, q), (1, need)]

/-- The clock f of R567 that a quadrant ramps to. -/
def State.targetClk (s : State) (q : Nat) : Nat :=
  let req := max (s.getField (qclkOff q) 0 8) 40
  min (min s.gradeClk (s.getField (qclkOff q) 24 8)) (max req (s.getField (qclkOff q) 16 8))

/-! ### Gating and wake (R128, R569) -/

/-- A quadrant on which no engine runs or clears, and for which no work waits, is gated (R569). -/
def State.gateIdle (s : State) : State :=
  (List.range 8).foldl (fun s q =>
    if s.qState q = 0 ∧ !s.quadBusy q ∧ !s.wakeReq.contains q then (s.setNeed q 0).setQState q 1 else s.setNeed q 0) s

/-- The dispatcher asks for quadrants: they are to wake, at a clock (R128, R141). -/
def State.askQuads (s : State) (qs : List Nat) (clk : Nat) : State :=
  qs.foldl (fun s q => (({ s with wakeReq := if s.wakeReq.contains q then s.wakeReq else q :: s.wakeReq } : State).setNeed q clk)) s

/-- Quadrants are awake at a clock. -/
def State.quadsReady (s : State) (qs : List Nat) (clk : Nat) : Bool := qs.all (fun q => decide (s.qState q = 0) && decide (clk ≤ s.qCur q))

def State.quadsTaken (s : State) (qs : List Nat) : State := { s with wakeReq := s.wakeReq.filter (fun q => !qs.contains q) }

end Sys2Proof.Machine
end

