-- ==== Sys2Proof/Machine/Prog.lean ====
section
/-! DEFINITION. Program images: their parts and the checks of a load (R147 to R151). -/

namespace Sys2Proof.Machine

def imgBundles (b : Bytes) : Nat := field b 0x0C 4
def imgYOff (b : Bytes) : Nat := field b 0x20 4
def imgYCount (b : Bytes) : Nat := field b 0x24 2
def imgPCount (b : Bytes) : Nat := field b 0x26 2
def imgPOff (b : Bytes) : Nat := field b 0x28 4

/-- Yield descriptor `i` and parameter entry `i` of an image. -/
def imgY (b : Bytes) (i : Nat) : Bytes := (b.drop (imgYOff b + 24 * i)).take 24
def imgP (b : Bytes) (i : Nat) : Bytes := (b.drop (imgPOff b + 16 * i)).take 16

/-- The facts of a header that running the image needs. -/
def hdrOf (b : Bytes) : Hdr :=
  ⟨imgBundles b, field b 0x10 4, field b 0x14 2, field b 0x16 2, field b 0x18 4, field b 0x1C 4, field b 0x2C 4, field b 0x30 4, field b 0x34 4⟩

def ydesc (y : Bytes) : YDesc := ⟨field y 0 4, field y 4 4, field y 8 2, field y 0x0A 2, field y 0x0C 1, field y 0x10 4⟩
def ydsOf (b : Bytes) : List YDesc := (List.range (imgYCount b)).map (fun i => ydesc (imgY b i))

/-- The frame size of a yield descriptor (R148). -/
def YDesc.size (y : YDesc) : Nat := 17376 + 256 * y.loamRows + 40960 * popcount 4 y.liveTiles + 2048 * popcount 32 y.liveSets

/-- Two byte ranges do not overlap. -/
def apart (a n b m : Nat) : Bool := decide (n = 0 ∨ m = 0 ∨ a + n ≤ b ∨ b + m ≤ a)

def rising : List Nat → Bool
  | a :: b :: t => decide (a < b) && rising (b :: t)
  | _ => true

/-- The number of the first check of R151 that an image fails; `n` is BYTES of the load, `grade` the grade's YMAX limit of R139,
`sizes` the sizes of the Kaolin, Loam, table and instruction stores. An empty parameter table too must start within IMAGE_BYTES
(log 156). -/
def imageFault (b : Bytes) (n grade : Nat) (sizes : Nat × Nat × Nat × Nat) : Option Nat :=
  let nb := imgBundles b
  let ny := imgYCount b
  let np := imgPCount b
  let size := field b 8 4
  let ys := (List.range ny).map (imgY b)
  let ps := (List.range np).map (imgP b)
  let yd := ys.map ydesc
  let yf := field b 0x1C 4
  let le := field b 0x14 2
  let gs := field b 0x16 2
  let z := fun (x : Bytes) (o k : Nat) => decide (field x o k = 0)
  if !decide (64 ≤ n ∧ n = size) then some 1
  else if !decide (field b 0 4 = 0x54455A48 ∧ field b 4 2 = 1 ∧ field b 0x38 4 = crc32c (b.take 0x38 ++ [0, 0, 0, 0] ++ (b.drop 0x3C).take 4)) then some 2
  else if !decide (1 ≤ nb ∧ 64 * nb ≤ sizes.2.2.2 ∧ 1 ≤ ny ∧ ny ≤ 1024 ∧ np ≤ 28) then some 3
  else if !(decide (64 + 64 * nb ≤ size ∧ imgYOff b + 24 * ny ≤ size ∧ imgPOff b + 16 * np ≤ size)
      && apart 64 (64 * nb) (imgYOff b) (24 * ny) && apart 64 (64 * nb) (imgPOff b) (16 * np)
      && apart (imgYOff b) (24 * ny) (imgPOff b) (16 * np)) then some 4
  else if !(decide (field b 6 2 < 4) && z b 0x3C 4 && ys.all (fun y => decide (field y 0x0C 1 < 16) && z y 0x0D 3 && z y 0x14 4)
      && ps.all (fun p => z p 0x0E 2)) then some 5
  else if !decide (1 ≤ le ∧ le ≤ 192) then some 6
  else if !decide ((gs = 0 ∨ (2 ≤ gs ∧ gs ≤ 24)) ∧ (gs = 0 ∨ le % gs = 0)) then some 7
  else if !(decide (field b 0x10 4 < nb) && yd.all (fun y => decide (y.bundle < nb ∧ y.resume < nb))) then some 8
  else if !(rising (yd.map (·.bundle)) && yd.all (fun y => decide (y.size ≤ yf)) && decide (yf ≤ 196608)) then some 9
  else if !(ps.all (fun p => decide (4 ≤ field p 2 1 ∧ field p 2 1 ≤ 31 ∧ field p 0 2 ≤ 27 ∧ field p 3 1 ≤ 4 ∧ 1 ≤ field p 0x0C 2 ∧ field p 8 4 ≤ field p 4 4))
      && dupFree (ps.map (fun p => field p 0 2))) then some 10
  else if !decide (field b 0x18 4 ≤ grade) then some 11
  else if !decide (field b 0x2C 4 ≤ sizes.1 ∧ field b 0x30 4 ≤ sizes.2.1 ∧ field b 0x34 4 ≤ sizes.2.2.1) then some 12
  else none

/-- Store sizes of the product (R269): Kaolin 2 MiB, Loam 1 MiB, table file 64 KiB, instruction store 128 KiB. -/
def State.storeSizes (s : State) : Nat × Nat × Nat × Nat :=
  (s.getField 0x80000 0 28, s.getField 0x80000 32 28, s.getField 0x80008 0 28, s.getField 0x80008 32 28)

/-- The grade's limit of YMAX (R139): 90% of 4 µs at the maximum clock. -/
def State.ymaxLimit (s : State) : Nat := 36 * s.gradeClk

/-- The check of R150 on parameter values. -/
def paramsOk (b : Bytes) (vals : List Nat) : Bool :=
  (List.range (imgPCount b)).all (fun i =>
    let p := imgP b i
    let v := vals.getD (field p 0 2) 0
    decide (field p 8 4 ≤ v ∧ v ≤ field p 4 4 ∧ v % field p 0x0C 2 = 0))

/-- Scalars S4–S31 that the parameters give (R118, R150). -/
def paramRegs (b : Bytes) (vals : List Nat) : List (Nat × Nat) :=
  (List.range (imgPCount b)).map (fun i => let p := imgP b i; (field p 2 1, vals.getD (field p 0 2) 0))

/-- Norm-watch indices and stream handles that an image's RQ slots name: CVT and ANP words (R106, R228). -/
def imgSlot (b : Bytes) (n k : Nat) : W64 := BitVec.ofNat 64 (field b (64 + 64 * n + 8 * k) 8)

end Sys2Proof.Machine
end

