-- ==== Sys2Proof/Machine/Disp.lean ====
section
/-! DEFINITION. The dispatcher: which engines are free, which work item starts next, starting, ending, stopping and completing
work items (R118, R128, R141, R152 to R154, R203, R451, R497 to R509), suspension (R142 to R145) and expert work (R351, R352). -/

namespace Sys2Proof.Machine

/-! ### Free engines -/

/-- An engine in service that holds no work item and does not clear, in a quadrant that is not to be reset (R596). -/
def State.freeEng (s : State) (e : Nat) : Bool :=
  decide (e < 192) && s.inService e && decide ((s.engine e).st = .idle) && decide ((s.engine e).item = 0) && !s.resetDue (quadOf e)

/-- The free engines that the moves still scheduled take, the lowest-numbered of the losing pool (R498, R499). -/
def State.reserved (s : State) : List Nat :=
  ((List.range 192).filter (fun e => s.freeEng e && decide ((s.engine e).pool ≠ s.movesUp))).take s.moves

/-- Engines that work may be assigned to. -/
def State.freeSet (s : State) : List Nat :=
  let r := s.reserved
  (List.range 192).filter (fun e => s.freeEng e && !r.contains e)

/-- The pool of a work item: true for the decode pool (R497). -/
def WorkItem.decode (w : WorkItem) : Bool :=
  match w.srv with
  | some sv => !sv.prefill
  | none => w.job.isSome

/-- An engine ready for a work item: cleared, not bound to another tenant, the image in its store (R152, R292). -/
def State.engReady (s : State) (w : WorkItem) (e : Nat) : Bool :=
  let en := s.engine e
  en.clearedOnce && (en.bound == none || en.bound == some w.tenant) && en.resident == some w.image

/-- Groups stay within one quadrant (R134). -/
def sameQuads (gs : Nat) (l : List Nat) : Bool :=
  gs = 0 || (List.range (l.length / gs)).all (fun g => (dedup (((l.drop (g * gs)).take gs).map quadOf)).length == 1)

/-- An assignment: as many distinct free engines as the program asks for, groups within quadrants. -/
def State.assignOk (s : State) (w : WorkItem) (engines : List Nat) : Bool :=
  decide (engines.length = w.hdr.logical) && dupFree engines && sameQuads w.hdr.group engines && engines.all (fun e => s.freeSet.contains e)

/-- Some assignment of a work item finds engines among those that satisfy a test. -/
def canPlace (w : WorkItem) (p : Nat → Bool) : Bool :=
  let gs := w.hdr.group
  if gs = 0 then decide (w.hdr.logical ≤ ((List.range 192).filter p).length)
  else decide (w.hdr.logical / gs ≤ ((List.range 8).map (fun q => ((quadEngines q).filter p).length / gs)).sum)

/-! ### What may start -/

/-- Module-wide conditions of a start: no freeze, no trip, no fatal fault (R534, R577, R580). -/
def State.mayRun (s : State) : Bool := !s.frozen && !s.fatal && !s.supply.tripPin && decide (s.getField rPWR_STATUS 3 2 ≠ 3)

/-- A channel with room in its completion ring (R460). -/
def Chan.room (c : Chan) : Bool := c.recs.isEmpty && decide ((c.cqPi + 2 ^ 32 - c.cqCi) % 2 ^ 32 < 2 ^ c.cqLog)

/-- A speculative predictor of a channel (R372). -/
def State.speculates (s : State) (ch : Nat) : Bool := s.preds.any (fun (k, p) => decide (k / 64 = ch ∧ p.mode = 2) && !p.fallen)

/-- The evaluations of R371 that a work item still owes. -/
def WorkItem.owesEval (w : WorkItem) : Bool :=
  !w.audits.isEmpty || !w.retPairs.isEmpty || w.skips.any (fun t => decide (t.1 < 64) && !w.evald.contains t.1)

/-- What R451 and R372 ask of an earlier work item of the channel. -/
def priorOk (spec : Bool) (w v : WorkItem) : Bool :=
  decide (v.phase ≠ .waiting) && (!w.ordered || decide (v.phase = .complete)) &&
    (!spec || ((decide (v.phase = .ended) || decide (v.phase = .complete)) && !v.owesEval))

/-- A waiting work item that lacks nothing but engines. -/
def State.mayStart (s : State) (w : WorkItem) : Bool :=
  decide (w.phase = .waiting) && !w.barWait && s.mayRun && (decide (w.tc = 0) || decide (s.getField rPWR_STATUS 6 1 = 0)) &&
    (w.job.isSome || (match SMap.find? s.chans w.chan with
      | some c => decide (c.st = .active) && c.room &&
          s.items.all (fun (_, v) => v.job.isSome || decide (v.chan ≠ w.chan) || decide (w.step ≤ v.step) || priorOk (s.speculates w.chan) w v)
      | none => false))

/-! ### Starting -/

/-- The core at a program's entry (R118, R153): the stores stay. -/
def entryCore (w : WorkItem) (img : Bytes) (logical : Nat) (c : Core) : Core :=
  let put := fun (m : SMap W64) (p : Nat × Nat) => SMap.put m p.1 (BitVec.ofNat 64 p.2)
  { pc := w.hdr.entry, loam := c.loam, kaolin := c.kaolin, table := c.table,
    scal := ([(0, logical), (1, w.hdr.logical), (2, w.step), (3, w.tensors)] ++ paramRegs img w.params).foldl put [] }

/-- ENG_YWD_LIMIT at a start or resume (R624). -/
def State.setYwd (s : State) (e : Nat) : State := s.setField (engOff e oYWD_LIMIT) 0 24 (40 * s.qCur (quadOf e))

/-- An engine with nothing under way: no bundle open, nothing stalled, sent or owed. -/
def Engine.atRest (en : Engine) : Engine :=
  { en with issued := [], acc := [], staged := [], closed := none, yieldB := 0, stall := 0, redo := false, bubbles := 0, held := 0, cyc := 0,
            holdAt := 0, atYield := false, selfAcw := [], hold := [], wd := 0, queue := [], unacked := [], acks := [], dma := [], outstanding := 0 }

/-- Start one engine of a work item. -/
def State.startEng (s : State) (k : Nat) (w : WorkItem) (img : Bytes) (e logical : Nat) : State :=
  let en := s.engine e
  let c := entryCore w img logical en.core
  let s1 := s.setEngine e { en.atRest with
    st := .running, item := k, logical := logical, core := c, snap := c, bound := some w.tenant, satmap := w.satmap }
  (s1.setField (engOff e oSTORE_CTRL) 0 16 w.satmap).setYwd e

/-- Start a work item on engines, or ask for their quadrants first (R128, R141). Whether it started. -/
def State.tryStart (s : State) (k : Nat) (engines : List Nat) : State × Bool :=
  let w := s.item k
  let qs := dedup (engines.map quadOf)
  let clk := needClk w.hdr.ymax
  if !s.quadsReady qs clk then (s.askQuads qs clk, false)
  else
    let img := (SMap.get s.images w.image ⟨0, []⟩).bytes
    let s1 := engines.zipIdx.foldl (fun s (e, i) => s.startEng k w img e i) (s.quadsTaken qs)
    let s2 := s1.setItem k { w with phase := .running, engines := engines, started := s.now, runAt := s.now, thr0 := s.thr }
    let s3 := if w.job.isSome then s2 else s2.setChan w.chan { s2.chan w.chan with lastStart := s.now }
    (qs.foldl (fun s q => s.setNeed q 0) s3, true)

/-! ### The order of starts (R501) -/

/-- A waiting work item whose pool holds enough free engines. -/
def State.fits (s : State) (w : WorkItem) : Bool :=
  decide (w.hdr.logical ≤ (s.freeSet.filter (fun e => (s.engine e).pool == w.decode)).length)

/-- The predictor row that a bundle carries (R350, R373). -/
def hdrRow (hdr : Bytes) : Option (Nat × PredView) :=
  let b := field hdr 0x24 1
  let p := field hdr 0x25 1
  let ch := field hdr 4 4 % 4096
  let mode := b % 4
  if p = 0xFF then none
  else some (p, ⟨if mode = 0 then 0 else if mode = 1 then 1 else 2, decide (mode = 3), bits b 2 2, 1, bits b 4 4, field hdr 0x26 2, field hdr 0x28 8,
    auditId ch p⟩)

/-- The work item that runs the pairs of a job (R351); the values of its parameters are open (log 145). -/
def State.expertItem (s : State) (job : Nat) (j : Job) : WorkItem :=
  let slot := SMap.get s.slots j.slot ⟨64, 0, 0, 0⟩
  let img := (SMap.get s.images slot.prog ⟨0, []⟩).bytes
  { chan := 8192, tenant := field j.hdr 0x15 1 % 64, tc := field j.hdr 3 1 % 4, step := field j.hdr 8 8, image := slot.prog, hdr := hdrOf img,
    yds := ydsOf img, params := (List.range 28).map (fun k => (Config.expertParam j.slot k).toNat), satmap := slot.satmap, tensors := slot.tensors,
    predRow := hdrRow j.hdr, job := some job, announced := s.now }

/-- A job whose slot entry is valid, of the bundle's tenant and of a kept image (R351). -/
def State.slotGood (s : State) (j : Job) : Bool :=
  let slot := SMap.get s.slots j.slot ⟨64, 0, 0, 0⟩
  decide (slot.tenant = field j.hdr 0x15 1 % 64) && (SMap.find? s.images slot.prog).isSome

/-- Expert work that has not started. -/
def State.expertWaits (s : State) : List WorkItem :=
  (s.jobs.filter (fun (_, j) => j.item.isNone && s.slotGood j)).map (fun (k, j) => s.expertItem k j)

/-- Work that waits to start. -/
def State.candidates (s : State) : List WorkItem := (s.items.filter (fun (_, v) => s.mayStart v)).map (·.2) ++ s.expertWaits.filter s.mayStart

/-- TC0 work that waits for engines holds back every other start. -/
def State.tc0Waits (s : State) : Bool := s.candidates.any (fun v => decide (v.tc = 0) && decide (v.hdr.logical ≤ s.availCount))

def wrrKey (s : State) (c : Nat) : Nat := SMap.get s.wrr c 0 * (if c = 1 then 1 else if c = 2 then 4 else 8)

/-- Whether a work item of TC1 to TC3 is one that weighted round-robin serves next in its pool; expert work, which has no channel, goes
with its class (log 146). -/
def State.isNext (s : State) (w : WorkItem) : Bool :=
  let l := s.candidates.filter (fun v => decide (v.tc ≠ 0) && v.decode == w.decode && s.fits v)
  let after := fun (v : WorkItem) => (v.chan + 8192 - SMap.get s.lastCh v.tc 0 - 1) % 4096
  l.all (fun v => decide (v.tc = w.tc) || decide (wrrKey s w.tc < wrrKey s v.tc) || (decide (wrrKey s w.tc = wrrKey s v.tc) && decide (w.tc < v.tc))) &&
    l.all (fun v => decide (v.tc ≠ w.tc) || v.job.isSome || w.job.isSome || decide (after w ≤ after v))

/-- WORK_ITEM_START (R501): the item that the classes' order names starts on free engines of its pool. -/
def execWorkItemStart (item : Nat) (engines : List EngId) (s : State) : Host.Outcome State Fault Refusal :=
  match SMap.find? s.items item with
  | none => .next s
  | some w =>
    let l := engines.map (·.val)
    if w.tc = 0 ∨ w.job.isSome ∨ !s.mayStart w ∨ s.tc0Waits ∨ !s.fits w ∨ !s.isNext w ∨ !s.assignOk w l
        ∨ !(l.all (fun e => (s.engine e).pool == w.decode && s.engReady w e)) then .next s
    else
      let (s1, ok) := s.tryStart item l
      .next (if ok then { s1 with lastCh := SMap.set s1.lastCh w.tc w.chan } else s1)

/-! ### Suspension (R142 to R145, R503) -/

/-- A work item that may be suspended: TC1 to TC3, running, and every engine with a free save area (R142, R301). -/
def State.suspendable (s : State) (w : WorkItem) : Bool :=
  decide (w.tc ≠ 0) && decide (w.phase = .running) && (List.range 8).any (fun st => !(s.mchs st).isEmpty) &&
    w.engines.all (fun e => decide ((s.engine e).saves.length < 16))

/-- The first engine of each lockstep group of a work item; every engine where there are no groups (R134). -/
def WorkItem.heads (w : WorkItem) : List Nat :=
  if w.hdr.group < 2 then w.engines else (List.range (w.engines.length / w.hdr.group)).map (fun i => w.engines.getD (i * w.hdr.group) 0)

/-- An engine stalls in a waiting yield point. -/
def Engine.waits (en : Engine) : Bool := en.hold.any (fun h => match h with | .wait _ _ _ y => y | _ => false)

/-- Ask a work item to stop at its yield points; a group of which a member waits at the yield point where all stand has reached it (R137,
R142). -/
def State.requestSuspend (s : State) (k : Nat) : State :=
  let w := s.item k
  w.heads.foldl (fun s e =>
    let l := s.runners e
    if l.any (fun m => (s.engine m).waits) && l.all (fun m => (s.engine m).standing) then
      l.foldl (fun s m => s.setEngine m { s.engine m with st := .yielded }) s
    else s) (s.setItem k { w with phase := .suspending })

/-- Victims in order: TC3 first, and within a class the most recently started (R503). -/
def insVictim (p : Nat × WorkItem) : List (Nat × WorkItem) → List (Nat × WorkItem)
  | [] => [p]
  | q :: t => if decide (q.2.tc < p.2.tc) || (decide (q.2.tc = p.2.tc) && decide (q.2.started < p.2.started)) then p :: q :: t else q :: insVictim p t

def State.victims (s : State) : List Nat :=
  ((s.items.filter (fun (_, w) => s.suspendable w && w.engines.any s.isWarm)).foldl (fun l p => insVictim p l) []).map (·.1)

/-- Warm-reserve engines that are free or will be once the suspensions asked for are done. -/
def State.warmComing (s : State) : Nat :=
  (s.freeSet.filter s.isWarm).length
    + (s.items.foldl (fun n (_, w) => n + if w.phase = .suspending then (w.engines.filter s.isWarm).length else 0) 0)

/-- Ask victims until enough warm-reserve engines will be free. -/
def State.askVictims (s : State) (want : Nat) : List Nat → State
  | [] => s
  | v :: t => if want ≤ s.warmComing then s else (s.requestSuspend v).askVictims want t

/-! ### TC0 (R502 to R505) -/

/-- Charge of a TC0 work item, in millionths of an engine-µs. -/
def WorkItem.charge (w : WorkItem) : Nat := w.hdr.logical * w.service * 10 ^ 6

/-- The reservation bucket now, in the same unit (R502). -/
def State.bucketNow (s : State) (c : Chan) : Nat :=
  let rate := c.share * s.availCount
  min (rate * 10 ^ 7) (c.bucket + rate * (s.now - c.bucketAt))

def State.inShare (s : State) (w : WorkItem) : Bool := decide (w.charge ≤ s.bucketNow (s.chan w.chan))

/-- A TC0 work item within share starts on the warm reserve, where that can hold it. -/
def State.onWarm (s : State) (w : WorkItem) : Bool :=
  s.inShare w && decide (w.hdr.logical ≤ ((List.range 192).filter (fun e => s.isAvail e && s.isWarm e)).length)

/-- Free engines that a work item may run on (R497, R503): of its pool; in the warm reserve for TC0 work within share, those of its pool first;
for expert work of the decode pool first. -/
def State.placeFor (s : State) (w : WorkItem) (e : Nat) : Bool :=
  let pool := (s.engine e).pool == w.decode
  let enough := fun (l : List Nat) => decide (w.hdr.logical ≤ (l.filter (fun x => (s.engine x).pool == w.decode)).length)
  if w.job.isSome then pool || !enough s.freeSet
  else if w.tc = 0 ∧ s.onWarm w then s.isWarm e && (pool || !enough (s.freeSet.filter s.isWarm))
  else pool

/-- Every route of a proxied work item crosses at most one detour and leaves by a port of at least 4 lanes (R406). -/
def State.routeBudget (s : State) (flow : Nat) : Bool :=
  s.isHead || (match s.tables.path s.self flow s.headIx with
    | some p => decide ((p.filter (·.det)).length ≤ 3) &&
        (match p.head? with
         | some h => (match portFor s.tables.view h.m h.dir flow with
           | some (port, _) => decide (4 ≤ popcount 8 (s.getField (0x61008 + 0x100 * port) 3 8))
           | none => false)
         | none => true)
    | none => false)

/-- The conditions of the TC0 bound at a start (R504). -/
def State.boundHolds (s : State) (w : WorkItem) : Bool :=
  let used := s.items.foldl (fun n (_, v) => n + if v.tc = 0 ∧ v.phase = .running then v.hdr.logical else 0) 0
  decide (w.hdr.logical + used ≤ s.getField rSRV_LIMITS 32 8) && decide (needClk w.hdr.ymax ≤ s.warmClk)
    && decide (s.getField rPWR_STATUS 3 2 < 2) && s.routeBudget w.chan
    && decide ((s.insts.filter (fun kv => kv.2.tc == 0)).length ≤ s.getField 0xA0000 8 8)

/-- Account for a started TC0 work item (R502, R505, R511). -/
def State.tc0Account (s : State) (k : Nat) (w : WorkItem) (within bound : Bool) (prev : Nat) : State :=
  let c := s.chan w.chan
  let b := s.bucketNow c
  let rel := if w.barrier.isSome then w.barDeadline else 0
  let ref := max (max w.announced prev) rel
  let loud := !within && (match c.overAt with | some t => decide (t + 10 ^ 7 ≤ s.now) | none => true)
  let s1 := s.setChan w.chan { c with bucket := b - w.charge, bucketAt := s.now, overAt := if loud then some s.now else c.overAt }
  let s2 := (s1.setItem k { s1.item k with refAt := ref, inShare := within, boundOk := within && bound }).count 0xB0040 1
  if within then s2.setField 0xB0060 0 16 (max (s2.getField 0xB0060 0 16) (satN 16 ((s.now - ref) / 100)))
  else
    let s3 := s2.count 0xB0048 1
    if loud then s3.raise 0x8012 (s.handleOf w.chan) (some w.tenant) [(4, s.handleOf w.chan), (4, b / 10 ^ 6)] else s3

/-- TC0_START (R501 to R503). -/
def execTc0Start (item : Nat) (engines : List EngId) (s : State) : Host.Outcome State Fault Refusal :=
  match SMap.find? s.items item with
  | none => .next s
  | some w =>
    let l := engines.map (·.val)
    let within := s.inShare w
    let first := s.items.all (fun (_, v) => decide (v.tc ≠ 0) || v.job.isSome || !s.mayStart v || decide (s.inShare v ≠ within) || decide (w.announced ≤ v.announced))
    if w.tc ≠ 0 ∨ w.job.isSome ∨ !s.mayStart w ∨ !first then .next s
    else
      if s.onWarm w ∧ (s.freeSet.filter s.isWarm).length < w.hdr.logical then .next (s.askVictims w.hdr.logical s.victims)
      else if !(l.all (s.placeFor w)) ∨ !s.assignOk w l ∨ !(l.all (s.engReady w)) then .next s
      else
        let prev := (s.chan w.chan).lastStart
        let (s1, ok) := s.tryStart item l
        .next (if ok then s1.tc0Account item w within (s.boundHolds w) prev else s1)

/-- SUSPEND_REQUEST (R142, R503): the next victim of a TC0 work item within share that lacks warm-reserve engines. -/
def execSuspendRequest (item : Nat) (s : State) : Host.Outcome State Fault Refusal :=
  let lacks := s.items.any (fun (_, w) => decide (w.tc = 0) && w.job.isNone && s.mayStart w && s.onWarm w && decide (s.warmComing < w.hdr.logical))
  .next (if lacks ∧ s.victims.head? = some item then s.requestSuspend item else s)

/-- The parts of a store that a yield frame holds: rows, with their marks and tags. -/
def Store.part (st : Store) (rows : Nat → Bool) : Store :=
  { data := st.data.filter (fun c => rows (c.1 / 256)), marks := SMap.keep st.marks rows, tags := SMap.keep st.tags rows,
    errs := SMap.keep st.errs (fun w => rows (w / 8)), wb := st.wb.filter (fun w => rows (w / 8)) }

/-- Put saved rows over a store. -/
def Store.ovr (st saved : Store) (rows : Nat → Bool) : Store :=
  let keep := fun (r : Nat) => !rows r
  let rest := st.part keep
  { data := saved.data.foldl (fun m c => Memory.write m c.1 c.2) rest.data,
    marks := saved.marks.foldl (fun m kv => SMap.set m kv.1 kv.2) rest.marks,
    tags := saved.tags.foldl (fun m kv => SMap.set m kv.1 kv.2) rest.tags,
    errs := rest.errs, wb := rest.wb }

def YDesc.loamLive (y : YDesc) (r : Nat) : Bool := decide (y.loamFirst ≤ r ∧ r < y.loamFirst + y.loamRows)
def YDesc.setLive (y : YDesc) (r : Nat) : Bool := bit y.liveSets (r / 8)

/-- The core that a yield frame saves (R143): registers, and the live rows, tiles and sets of its yield descriptor; the Kaolin
store, the expander contexts and the compressor are not saved. -/
def frameCore (y : YDesc) (c : Core) : Core :=
  { pc := y.resume, pos := c.pos, branch := c.branch, loops := c.loops, scal := c.scal, vec := c.vec, pred := c.pred, th := c.th, ag := c.ag,
    tk := c.tk, tkSat := c.tkSat, tiles := SMap.keep c.tiles (fun t => bit y.liveTiles t), consumed := c.consumed,
    loam := c.loam.part y.loamLive, table := c.table.part y.setLive }

/-- The yield descriptor of a yield point. -/
def WorkItem.ydAt (w : WorkItem) (b : Nat) : YDesc := (w.yds.find? (fun y => y.bundle == b)).getD ⟨b, b, 0, 0, 0, 0⟩

/-- What the save of the live rows of a store meets, row by row, as reads of the DMA port do (R285, R286, R288, R289): corrected words are
counted; an uncorrectable word or a marked row gives the work item its status; a parity error of the table file marks what is restored. -/
def saveRows (id : StoreId) (free : Nat) (rows : List Nat) (c : Core) : App :=
  rows.foldl (fun (a : App) r =>
    let rd := Store.read (a.core.store id) id free (256 * r) 256
    let c1 := a.core.setStore id ((a.core.store id).afterRead id rd)
    ⟨if id = .table then { c1 with consumed := max c1.consumed rd.mark } else c1,
      a.staged ++ eccStaged id rd.corrected rd.ue ++ (if rd.mark = 0 then [] else [.status (markStatus rd.mark) 0x3100])⟩) ⟨c, []⟩

/-- The rows of a store that hold latent errors or marks, among those that satisfy a test. -/
def Store.badRows (st : Store) (p : Nat → Bool) : List Nat := dedup ((st.errs.map (fun (kv : Nat × Nat) => kv.1 / 8) ++ st.marks.map (fun (kv : Nat × Nat) => kv.1)).filter p)

/-- Whether an engine stands at its yield point with nothing outstanding, or has ended its part (R142, R143). -/
def State.yielded (s : State) (e : Nat) : Bool :=
  let en := s.engine e
  decide (en.st = .done) || (decide (en.st = .yielded) && decide (en.stall = 0) && en.dma.isEmpty && en.unacked.isEmpty && en.queue.isEmpty && !s.qwait.any (fun q => q.eng == e))

/-- Return an engine to the free engines when its work item leaves it. -/
def State.releaseEng (s : State) (e : Nat) : State :=
  let en := s.engine e
  (s.setEngine e { en.atRest with st := .idle, item := 0, logical := 0, satmap := 0 }).setField (engOff e oSTORE_CTRL) 0 16 0

/-- Charge the class of a work item for its engine time (R501), which telemetry counts too, in nanoseconds here (R625). -/
def State.chargeWrr (s : State) (w : WorkItem) : State :=
  let n := w.engines.length * (s.now - w.runAt)
  let s1 := s.tlm (0x400 + 8 * w.tc) n
  if w.tc = 0 then s1 else { s1 with wrr := SMap.set s.wrr w.tc (SMap.get s.wrr w.tc 0 + n) }

/-- The channel handle that events name for a work item: for expert work that of the bundle's header (R350). -/
def State.itemHandle (s : State) (w : WorkItem) : Nat :=
  match w.job with
  | none => s.handleOf w.chan
  | some j => field (SMap.get s.jobs j ⟨[], 0, 0, [], none⟩).hdr 4 4

/-- An engine writes its yield frame and leaves its work item (R143). Of the conditions that held it, only its wait is taken up again
(R145). -/
def State.saveFrame (s : State) (item e : Nat) : State :=
  let en := s.engine e
  let a := en.core.drain s.freeCtr en.satmap
  let y := (s.item item).ydAt en.yieldB
  let b := saveRows .loam s.freeCtr (a.core.loam.badRows y.loamLive) a.core
  let c := saveRows .table s.freeCtr (a.core.table.badRows y.setLive) b.core
  let s1 := ({ s with freeCtr := s.freeCtr + 16777216 } : State).stageAll e ((a.staged ++ b.staged ++ c.staged).filter Staged.isNote)
  let f : Frame := ⟨en.logical, e, frameCore y c.core, en.hold.filter (fun h => match h with | .wait _ _ _ _ => true | _ => false), decide (en.st = .done), y⟩
  let w1 := s1.item item
  let s2 := s1.setItem item { w1 with frames := w1.frames ++ [f] }
  let en2 := s2.engine e
  (s2.setEngine e { en2 with core := c.core, snap := c.core, saves := item :: en2.saves }).releaseEng e

/-- SUSPEND (R143): every engine writes its yield frame and leaves the work item. The event names the item by its 4-byte descriptor sequence
number, 0 for expert work (log 147). -/
def execSuspend (item : Nat) (s : State) : Host.Outcome State Fault Refusal :=
  match SMap.find? s.items item with
  | none => .next s
  | some w =>
    if w.phase ≠ .suspending ∨ !(w.engines.all s.yielded) ∨ s.net.any (fun n => n.item == item) ∨ s.tokens.any (fun t => t.item == item) then .next s
    else
      let s0 := w.heads.foldl (fun s e => if (s.engine e).st = .done then s else s.stallsCut e) s
      let s1 := w.engines.foldl (fun s e => s.saveFrame item e) s0
      let w2 := s1.item item
      let s2 := (s1.setItem item { w2 with phase := .suspended, engines := [], yieldAt := s.now, ran := w2.ran + (s.now - w2.runAt) }).chargeWrr w
      .next (s2.gateIdle.raise 0x5103 (s.itemHandle w) (some w.tenant) [(4, w.desc), (8, s.pav)])

/-- The save areas of a work item's frames become free. -/
def State.dropFrames (s : State) (k : Nat) : State :=
  (s.item k).frames.foldl (fun s f => let en := s.engine f.owner; s.setEngine f.owner { en with saves := en.saves.erase k }) s

/-- RESUME (R145, R624): a suspended work item goes on, on free engines of its pool, by logical index. -/
def execResume (item : Nat) (engines : List EngId) (s : State) : Host.Outcome State Fault Refusal :=
  match SMap.find? s.items item with
  | none => .next s
  | some w =>
    let l := engines.map (·.val)
    let qs := dedup (l.map quadOf)
    let clk := needClk w.hdr.ymax
    if w.phase ≠ .suspended ∨ !s.mayRun ∨ !s.assignOk w l ∨ !(l.all (fun e => ((s.engine e).pool == w.decode || w.job.isSome) && s.engReady w e)) then .next s
    else if !s.quadsReady qs clk then .next (s.askQuads qs clk)
    else
      let s0 := (s.quadsTaken qs).dropFrames item
      let s1 := l.zipIdx.foldl (fun s (e, i) =>
        match w.frames.find? (fun f => f.logical == i) with
        | none => s
        | some f =>
          let en := s.engine e
          let c : Core := { f.core with
            loam := en.core.loam.ovr f.core.loam f.y.loamLive, table := en.core.table.ovr f.core.table f.y.setLive, kaolin := en.core.kaolin }
          let s1 := s.setEngine e { en.atRest with
            st := if f.ending then .done else .running, item := item, logical := i, core := c, snap := c, hold := f.hold, holdAt := s.eff,
            yieldB := f.y.bundle, atYield := true, bound := some w.tenant, satmap := w.satmap }
          (s1.setField (engOff e oSTORE_CTRL) 0 16 w.satmap).setYwd e) s0
      let s2 := s1.setItem item { s1.item item with phase := .running, engines := l, frames := [], runAt := s.now }
      .next (qs.foldl (fun s q => s.setNeed q 0) s2)

/-! ### Images in instruction stores (R152) -/

/-- The work that waits for engines with an image in their stores: waiting and suspended items, and expert work. -/
def State.wanting (s : State) (image : Nat) : List WorkItem :=
  ((s.items.filter (fun (_, w) => decide (w.phase = .waiting) || decide (w.phase = .suspended))).map (·.2) ++ s.expertWaits).filter
    (fun w => decide (w.image = image))

/-- PROGRAM_COPY: the code of an image goes into the store of a free engine where work wants it and the free engines that hold it already do
not suffice, which the dispatcher prefers. -/
def execProgramCopy (e : EngId) (image : Nat) (s : State) : Host.Outcome State Fault Refusal :=
  let en := s.engine e
  let fit := fun (w : WorkItem) (x : Nat) => s.freeSet.contains x && s.placeFor w x && s.engReady w x
  let good := fun (w : WorkItem) =>
    (en.bound == none || en.bound == some w.tenant) && s.placeFor w e && en.resident != some image && !canPlace w (fit w)
  match (s.wanting image).find? good with
  | none => .next s
  | some w =>
    if !s.freeEng e ∨ !en.clearedOnce ∨ 4 ≤ s.qState (quadOf e) then .next s
    else .next (s.setEngine e { en with bound := some w.tenant, resident := some image, istoreErr := [] })

/-! ### Ending (R203, R154) -/

/-- Every engine of a work item has ended: the engines are free, the item goes on to its records. -/
def State.endItem (s : State) (k : Nat) : State :=
  let w := s.item k
  let s1 := w.engines.foldl State.releaseEng s
  let more := if w.engines.isEmpty then 0 else s.now - w.runAt
  ((s1.chargeWrr w).setItem k { s1.item k with phase := .ended, endedAt := s.now, ran := (s1.item k).ran + more, barWait := false }).gateIdle

/-- An instance that an engine sent scores to is still open (R355). -/
def State.owedRows (s : State) (e item : Nat) : Bool :=
  s.insts.any (fun kv => kv.2.item == item && kv.2.parts.any (fun p => p.logical == (s.engine e).logical))

/-- Nothing that an engine issued is still outstanding (R203, R261). -/
def State.partOver (s : State) (e : Nat) : Bool :=
  let en := s.engine e
  decide (en.st = .ending) && en.unacked.isEmpty && en.hold.isEmpty && en.queue.isEmpty && en.dma.isEmpty && en.closed.isNone && decide (en.bubbles = 0) && decide (en.stall = 0)
    && !s.net.any (fun w => decide (w.src = e)) && !s.tokens.any (fun t => decide (t.src = e)) && !s.qwait.any (fun q => q.eng == e)
    && !en.snap.x0.checking && !en.snap.x1.checking && !s.owedRows e en.item

/-- ENGINE_PART_END (R203): the engine's part is over; the last part ends the work item. -/
def execEnginePartEnd (e : EngId) (s : State) : Host.Outcome State Fault Refusal :=
  if !s.partOver e then .next s
  else
    let en := s.engine e
    let a := en.core.drain s.freeCtr en.satmap
    let s1 := ({ s with freeCtr := s.freeCtr + 16777216 } : State).setEngine e { en with core := a.core, snap := a.core, st := .done }
    let s2 := s1.stageAll e (a.staged.filter Staged.isNote)
    let w := s2.item en.item
    .next (if (w.phase = .running ∨ w.phase = .suspending) ∧ w.engines.all (fun m => decide ((s2.engine m).st = .done)) then s2.endItem en.item else s2)

/-- WORK_ITEM_STOP (R154): the other engines stop at their bundle boundaries; what the item still had open ends with it. -/
def execWorkItemStop (item : Nat) (s : State) : Host.Outcome State Fault Refusal :=
  match SMap.find? s.items item with
  | none => .next s
  | some w =>
    if w.phase ≠ .stopping then .next s
    else
      let s1 := w.heads.foldl (fun s e => if (s.group e).all (fun m => decide ((s.engine m).st = .done)) then s else s.haltGroup e) s
      let s2 := s1.closeInsts (fun x => x.item == item)
      let s3 : State := { s2 with qwait := s2.qwait.filter (fun q => q.item != item) }
      let s4 := s3.dropFrames item
      .next ((s4.setItem item { s4.item item with frames := [] }).endItem item)

/-! ### Completion (R457 to R461, R499, R509) -/

/-- Keep the last 64 of a list. -/
def last64 {α : Type} (l : List α) : List α := l.drop (l.length - 64)

/-- What the balancer averages over (R499): engine-µs, and input tokens in the prefill pool. -/
def State.history (s : State) (w : WorkItem) : State :=
  let us := w.hdr.logical * w.ran / 1000
  if w.started = 0 then s
  else if w.decode then { s with decHist := last64 (s.decHist ++ [us]) }
  else { s with preHist := last64 (s.preHist ++ [(us, match w.srv with | some sv => (sv.entries.map (·.ntok)).sum | none => 0)]) }

/-- Measure a TC0 work item against its bound (R509). -/
def State.boundCheck (s : State) (w : WorkItem) : State :=
  if w.tc ≠ 0 ∨ !w.boundOk then s
  else
    let thr := 100 * s.thrUnits w
    let lateS := decide ((if s.isHead then 15000 else 25000) + thr < w.started - w.refAt)
    let lateD := decide (1000 * w.service + 20000 + thr < s.now - w.started)
    let s1 := if lateS then s.count 0xB0050 1 else s
    let s2 := if lateD then s1.count 0xB0058 1 else s1
    if lateS ∨ lateD then s2.raise 0x8013 (s.handleOf w.chan) (some w.tenant)
      [(4, s.handleOf w.chan), (4, w.desc), (4, (w.started - w.refAt) / 100), (4, (s.now - w.started) / 10)]
    else s2

/-- Return every pair of an expert work item (R352): flags and audit counts are those of the pair's place in the item, which token indices of
its decisions name (log 149); an overflow condition of the item gives every pair an SSQ of OVF. -/
def State.returnPairs (s : State) (w : WorkItem) (outs : List ExpertOut) : State :=
  match w.job with
  | none => s
  | some j =>
    match SMap.find? s.jobs j with
    | none => s
    | some jb =>
      let h := field jb.hdr 0x22 2
      let st := w.outcome.1
      let one := fun (p : JobPair) (i : Nat) =>
        match outs.find? (fun o => o.tok == p.tok && o.gid == p.gid) with
        | some o =>
          let a := w.audits.filter (fun a => a.2.1 == i)
          let ssq := lTree ((codes2 h o.row).zipIdx.map (fun (c, i) => (i, (lSqr (fToL fBF16 c)).code)))
          { tok := p.tok, gid := p.gid, status := st, flags := if w.skips.any (fun t => t.2.1 == i && t.2.2) then 1 else 0,
            ssq := if w.normOver.isEmpty then ssq else lOVF, aud := satN 16 (a.map (·.2.2.1)).sum, miss := satN 16 (a.map (·.2.2.2)).sum,
            row := padTo (2 * h) o.row : RetVal }
        | none => RetVal.fail jb.hdr p st
      ({ s with jobs := SMap.erase s.jobs j } : State).giveReturns jb.hdr jb.origin (jb.pairs.zipIdx.map (fun (p, i) => one p i))

/-- A serving step whose entries are all settled after its commit point. -/
def ServeSt.settled (sv : ServeSt) : Bool := sv.commit.isSome && !sv.entries.any (fun e => e.dec.due)

/-- WORK_ITEM_COMPLETE (R203, R352, R459, R461): the records of a work item that has ended; an expert work item returns its
pairs instead. -/
def execWorkItemComplete (item : Nat) (outs : List ExpertOut) (s : State) : Host.Outcome State Fault Refusal :=
  match SMap.find? s.items item with
  | none => .next s
  | some w =>
    if decide (w.phase ≠ .ended) || s.normWaits item || (match w.srv with | some sv => !sv.settled | none => false) then .next s
    else
      let s1 := if w.job.isSome then s.returnPairs w outs
        else match w.srv with
          | none => (s.writeReport item).itemRec item fDONE 0 0 0
          | some sv => if sv.entries.any (fun e => decide (e.dec = .written)) then s else s.itemRec item fDONE 0 0 0
      let s2 := (s1.history w).boundCheck w
      .next ((s2.setItem item { s2.item item with phase := .complete }).retire item)

/-! ### Expert work (R351, R357, R373) -/

/-- EXPERT_WORK_START (R351, R497): the pairs of one instance and slot become an expert work item on free engines, those of the
decode pool first. -/
def execExpertWorkStart (job : Nat) (engines : List EngId) (s : State) : Host.Outcome State Fault Refusal :=
  match SMap.find? s.jobs job with
  | none => .next s
  | some j =>
    let w := s.expertItem job j
    let img := (SMap.get s.images w.image ⟨0, []⟩).bytes
    let refuse := fun (s : State) (st : Nat) =>
      ({ s with jobs := SMap.erase s.jobs job } : State).giveReturns j.hdr j.origin (j.pairs.map (fun p => RetVal.fail j.hdr p st))
    if j.item.isSome then .next s
    else if !s.slotGood j then .next (refuse (j.pairs.foldl (fun s _ => s.raise 0x8002 0 (some w.tenant) []) s) stTENANT_FAULT)
    else if !paramsOk img w.params then .next (refuse s stDESC_INVALID)
    else
      let l := engines.map (·.val)
      if !s.mayStart w ∨ !s.assignOk w l ∨ !(l.all (s.engReady w)) ∨ !(l.all (s.placeFor w)) ∨ (w.tc ≠ 0 ∧ (s.tc0Waits ∨ (s.fits w ∧ !s.isNext w))) then .next s
      else
        let k := s.nextItem
        let s0 : State := { s with nextItem := k + 1, items := SMap.set s.items k w, jobs := SMap.set s.jobs job { j with item := some k } }
        let (s1, ok) := s0.tryStart k l
        if !ok then .next { s1 with nextItem := s.nextItem, items := s.items, jobs := s.jobs }
        else match (if j.origin = 64 * s.rack + s.self then s1.instByHdr j.hdr else none) with
          | none => .next s1
          | some i =>
            let x := SMap.find? s1.insts i
            .next (match x with
              | some x => if x.deadline.isNone then
                  { s1 with insts := SMap.set s1.insts i { x with deadline := some (s1.pav + 1000 * x.deadlineUs), thr0 := s1.thr } } else s1
              | none => s1)

end Sys2Proof.Machine
end

