-- ==== Sys2Proof/Machine/Pool.lean ====
section
/-! DEFINITION. Clearing of engines (R292 to R294, R596) and the pools (R497 to R500). -/

namespace Sys2Proof.Machine

/-! ### Clearing -/

def State.setClearing (s : State) (e : Nat) (b : Bool) : State := s.setField (engOff e oSTORE_CTRL) 25 1 (if b then 1 else 0)

/-- ENGINE_CLEAR (R292, R293): an idle engine begins to clear, once its quadrant is ACTIVE; otherwise the quadrant is asked to
wake. -/
def execEngineClear (e : EngId) (s : State) : Host.Outcome State Fault Refusal :=
  let en := s.engine e
  let q := quadOf e
  if en.st ≠ .idle ∨ en.item ≠ 0 ∨ en.clrFail ∨ s.frozen then .next s
  else if s.qState q ≠ 0 then .next (s.askQuads [q] 0)
  else
    let c : Core := { en.core with x0 := {}, x1 := {}, cmp := none }
    let en1 := { en with st := .clearing, clearAt := s.eff, bound := none, resident := none, core := c, snap := c, queue := [] }
    .next (((s.quadsTaken [q]).setEngine e en1).setClearing e true)

/-- A cleared engine (R292): everything of a tenant is gone; its save areas, its pool and the operator's records stay. -/
def Engine.cleared (en : Engine) : Engine :=
  { pool := en.pool, saves := en.saves, scrubCe := en.scrubCe, clearedOnce := true, clearAt := en.clearAt }

/-- CLEARING_DONE (R293, R596): the engine may take work; after a quadrant reset it is in service again. -/
def execClearingDone (e : EngId) (s : State) : Host.Outcome State Fault Refusal :=
  let en := s.engine e
  if en.st ≠ .clearing ∨ s.frozen ∨ s.qState (quadOf e) ≠ 0 then .next s
  else
    let s1 := ((s.setEngine e en.cleared).setClearing e false).setField (engOff e oSTORE_CTRL) 0 16 0
    let s2 := if en.resetClr then (s1.setField (engOff e oSTORE_CTRL) 24 1 1).setField (engOff e oSTORE_CTRL) 26 1 0 else s1
    .next s2.gateIdle

/-- Report that the available engines no longer meet both minimums (R500). -/
def State.poolLimit (s : State) : State :=
  if s.availCount < s.getField rSRV_LIMITS 0 8 + s.getField rSRV_LIMITS 16 8 then s.raise 0x8015 0 none [] else s

/-- CLEAR_FAIL (R294, R575): clearing has not ended within 3 µs of unstretched time; the engine leaves service. -/
def execClearFail (e : EngId) (s : State) : Host.Outcome State Fault Refusal :=
  let en := s.engine e
  if en.st ≠ .clearing ∨ s.eff ≤ en.clearAt + 3000 then .next s
  else
    let s0 : State := if en.resetClr then { s with clrDead := if s.clrDead.contains e.val then s.clrDead else e.val :: s.clrDead } else s
    let s1 := (s0.setEngine e { en with st := .idle, clearedOnce := false, resetClr := false, clrFail := true }).setClearing e false
    let s2 := (s1.setField (engOff e oSTORE_CTRL) 24 1 0).setField (engOff e oSTORE_CTRL) 26 1 1
    .next ((s2.raise 0x3105 0 none [(1, e.val)]).poolLimit).gateIdle

/-! ### Pools -/

/-- Available engines in the decode pool. -/
def State.decodeSize (s : State) : Nat := ((List.range 192).filter (fun e => s.isAvail e && (s.engine e).pool)).length

/-- ENGINE_POOL_MOVE (R498, R499): the lowest-numbered free engine of the losing pool changes pool. -/
def execEnginePoolMove (e : EngId) (s : State) : Host.Outcome State Fault Refusal :=
  if s.reserved.head? ≠ some e.val then .next s
  else
    let en := s.engine e
    .next ((({ s with moves := s.moves - 1 } : State).setEngine e { en with pool := s.movesUp }).count 0xB0020 1)

def lNat (n : Nat) : Nat := (lOfQ .rne (Q.ofInt n)).code

/-- A mean in L16; an empty list has none. -/
def meanL (a b : Nat) : Nat := if b = 0 then lOVF else (lDiv (lNat a) (lNat b)).code

def clampI (x lo hi : Int) : Int := min (max x lo) hi

/-- The balancer's wish before the limits (R499): none where the L16 arithmetic names no value. -/
def wish (e dq pb td tp : Nat) : Option Int :=
  let x := (lMul (lNat dq) td).code
  let y := (lMul (lNat pb) tp).code
  let d := (lAdd (if dq = 0 then lZERO else x) (if pb = 0 then lZERO else y)).code
  let q := (lDiv (lMul (lMul (lNat e) (lNat dq)).code (if dq = 0 then lZERO else td)).code d).code
  if lIsOvf q then none else some ((lToQ q).round .rne)

/-- The limits applied to a target (R499, R500): where the available engines do not meet both minimums, the decode pool's comes
first. -/
def limited (e dmin dmax pmin pmax dq pb : Nat) (t : Int) : Nat :=
  let t1 : Int := if e < dmin + pmin then min (e : Int) dmin
    else clampI (clampI t dmin dmax) ((e : Int) - pmax) ((e : Int) - pmin)
  let t2 : Int := if 0 < pb ∧ 0 < pmax ∧ (e : Int) - t1 = 0 then (e : Int) - 1 else t1
  let t3 : Int := if 0 < dq ∧ 0 < dmax ∧ t2 = 0 then 1 else t2
  (clampI t3 0 e).toNat

/-- REEL_BALANCER_EVALUATION (R499, R500). -/
def execReelBalancerEvaluation (s : State) : Host.Outcome State Fault Refusal :=
  let e := s.availCount
  let size := s.decodeSize
  let wait := (s.items.filter (fun (_, w) => decide (w.phase = .waiting) && w.job.isNone)).map (·.2)
  let dq := (wait.filter (·.decode)).length
  let pb := ((wait.filter (fun w => !w.decode)).map (fun w => match w.srv with | some sv => (sv.entries.map (·.ntok)).sum | none => 0)).sum
  let td := meanL s.decHist.sum s.decHist.length
  let tp := meanL (s.preHist.map (·.1)).sum (s.preHist.map (·.2)).sum
  let on := decide (s.getField rSRV_CTRL 1 1 = 1)
  let (fr, s0) := s.fresh
  let want : Int := if !on || (decide (dq = 0) && decide (pb = 0)) then (size : Int)
    else (wish e dq pb td tp).getD ((Config.poolTarget fr : Nat) : Int)
  let l := fun (o : Nat) => s.getField rSRV_LIMITS o 8
  let t := limited e (l 16) (l 24) (l 0) (l 8) dq pb want
  let gap := if t < size then size - t else t - size
  let forced := decide ((t : Int) ≠ want)
  let go := decide (0 < gap) && ((on && decide (2 ≤ gap)) || forced)
  .next (({ s0 with moves := if go then min 8 gap else 0, movesUp := decide (size < t) } : State).setField rSRV_POOLS 16 8 t)

end Sys2Proof.Machine
end

