-- ==== Sys2Proof/Machine/Host.lean ====
section
/-! DEFINITION. Channels, the doorbell watcher, descriptor fetch, completion rings and interrupts (R432, R435, R439 to R451, R460,
R461, R474). -/

namespace Sys2Proof.Machine

/-! ### Host data -/

/-- Parts of a read joined in the order of their offsets; the first failed part decides. -/
def joinReads (l : List (ReadWho × Nat × HostRead)) : HostRead :=
  match l.find? (fun p => match p.2.2 with | .ok _ _ => false | _ => true) with
  | some p => p.2.2
  | none =>
    let o := sortIdx (l.zipIdx.map (fun (p, i) => (p.2.1, i)))
    let at_ := fun (i : Nat) => match (l[i]?).map (·.2.2) with | some (.ok b p) => (b, p) | _ => ([], false)
    .ok (o.flatMap (fun (_, i) => (at_ i).1)) (o.any (fun (_, i) => (at_ i).2))

/-- The outcome of a waiter's host read: on the head the operand of the command, unless its time ran out; on another member what
came back through the proxy (R470, R474). -/
def State.hostData (s : State) (who : ReadWho) (rd : HostRead) : Option (HostRead × State) :=
  let parts := s.arrived.filter (fun p => p.1 == who)
  let clr : State := { s.dropReads who with arrived := s.arrived.filter (fun p => !(p.1 == who)) }
  if !parts.isEmpty then (if s.awaiting who then none else some (joinReads parts, clr))
  else if s.isHead && s.awaiting who then some (rd, clr) else none

/-- A read of a waiter is under way, or its data has come. -/
def State.reading (s : State) (who : ReadWho) : Bool := s.awaiting who || s.arrived.any (fun p => p.1 == who)

/-! ### Channels -/

/-- The tenant byte of host accesses of a channel; the admin channel has none. -/
def State.chTenant (s : State) (ch : Nat) : Nat := if ch = 0 then 255 else (s.chan ch).tenant

/-- The key of a channel in the head's watcher: member and index (R448). -/
def State.chKey (s : State) (ch : Nat) : Nat := 4096 * s.self + ch

/-- The open channel that a handle names, or the status of a bad handle (R439, R440). -/
def State.ofHandle (s : State) (h : Nat) : Except Nat Nat :=
  let i := h % 4096
  if bits h 18 6 ≠ 0 ∨ bits h 12 6 ≠ s.self ∨ i = 0 then .error stDESC_INVALID
  else match SMap.find? s.chans i with
    | none => .error stDESC_INVALID
    | some c => if c.gen = h / 2 ^ 24 then .ok i else .error stSTALE_HANDLE

/-- End the work items of a channel that a test names: unstarted ones and running ones other than serving steps complete with
CANCELLED; a serving step goes on to its commit point (R445, R450). -/
def State.endWork (s : State) (ch : Nat) (p : WorkItem → Bool) : State :=
  s.items.foldl (fun s (k, w) =>
    if w.chan ≠ ch ∨ w.job.isSome ∨ !p w then s
    else match w.phase with
      | .waiting => s.stopItem k stCANCELLED 0
      | .running | .suspending | .suspended => if w.srv.isSome then s else s.stopItem k stCANCELLED 0
      | _ => s) s

/-- A channel goes to ERROR (R444, R445). -/
def State.channelError (s : State) (ch cause : Nat) : State :=
  match SMap.find? s.chans ch with
  | none => s
  | some c =>
    if c.st ≠ .active ∧ c.st ≠ .halted then s
    else
      let h := if ch = 0 then 0 else s.handleOf ch
      let s1 := (s.setChState ch .error cause).raise 0x5002 h (if ch = 0 then none else some c.tenant) [(1, cause), (4, c.sqCi)]
      let s2 := if 3 ≤ cause ∧ cause ≤ 5 then (s1.abandonSeqs ch).setChan ch { (s1.abandonSeqs ch).chan ch with recs := [] } else s1
      s2.endWork ch (fun _ => true)

/-! ### Doorbells (R447 to R450) -/

/-- What is wrong with a doorbell word: 1 producer index, 2 epoch (R447); the admin channel's epoch is not looked at (R435). -/
def doorbellBad (c : Chan) (admin : Bool) (pi ep : Nat) : Option Nat :=
  let d := fun (a b : Nat) => (a + 2 ^ 32 - b) % 2 ^ 32
  if 2 ^ c.sqLog < d pi c.sqCi ∨ 2 ^ c.sqLog < d pi c.piLast then some 1
  else if !admin ∧ 2 ^ 31 ≤ d ep c.epoch then some 2
  else none

/-- An epoch is behind another (R450). -/
def behind (e new : Nat) : Bool := let d := (new + 2 ^ 32 - e) % 2 ^ 32; decide (0 < d ∧ d < 2 ^ 31)

/-- An epoch advance takes effect: EPOCH_SEEN is written, older instances close, older work items end (R360, R442, R450). -/
def State.epochAdvance (s : State) (ch ep : Nat) : State :=
  let c := s.chan ch
  let s1 := (s.setChan ch { c with epoch := ep }).hostWr ch c.tc c.tenant true none (c.cb + 0x18) (leBytes 4 ep)
  (s1.closeInsts (fun x => decide (x.chan = ch) && behind x.epoch ep) true).endWork ch (fun w => behind w.epoch ep)

/-- Fetch descriptors and their argument entries, up to 8 and not past the end of the ring (R451). -/
def State.fetch (s : State) (ch : Nat) : State :=
  match SMap.find? s.chans ch with
  | none => s
  | some c =>
    let left := (c.piLast + 2 ^ 32 - c.sqCi) % 2 ^ 32
    let at_ := c.sqCi % 2 ^ c.sqLog
    let n := min (min 8 left) (2 ^ c.sqLog - at_)
    if c.st ≠ .active ∨ c.asked ≠ 0 ∨ n = 0 ∨ s.d3hot ∨ s.fatal ∨ !s.formed then s
    else
      let t := s.chTenant ch
      let s1 := (s.setChan ch { c with asked := n }).hostRd ch c.tc t (.desc ch 0) (c.sq + 64 * at_) (64 * n)
      if c.arg = 0 then s1 else s1.hostRd ch c.tc t (.args ch 0) (c.arg + 256 * at_) (256 * n)

/-- Act on a doorbell word of an own channel read at time `t` (R446, R447). -/
def State.doorbellSeen (s : State) (ch word t : Nat) : State :=
  match SMap.find? s.chans ch with
  | none => s
  | some c =>
    let pi := word % 2 ^ 32
    let ep := word / 2 ^ 32 % 2 ^ 32
    if c.st ≠ .active ∧ c.st ≠ .halted then s
    else match doorbellBad c (decide (ch = 0)) pi ep with
      | some k => (s.raise 0x5000 (if ch = 0 then 0 else s.handleOf ch) (if ch = 0 then none else some c.tenant) [(4, pi), (4, ep)]).channelError ch k
      | none =>
        let s1 := if ch ≠ 0 ∧ ep ≠ c.epoch then s.epochAdvance ch ep else s
        let c1 := s1.chan ch
        (s1.setChan ch { c1 with piLast := pi, announced := if pi = c.piLast then c1.announced else t }).fetch ch

/-- Whether a completion ring is full, and since when (R460). -/
def Chan.fullNow (c : Chan) : Bool := decide (2 ^ c.cqLog ≤ (c.cqPi + 2 ^ 32 - c.cqCi) % 2 ^ 32)
def Chan.refull (c : Chan) (now : Nat) : Chan :=
  { c with fullSince := if c.fullNow then (match c.fullSince with | some t => some t | none => some now) else none }

def State.setCqCi (s : State) (ch ci : Nat) : State :=
  match SMap.find? s.chans ch with
  | some c => s.setChan ch (({ c with cqCi := ci } : Chan).refull s.now)
  | none => s

/-- Consumer words of event rings read with a doorbell (R468). -/
def State.setRingCis (s : State) (cis : List (Nat × Nat)) : State :=
  cis.foldl (fun s (k, ci) => match SMap.find? s.rings k with
    | some r => { s with rings := SMap.set s.rings k { r with ci := ci % 2 ^ 32 } }
    | none => s) s

/-- DOORBELL_POLL (R448, R449): the interval of a channel has passed, or its wake is queued; the watcher reads its control block. -/
def execDoorbellPoll (key : Nat) (s : State) : Host.Outcome State Fault Refusal :=
  match SMap.find? s.watch key with
  | none => .next s
  | some w =>
    let q := SMap.get s.wakeq (key / 4096) []
    let due := q.contains key || decide (w.last + w.interval ≤ s.now)
    if !s.isHead ∨ !s.formed ∨ s.d3hot ∨ w.reading ∨ !due then .next s
    else
      let s1 : State := { s with watch := SMap.set s.watch key { w with reading := true, last := s.now },
                                 wakeq := SMap.set s.wakeq (key / 4096) (q.filter (· != key)) }
      .next (s1.hostRd 0 w.tc 255 (.doorbell key) w.cb 16)

/-- DOORBELL_READ (R446 to R448): a doorbell word and CQ_CI have been read; an own channel acts on them, another member is told. -/
def execDoorbellRead (key : Nat) (rd : HostRead) (cis : List (Nat × Nat)) (s : State) : Host.Outcome State Fault Refusal :=
  match SMap.find? s.watch key, s.hostData (.doorbell key) rd with
  | some w, some (r, s0) =>
    let own := decide (key / 4096 = s.self)
    let ch := key % 4096
    match r with
    | .ok b false =>
      let word := field b 0 8
      let ci := field b 8 4
      let now := word + 2 ^ 64 * ci
      let top := if w.tc = 0 then 1000 else 50000
      let iv := if now ≠ w.word then 250 else min (2 * w.interval) top
      let s1 := ({ s0 with watch := SMap.set s0.watch key { w with reading := false, word := now, interval := iv },
                           lastHost := if now ≠ w.word then s0.now else s0.lastHost } : State).setRingCis cis
      .next (if own then (s1.setCqCi ch ci).doorbellSeen ch word w.last
        else if now = w.word then s1
        else s1.send ⟨3, w.tc, 64 * s.rack + key / 4096, ch, 0, proxyBody 4 w.tc 0xFF 0 0 word w.handle 0 []⟩)
    | _ =>
      let s1 : State := { s0 with watch := SMap.set s0.watch key { w with reading := false } }
      let s2 := s1.hostFailed w.cb 0 none
      .next (if own then s2.channelError ch 3
        else s2.send ⟨8, w.tc, 64 * s.rack + key / 4096, 0, 0, leBytes 1 0xF5 ++ leBytes 3 0 ++ leBytes 4 w.handle⟩)
  | _, _ => .next s

/-- A delivered READ, WRITE or INTERRUPT of a member (R470). -/
def isAsk (m : Msg) : Bool := m.kind == 3 && decide (1 ≤ field m.body 0 1 ∧ field m.body 0 1 ≤ 3)

/-- What the proxy has served of a class, weighted 8 : 2 : 1 for TC1, TC2 and TC3. -/
def State.proxyShare (s : State) (c : Nat) : Nat := SMap.get s.netWrr (260 + c) 0 * (if c = 1 then 1 else if c = 2 then 4 else 8)

/-- Of two waiting proxy requests, whether `x` goes before `m` (R25, R472): TC0 first, then the classes by their shares, within a class
the members in turn. -/
def State.askBefore (s : State) (x m : Msg) : Bool :=
  if x.tc ≠ m.tc then
    decide (x.tc = 0) || (decide (m.tc ≠ 0) && (decide (s.proxyShare x.tc < s.proxyShare m.tc) || (decide (s.proxyShare x.tc = s.proxyShare m.tc ∧ x.tc < m.tc))))
  else
    let turn := fun (p : Nat) => (p + 8192 - SMap.get s.netLast (260 + x.tc) 0 - 1) % 4096
    decide (turn x.peer < turn m.peer)

/-- The proxy engine's next request, if it has this operation code; a member's requests of one class stay in order (R470). -/
def State.takeAsk (s : State) (op : Nat) : Option (Msg × State) :=
  let l := s.inbox.filter isAsk
  match l.find? (fun m => l.all (fun x => !s.askBefore x m)) with
  | some m =>
    if field m.body 0 1 = op then
      some (m, { s with inbox := s.inbox.erase m, netWrr := SMap.set s.netWrr (260 + m.tc) (SMap.get s.netWrr (260 + m.tc) 0 + 1),
                        netLast := SMap.set s.netLast (260 + m.tc) m.peer })
    else none
  | none => none

/-- Take the first delivered NOTIFY (R469). -/
def State.takeNotify (s : State) : Option (Msg × State) := s.takeMsg (fun m => m.kind == 3 && decide (field m.body 0 1 = 4))

/-- NOTIFY (R469, R474): a member learns of a doorbell change, and reads CQ_CI itself; or it learns that a read of its doorbell failed. -/
def execNotify (cis : List (Nat × Nat)) (s : State) : Host.Outcome State Fault Refusal :=
  match s.takeNotify with
  | none =>
    match s.takeMsg (fun m => m.isMgmt 0xF5) with
    | none => .next s
    | some (m, s0) => .next (match s0.ofHandle (field m.body 4 4) with | .error _ => s0 | .ok ch => s0.channelError ch 3)
  | some (m, s0) =>
    let s1 := s0.setRingCis cis
    match s1.ofHandle (field m.body 0x10 4) with
    | .error _ => .next s1
    | .ok ch =>
      let c := s1.chan ch
      let s2 := if s1.reading (.cqci ch) then s1 else s1.hostRd ch c.tc c.tenant (.cqci ch) (c.cb + 8) 4
      .next (s2.doorbellSeen ch (field m.body 8 8) s.now)

/-- WAKE_WRITE (R431, R449): an aligned 8-byte write of a wake word queues a read of the named channel's doorbell; every other write
is dropped and counted. -/
def execWakeWrite (off len val : Nat) (s : State) : Host.Outcome State Fault Refusal :=
  let m := off / 8
  let h := val % 2 ^ 32
  let key := 4096 * m + h % 4096
  let s0 : State := { s with lastHost := s.now, l1 := false }
  let ok := decide (off % 8 = 0 ∧ len = 8 ∧ off < 512 ∧ val / 2 ^ 32 = 0) &&
    (match SMap.find? s.watch key with | some w => decide (w.handle = h ∧ bits h 12 6 = m) | none => false)
  if !ok then .next (s0.count rWAKE_DROP 1)
  else
    let q := SMap.get s0.wakeq m []
    let fast := fun (w : SMap Watch) (k : Nat) => match SMap.find? w k with | some x => SMap.set w k { x with interval := 250 } | none => w
    if q.length < 256 then
      .next { s0 with watch := fast s0.watch key, wakeq := SMap.set s0.wakeq m (if q.contains key then q else q ++ [key]) }
    else
      let all := (s0.watch.filter (fun kv => decide (kv.1 / 4096 = m) && !kv.2.reading)).map (·.1)
      .next (all.foldl (fun s k => match SMap.find? s.watch k with
        | some w => ({ s with watch := SMap.set s.watch k { w with reading := true, last := s.now } } : State).hostRd 0 w.tc 255 (.doorbell k) w.cb 16
        | none => s) { s0 with wakeq := SMap.set s0.wakeq m [] })

/-! ### Fetch (R451) -/

/-- Cut fetched descriptors and argument entries. -/
def cutDescs (first t : Nat) (b a : Bytes) (n : Nat) : List Desc :=
  (List.range n).map (fun i => ⟨(first + i) % 2 ^ 32, padTo 64 ((b.drop (64 * i)).take 64), padTo 256 ((a.drop (256 * i)).take 256), t⟩)

/-- DESCRIPTOR_ARRIVAL (R442, R451, R474): fetched descriptors and argument entries arrive and SQ_CI is written. -/
def execDescriptorArrival (ch : Nat) (rd ra : HostRead) (s : State) : Host.Outcome State Fault Refusal :=
  match SMap.find? s.chans ch, s.hostData (.desc ch 0) rd with
  | some c, some (r, s1) =>
    match (if c.arg = 0 then some (HostRead.ok [] false, s1) else s1.hostData (.args ch 0) ra) with
    | none => .next s
    | some (r2, s2) =>
      let s3 := s2.setChan ch { c with asked := 0 }
      if c.st ≠ .active ∧ c.st ≠ .halted then .next s3
      else match r, r2 with
        | .ok b false, .ok a false =>
          let ci := (c.sqCi + c.asked) % 2 ^ 32
          let s4 := s3.setChan ch { c with asked := 0, sqCi := ci, fetched := c.fetched ++ cutDescs c.sqCi c.announced b a c.asked }
          .next ((s4.hostWr ch c.tc (s.chTenant ch) true none (c.cb + 0x10) (leBytes 4 ci)).fetch ch)
        | .undelivered, _ => .next (s3.channelError ch 5)
        | _, _ => .next ((s3.hostFailed c.sq 1 (if ch = 0 then none else some c.tenant)).channelError ch 3)
  | _, _ => .next s

/-- HOST_READ_TIMEOUT (R474): a read without completion after 50 µs and one retry fails by its kind. -/
def execHostReadTimeout (tag : Nat) (s : State) : Host.Outcome State Fault Refusal :=
  match SMap.find? s.reads tag with
  | none => .next s
  | some r =>
    if !s.isHead then .next s
    else match r.who with
      | .dma e id => if h : e < 192 then execDmaFailure ⟨e, h⟩ id .failed s else .next s
      | .doorbell key => execDoorbellRead key .failed [] s
      | .desc ch _ => execDescriptorArrival ch .failed .failed s
      | .args ch _ => execDescriptorArrival ch .failed .failed s
      | .proxy m t => .next { s with arrived := s.arrived ++ [(.proxy m t, r.off, .failed)] }
      | who => .next { s with reads := SMap.erase s.reads tag, arrived := s.arrived ++ [(who, r.off, .failed)] }

/-! ### Completion rings and interrupts (R460, R461) -/

/-- COMPLETION_RECORD_WRITE (R457, R460): the oldest waiting record goes into the completion ring once it has room. -/
def execCompletionRecordWrite (ch : Nat) (s : State) : Host.Outcome State Fault Refusal :=
  match SMap.find? s.chans ch with
  | none => .next s
  | some c =>
    match c.recs with
    | [] => .next s
    | r :: t =>
      if c.fullNow then
        (if s.isHead ∨ s.reading (.cqci ch) then .next s else .next (s.hostRd ch c.tc c.tenant (.cqci ch) (c.cb + 8) 4))
      else
        let ph := phaseBit c.cqPi c.cqLog
        let b := r.bytes.take 5 ++ leBytes 1 (field r.bytes 5 1 % 128 + 128 * ph) ++ r.bytes.drop 6
        let c1 := ({ c with recs := t, cqPi := (c.cqPi + 1) % 2 ^ 32 } : Chan).refull s.now
        let s1 := (s.setChan ch c1).hostWr ch c.tc (s.chTenant ch) true none (c.cq + 32 * (c.cqPi % 2 ^ c.cqLog)) b
        .next (if r.irq then s1.signal ch c.vector else s1)

/-- CQ_STALL (R460): a completion ring full for 100 ms. -/
def execCqStall (ch : Nat) (s : State) : Host.Outcome State Fault Refusal :=
  match SMap.find? s.chans ch with
  | none => .next s
  | some c =>
    match c.fullSince with
    | none => .next s
    | some t =>
      if s.now < t + 100000000 ∨ c.st = .error ∨ !c.fullNow then .next s
      else
        let s1 := s.raise 0x5004 (if ch = 0 then 0 else s.handleOf ch) (if ch = 0 then none else some c.tenant) [(4, c.cqPi), (4, c.cqCi)]
        .next (if c.st = .destroying then s1.setChan ch { s1.chan ch with cause := 4, recs := [] } else s1.channelError ch 4)

/-- The MSI-X mask bit and pending bit of a vector (R434). -/
def msixMasked (s : State) (v : Nat) : Bool := decide (s.getField (0x28008 + 16 * v) 32 1 = 1)
def State.msixPend (s : State) (v : Nat) (b : Bool) : State := s.setField (0x29000 + 8 * (v / 64)) (v % 64) 1 (if b then 1 else 0)

/-- INTERRUPT_SIGNAL (R461): the message of a vector that is due, at most one per µs; a masked vector stays pending. -/
def execInterruptSignal (v : Nat) (s : State) : Host.Outcome State Fault Refusal :=
  match SMap.find? s.vecs v with
  | none => .next s
  | some x =>
    if !x.due || decide (256 ≤ v) || !s.isHead || (match x.last with | some t => decide (s.now < t + 1000) | none => false) then .next s
    else if msixMasked s v then .next (s.msixPend v true)
    else .next ((({ s with vecs := SMap.set s.vecs v ⟨some s.now, false⟩, lastHost := s.now, l1 := false } : State).msixPend v false).emit (.msix v))

/-! ### Link and device power (R432) -/

/-- Whether a channel other than the admin channel is open in the domain. -/
def State.anyChannel (s : State) : Bool := s.watch.any (fun kv => decide (kv.1 % 4096 ≠ 0))

/-- ASPM_L1_ENTRY (R432). -/
def execAspmL1Entry (s : State) : Host.Outcome State Fault Refusal :=
  if !s.isHead ∨ s.l1 ∨ s.watch.any (fun kv => decide (kv.2.tc = 0)) ∨ s.now < s.lastHost + 100000 then .next s
  else .next (({ s with l1 := true } : State).emit .l1Request)

/-- D3HOT_ENTRY (R432): accepted only while no channel other than the admin channel is open. -/
def execD3hotEntry (s : State) : Host.Outcome State Fault Refusal := .next (if s.anyChannel then s else { s with d3hot := true })

/-- D3HOT_EXIT (R432): the function is in D0 again and fetching goes on. -/
def execD3hotExit (s : State) : Host.Outcome State Fault Refusal :=
  if !s.d3hot then .next s
  else .next (s.chans.foldl (fun s kv => s.fetch kv.1) { s with d3hot := false })

end Sys2Proof.Machine
end

