-- ==== Sys2Proof/Machine/Work.lean ====
section
/-! DEFINITION. Descriptors of tenant channels: validation of WORK, CANCEL and NOP (R106, R150, R337, R452 to R456, R490). -/

namespace Sys2Proof.Machine

/-! ### What an image names -/

/-- Stream handles that an image's stochastic conversions name (R106, R184). -/
def imgHandles (b : Bytes) : List Nat :=
  dedup ((List.range (imgBundles b)).filterMap (fun n =>
    let w := imgSlot b n 4
    if fld w 0 6 = 0x02 ∧ flag w 15 then some (fld w 16 10) else none))

/-- Norm-watch indices that an image's conversions name (R222, R228). -/
def imgNorm (b : Bytes) : List Nat :=
  dedup ((List.range (imgBundles b)).filterMap (fun n =>
    let w := imgSlot b n 4
    if fld w 0 6 = 0x02 ∧ fld w 54 8 ≠ 255 then some (fld w 54 8) else none))

/-- A handle with an entry that is not being removed (R105, R106). -/
def State.handleOk (s : State) (t h : Nat) : Bool := (s.regEntries t).any (fun (_, x) => decide (x.handle = some h) && !x.leaving)

/-- A handle that work of a channel may name: its entry exists and is not being removed (R102, R106). -/
def State.mayDraw (s : State) (t ch h : Nat) : Bool := match s.streamOf t ch h with | some x => !x.leaving | none => false

/-! ### Records of descriptors -/

/-- Take the front descriptor of a channel. -/
def State.popDesc (s : State) (ch : Nat) : State :=
  let c := s.chan ch
  s.setChan ch { c with fetched := c.fetched.drop 1 }

/-- The record of a descriptor that started nothing (R455, R456); a rejection is counted and reported (R475). -/
def State.descRec (s : State) (ch : Nat) (d : Desc) (rkind st check step : Nat) (irq : Bool) : State :=
  let bad := decide (st ≠ stOK ∧ st ≠ stCANCELLED)
  let s1 := if bad then (s.count rDESC_REJECT 1).raise 0x5003 (if ch = 0 then 0 else s.handleOf ch)
      (if ch = 0 then none else some (s.chan ch).tenant) [(4, d.seq), (1, st), (1, check)] else s
  (s1.popDesc ch).pushRec ch (recBytes d.seq st fDONE 0 rkind 0 (step % 2 ^ 32) 0 0 0 0 (if bad then 0x5003 else 0)) irq

/-- Bytes of a list that must be 0. -/
def zeroAt (b : Bytes) (l : List (Nat × Nat)) : Bool := l.all (fun (o, n) => decide (field b o n = 0))

/-- A channel that starts no further work completes its unstarted descriptors with CANCELLED (R445, R450). -/
def Chan.ending (c : Chan) : Bool := decide (c.st = .error) || decide (c.st = .destroying)

/-- The epoch check of a descriptor (R450). -/
def epochStatus (c : Chan) (e : Nat) : Nat :=
  if c.ending then stCANCELLED else if e = c.epoch then stOK else if behind e c.epoch then stCANCELLED else stDESC_INVALID

/-! ### WORK (R455) -/

def dFlags (b : Bytes) : Nat := field b 1 1

/-- Check 1: reserved fields and ranges. -/
def workFields (c : Chan) (d : Desc) : Bool :=
  let b := d.bytes
  let f := dFlags b
  let args := bit f 2
  let serve := bit f 4
  let us := field b 0x20 2
  decide (f < 32) && zeroAt b [(0x23, 1)] && decide (field b 0x22 1 ≤ if args then 28 else 6)
    && (if c.tc = 0 then decide (1 ≤ us) else decide (us = 0)) && decide (field b 0x24 4 ≤ 1000000)
    && (!(args || serve) || (decide (c.arg ≠ 0) && zeroAt d.args [(0x78, 136)])) && (!args || zeroAt b [(0x28, 24)])

/-- Parameters 0 to 27 of a work item (R453). -/
def workParams (d : Desc) : List Nat :=
  let args := bit (dFlags d.bytes) 2
  let n := field d.bytes 0x22 1
  (List.range 28).map (fun i => if i < n then (if args then field d.args (4 * i) 4 else field d.bytes (0x28 + 4 * i) 4) else 0)

def attrTableOk (a : Nat) : Bool := attrOk a && (decide (bits a 4 2 ≠ 0) || decide (bits a 8 8 = 0))

/-- Checks 5 and 6: the tensor table (R454). The failed check with its status, and the state after the reads. -/
def State.tensorCheck (s : State) (t dpa : Nat) : Option (Nat × Nat) × State :=
  if !s.mayRead t dpa 16 then (some (5, stADDR_RANGE), s)
  else
    let (h, m, s1) := s.memRead dpa 16 1
    let n := field h 2 2
    if field h 0 2 ≠ 0x5454 ∨ n = 0 ∨ 256 < n ∨ !zeroAt h [(4, 12)] then (some (5, stDESC_INVALID), s1)
    else if !s1.mayRead t (dpa + 16) (32 * n) then (some (5, stADDR_RANGE), s1)
    else
      let (b, m2, s2) := s1.memRead (dpa + 16) (32 * n) 1
      let es := (List.range n).map (batEntry b)
      let bad := es.any (fun e => decide (field e 8 8 = 0) || decide (4 ≤ field e 0x14 4) || !zeroAt e [(0x18, 8)])
      let out := es.any (fun e =>
        let a := field e 0 8
        let len := field e 8 8
        let f := field e 0x14 4
        !(if bit f 0 then s2.inWindow t a len else if bit f 1 then s2.mayWrite t a len else s2.mayRead t a len))
      if bad then (some (5, stDESC_INVALID), s2)
      else if out then (some (5, stADDR_RANGE), s2)
      else if max m m2 ≠ 0 then (some (5, markStatus (max m m2)), s2)
      else if es.any (fun e => !attrTableOk (field e 0x10 4)) then (some (6, stDESC_INVALID), s2)
      else (none, s2)

/-- The ranges of a layer record (R336, R337); `bound` is the value of the parameter bound to the layer. -/
def layerOk (r : Bytes) (bound : Option Nat) : Bool :=
  let x : Inst := { chan := 0, item := 0, tenant := 0, tc := 0, handle := 0, step := 0, layer := 0, epoch := 0, lrec := r, tokens := 0, opened := 0 }
  decide (1 ≤ x.experts ∧ x.experts ≤ 8192 ∧ 1 ≤ x.capacity ∧ x.kmin ≤ 2 ∧ 1 ≤ x.kmax ∧ x.kmax ≤ 8 ∧ x.kmin ≤ x.kmax ∧ x.kmin ≤ x.experts
      ∧ x.base + x.experts ≤ 65536 ∧ field r 0x0A 1 < 4 ∧ field r 0x0B 1 < 32 ∧ field r 0x0C 4 ≤ 100000 ∧ x.emap % 8 = 0 ∧ x.xdpa % 32 = 0
      ∧ 32 ≤ x.hidden ∧ x.hidden ≤ 16384 ∧ x.hidden % 32 = 0 ∧ x.mergeLoam % 256 = 0)
    && !lIsOvf x.tau && (decide (x.pred < 64) || decide (x.pred = 0xFF)) && zeroAt r [(0x28, 24)]
    && (match bound with | some v => decide (v = x.experts) | none => true)

/-- What a work item keeps of its routing table: EXPERTS and NW by layer, STEP_TOKENS, REPORT_IOVA. -/
structure RouteTab where
  experts : List Nat := []
  nw : List Nat := []
  tokens : Nat := 0
  iova : Nat := 0
  deriving DecidableEq, Repr

/-- Check 7: the routing table (R335 to R337); the failed check with its status, or what the table holds. -/
def State.routingCheck (s : State) (t dpa : Nat) (bound : List Nat) : Except (Nat × Nat) RouteTab × State :=
  if dpa = 0 then (.ok {}, s)
  else if !s.mayRead t dpa 64 then (.error (7, stADDR_RANGE), s)
  else
    let (h, m, s1) := s.memRead dpa 64 1
    let tokens := field h 0 4
    let layers := field h 4 2
    let iova := field h 8 8
    if tokens = 0 ∨ 65536 < tokens ∨ layers = 0 ∨ 256 < layers ∨ !zeroAt h [(6, 2), (0x10, 48)] then (.error (7, stDESC_INVALID), s1)
    else if !s1.mayRead t (dpa + 64) (64 * layers) then (.error (7, stADDR_RANGE), s1)
    else
      let (b, m2, s2) := s1.memRead (dpa + 64) (64 * layers) 1
      let rs := (List.range layers).map (fun i => (i, (b.drop (64 * i)).take 64))
      let out := rs.any (fun (_, r) =>
        let hid := field r 0x20 2
        !s2.mayRead t (field r 0x10 8) 524288 || !s2.mayRead t (field r 0x18 8) (tokens * (32 * ceilDiv (hid + hid / 32) 32)))
      if rs.any (fun (i, r) => !layerOk r bound[i]?) then (.error (7, stDESC_INVALID), s2)
      else if out then (.error (7, stADDR_RANGE), s2)
      else if iova ≠ 0 ∧ !s2.inWindow t iova (16 + layers * (16 + 8 * ceilDiv tokens 64)) then (.error (7, stADDR_RANGE), s2)
      else if max m m2 ≠ 0 then (.error (7, markStatus (max m m2)), s2)
      else (.ok ⟨rs.map (fun r => field r.2 0 2), rs.map (fun r => field r.2 0x23 1), tokens, iova⟩, s2)

/-- Read the header of a table where its tenant may. -/
def State.tableHdr (s : State) (t a n : Nat) : Bytes × State :=
  if s.mayRead t a n then let (h, _, s1) := s.memRead a n 1; (h, s1) else ([], s)

/-- What the reads of a descriptor's table meet in reloadable granules (R540): its header, then its entries. -/
def State.tableGate (s : State) (fast : Bool) (t a hdr : Nat) (size : Bytes → Nat) : ReadGate × State :=
  match s.readGate fast a hdr with
  | .go => let (h, s1) := s.tableHdr t a hdr; (s1.readGate fast (a + hdr) (size h), s1)
  | g => (g, s)

/-- What the reads of a descriptor's tensor and routing tables meet (R540). -/
def State.workGate (s : State) (c : Chan) (b : Bytes) : ReadGate × State :=
  let fast := decide (c.tc = 0) || bit c.attr 2
  let r := field b 0x10 8
  match s.tableGate fast c.tenant (field b 8 8) 16 (fun h => 32 * min (field h 2 2) 256) with
  | (.go, s1) => if r = 0 then (.go, s1) else s1.tableGate fast c.tenant r 64 (fun h => 64 * min (field h 4 2) 256)
  | g => g

/-- Values of the parameters of KIND 2, in table order: the i-th is bound to layer i (R149, R337). -/
def expertParams (img : Bytes) (vals : List Nat) : List Nat :=
  ((List.range (imgPCount img)).map (imgP img)).filterMap (fun p => if field p 3 1 = 2 then some (vals.getD (field p 0 2) 0) else none)

/-- The body of a barrier message: 1 ARRIVE, 2 RELEASE, 3 ABORT; group, sequence number, release time. -/
def barBody (op group seq r : Nat) : Bytes := leBytes 1 op ++ leBytes 1 0 ++ leBytes 2 group ++ leBytes 4 seq ++ leBytes 8 r

/-- Hand a message to a module of the rack; one to this module is delivered here. -/
def State.sendTo (s : State) (m : Msg) : State :=
  if m.peer = 64 * s.rack + s.self then { s with inbox := s.inbox ++ [{ m with kind := m.kind % 256, peer := 64 * s.rack + s.self }] } else s.send m

/-- Norm-watch indices that a step can write: its program's, its layers', and 255 for logits (R228). -/
def mayNorm (img : Bytes) (rt : RouteTab) (serve : Bool) : List Nat :=
  dedup (imgNorm img ++ rt.nw.filter (fun n => decide (n ≠ 255)) ++ (if serve then [255] else []))

/-- Queue a validated work item; one with a barrier arrives there (R418). -/
def State.acceptWork (s : State) (ch : Nat) (c : Chan) (d : Desc) (step : Nat) (img : Bytes) (grp : List Nat) (rt : RouteTab)
    (sv : Option ServeSt) : State :=
  let b := d.bytes
  let f := dFlags b
  let g := field b 0x1C 2
  let q := field b 0x18 4
  let tmo := field b 0x24 4
  let w : WorkItem := {
    chan := ch, tenant := c.tenant, tc := c.tc, step := step, desc := d.seq, epoch := field b 4 4, image := field b 2 2, hdr := hdrOf img,
    yds := ydsOf img, params := workParams d, satmap := field b 0x1E 2, ordered := bit f 1, irq := bit f 0, srv := sv,
    barrier := if bit f 3 then some (g, q) else none, barWait := bit f 3, tensors := field b 8 8, routing := field b 0x10 8,
    experts := rt.experts, stepTokens := rt.tokens, repIova := rt.iova,
    service := field b 0x20 2, announced := d.announced, normMay := mayNorm img rt sv.isSome,
    barDeadline := s.pav + 1000 * (if tmo = 0 then 10000 else tmo) }
  let first := !s.items.any (fun (_, v) => v.barrier == some (g, q) && v.barWait)
  let s1 : State := { s.popDesc ch with items := SMap.set s.items s.nextItem w, nextItem := s.nextItem + 1,
                                        groups := if bit f 3 then SMap.set s.groups g grp else s.groups }
  if bit f 3 ∧ first then (s1.noteRoute s.nextItem (grp.headD 0) g).sendTo ⟨6, c.tc, grp.headD 0, g, c.tenant, barBody 1 g q 0⟩ else s1

/-- WORK (R452 to R455): the front descriptor of a channel is validated and queued to start, or completes with its failure
status; a descriptor of an unknown kind is rejected here too. `grp` is the table of the barrier group that it names, its root
first, empty where the module knows none. -/
def execWork (ch : Nat) (grp : List Nat) (s : State) : Host.Outcome State Fault Refusal :=
  match SMap.find? s.chans ch with
  | none => .next s
  | some c =>
    match c.fetched with
    | [] => .next s
    | d :: _ =>
      let b := d.bytes
      let kind := field b 0 1
      let irq := bit (dFlags b) 0
      if s.fatal then .next s
      else if ch = 0 then .next (if 0x40 ≤ kind ∧ kind ≤ 0x56 then s else s.descRec 0 d 2 stDESC_INVALID 1 0 irq)
      else if kind = 2 ∨ kind = 3 then .next s
      else if kind ≠ 1 then .next (s.descRec ch d 0 stDESC_INVALID 1 0 false)
      else
        let step := c.steps
        let bump := fun (s : State) => s.setChan ch { c with steps := step + 1 }
        let s0 := bump s
        let fail := fun (s : State) (check st : Nat) => s.descRec ch d 0 st check step irq
        let es := epochStatus c (field b 4 4)
        let prog := field b 2 2
        match SMap.find? s.images prog with
        | none => .next (if !workFields c d then fail s0 1 stDESC_INVALID else if es ≠ stOK then fail s0 2 es else fail s0 3 stDESC_INVALID)
        | some im =>
          let vals := workParams d
          if !workFields c d then .next (fail s0 1 stDESC_INVALID)
          else if es ≠ stOK then .next (fail s0 2 es)
          else if im.tenant ≠ c.tenant ∨ !((imgHandles im.bytes).all (s.mayDraw c.tenant ch)) then .next (fail s0 3 stDESC_INVALID)
          else if !paramsOk im.bytes vals then .next (fail s0 4 stDESC_INVALID)
          else match s.workGate c b with
          | (.wait _, s9) => .next s9
          | (.refuse, s9) => .next (fail ((bump s9).count 0xC0030 1) 5 stWEIGHT_POISON)
          | (.go, s9) =>
            let (r1, s1) := (bump s9).tensorCheck c.tenant (field b 8 8)
            match r1 with
            | some (k, st) => .next (fail s1 k st)
            | none =>
              let (r2, s2) := s1.routingCheck c.tenant (field b 0x10 8) (expertParams im.bytes vals)
              match r2 with
              | .error (k, st) => .next (fail s2 k st)
              | .ok rt =>
                if bit (dFlags b) 3 ∧ !grp.contains (64 * s.rack + s.self) then .next (fail s2 8 stDESC_INVALID)
                else if bit (dFlags b) 4 then
                  match s2.batch ch c.tenant (field d.args 0x70 8) with
                  | .bad st s3 => .next (fail s3 9 st)
                  | .ok sv s3 => .next (s3.acceptWork ch { c with steps := step + 1 } d step im.bytes grp rt (some sv))
                else .next (s2.acceptWork ch { c with steps := step + 1 } d step im.bytes grp rt none)

/-! ### CANCEL and NOP (R456) -/

/-- The front descriptor of a tenant channel where it has a kind. -/
def State.frontOf (s : State) (ch kind : Nat) : Option (Chan × Desc) :=
  match SMap.find? s.chans ch with
  | some c => match c.fetched with
    | d :: _ => if ch ≠ 0 ∧ field d.bytes 0 1 = kind then some (c, d) else none
    | [] => none
  | none => none

/-- The first CANCEL fetched, with the WORK descriptors that stand before it (R456: ahead of every unstarted work item), and the
state with it in front. -/
def State.takeCancel (s : State) (ch : Nat) : Option (Chan × Desc × List Desc × State) :=
  match s.frontOf ch 2 with
  | some (c, d) => some (c, d, [], s)
  | none =>
    let c := s.chan ch
    let ahead := c.fetched.takeWhile (fun d => field d.bytes 0 1 == 1)
    match c.fetched.drop ahead.length with
    | d :: rest => if ch ≠ 0 ∧ field d.bytes 0 1 = 2 then some (c, d, ahead, s.setChan ch { c with fetched := d :: (ahead ++ rest) }) else none
    | [] => none

/-- Slots that SERVE descriptors of the present epoch, fetched and not yet validated, name as continuing, read from their batch
tables (R490). -/
def State.namedBy (s : State) (c : Chan) : List Desc → List Nat × State
  | [] => ([], s)
  | d :: t =>
    let a := field d.args 0x70 8
    if field d.bytes 0 1 ≠ 1 ∨ !bit (dFlags d.bytes) 4 ∨ field d.bytes 4 4 ≠ c.epoch ∨ !s.mayWrite c.tenant a 32 then s.namedBy c t
    else
      let (h, _, s1) := s.memRead a 32 1
      let n := field h 4 2
      if !batHdrOk h ∨ !s1.mayWrite c.tenant a (32 + 32 * n) then s1.namedBy c t
      else
        let (b, _, s2) := s1.memRead (a + 32) (32 * n) 1
        let (l, s3) := State.namedBy s2 c t
        ((((List.range n).map (batEntry b)).filter (fun e => !entBegin e)).map entSlot ++ l, s3)

/-- CANCEL (R456, R490): its slots are cancelled, idle ones at once, then its own record is written. -/
def execCancel (ch : Nat) (s0 : State) : Host.Outcome State Fault Refusal :=
  match s0.takeCancel ch with
  | none => .next s0
  | some (c, d, ahead, s) =>
    let b := d.bytes
    let n := field b 8 1
    let es := epochStatus c (field b 4 4)
    if n = 0 ∨ 12 < n ∨ !zeroAt b [(1, 3), (9, 3), (0x3C, 4)] then .next (s.descRec ch d 0 stDESC_INVALID 1 0 false)
    else if es ≠ stOK then .next (s.descRec ch d 0 es 2 0 false)
    else
      let (named, s1) := s.namedBy c ahead
      let s1 := (List.range n).foldl (fun s i =>
        let x := field b (0x0C + 4 * i) 4
        if named.contains x then s.markSlot ch x else s.cancelSlot ch d.seq x) s1
      .next (s1.descRec ch d 0 stOK 0 0 false)

/-- NOP (R456). -/
def execNop (ch : Nat) (s : State) : Host.Outcome State Fault Refusal :=
  match s.frontOf ch 3 with
  | none => .next s
  | some (c, d) =>
    let es := epochStatus c (field d.bytes 4 4)
    if !zeroAt d.bytes [(1, 3), (8, 56)] then .next (s.descRec ch d 0 stDESC_INVALID 1 0 false)
    else .next (s.descRec ch d 0 es 2 0 false)

end Sys2Proof.Machine
end

