-- ==== Sys2Proof/Machine/Fatal.lean ====
section
/-! DEFINITION. Fatal faults of the module, and reloadable granules that leave their region (R534, R537 to R542). -/

namespace Sys2Proof.Machine

/-- A fatal fault (R534): engines and work items stop with INTERNAL, the cause is kept and reported, the phase reads 6, and
ALERT_N follows (R592, R606, R636). Causes: 1 internal link, 2 control-core memory, 3 watchdog, 4 PLL, 5 cryptographic self-test. -/
def State.moduleFatal (s : State) (cause : Nat) : State :=
  if s.fatal then s
  else
    let s1 := ((s.setField rRAS_STATUS 0 1 1).setField rRAS_STATUS 4 4 cause)
    let s2 := s1.setField rPHASE 0 3 6
    let s3 := s2.items.foldl (fun s (k, w) => if w.phase = .complete then s else s.stopItem k stINTERNAL 0x3204) s2
    s3.raise 0x3204 0 none [(1, cause)]

/-- Refuse the reads that wait for a granule (R540, R542). -/
def State.refuseStalled (s : State) (g : Nat) : State :=
  s.eng.foldl (fun s kv =>
    ((s.engine kv.1).dma.filter (fun d => decide (d.fate = .stalled g))).foldl (fun s d =>
      (s.dmaFate kv.1 d .refused).refuseRead (s.engine kv.1).item) s) s

/-- A granule leaves its region; a region without granules goes (R542). -/
def State.leaveRegion (s : State) (g : Nat) : State :=
  match SMap.find? s.grans g with
  | none => s
  | some _ =>
    let gr := SMap.erase s.grans g
    let s1 : State := { s with grans := gr, regions := s.regions.filter (fun kv =>
      (List.range kv.2.count).any (fun i => (SMap.find? gr (kv.2.first + i)).isSome)) }
    s1.refuseStalled g

/-- The CRC-32C of a granule, read line by line, with the highest mark met (R537, R538). -/
def State.granuleCrc (s : State) (g : Nat) : Nat × Nat × State :=
  let (b, m, s1) := s.memRead (g * 2 ^ 28) (2 ^ 28) 0
  (crc32c b, m, s1)

/-- Release granules: each goes to Zeroing and its buffer entries are flushed (R306). -/
def State.releaseGranule (s : State) (g : Nat) : State :=
  let s1 := (s.flushWhere (fun w => granuleOf (64 * w.line) == g)).leaveRegion g
  { s1 with mem := { s1.mem with owner := SMap.set s1.mem.owner g 0xFC, zeroing := s1.mem.zeroing ++ [g] } }

end Sys2Proof.Machine
end

