-- ==== Sys2Proof/Machine/Admin.lean ====
section
/-! DEFINITION. Admin descriptors: how one is taken, carried to its member and completed, and those of channels, programs,
streams, pools and rings (R102 to R105, R151, R435, R439 to R445, R463 to R465, R500). -/

namespace Sys2Proof.Machine

/-! ### Taking and completing (R463, R464) -/

def adFlags (b : Bytes) : Nat := field b 1 1
def adMember (b : Bytes) : Nat := field b 2 1
def adTenant (b : Bytes) : Nat := field b 3 1
def adHandle (b : Bytes) : Nat := field b 4 4

/-- The tenant of an event of an admin descriptor. -/
def adWho (b : Bytes) : Option Nat := if adTenant b < 64 then some (adTenant b) else none

/-- Fabric management bodies (KIND 8) that the model uses for admin descriptors: 0xAD carries one, 0xAE answers it (log 40). -/
def adSend (d : Desc) : Bytes := leBytes 1 0xAD ++ leBytes 3 0 ++ leBytes 4 d.seq ++ d.bytes
def adReply (seq st result ev : Nat) : Bytes := leBytes 1 0xAE ++ leBytes 1 st ++ leBytes 2 ev ++ leBytes 4 seq ++ leBytes 8 result


/-- The descriptor that a module carries out next: the front one of the head's admin channel, or one that the head has sent
(R464: an ORDERED one waits for running COPYs and holds later ones). -/
def State.adminIn (s : State) : Option (Desc × Bool) :=
  if s.fatal then none
  else if s.isHead then
    match SMap.find? s.chans 0 with
    | some c =>
      match c.fetched with
      | d :: _ =>
        if (c.st = .active ∨ c.st = .halted) ∧ !s.copies.any (fun kv => kv.2.ordered) ∧ (!bit (adFlags d.bytes) 1 ∨ s.copies.isEmpty)
        then some (d, false) else none
      | [] => none
    | none => none
  else (s.inbox.find? (fun m => m.isMgmt 0xAD)).map (fun m => (⟨field m.body 4 4, (m.body.drop 8).take 64, [], 0⟩, true))

/-- Statuses by which R473 and R474 reject an admin descriptor. -/
def adRejects (st : Nat) : Bool := st = stDESC_INVALID || st = stADDR_RANGE || st = stSTALE_HANDLE

/-- The record or the answer of an admin descriptor (R457, R463). -/
def State.adRec (s : State) (d : Desc) (st result ev : Nat) : State :=
  let s1 := if adRejects st then s.count rDESC_REJECT 1 else s
  if s1.isHead then s1.pushRec 0 (recBytes d.seq st fDONE 0 2 result 0 0 0 0 0 ev) (bit (adFlags d.bytes) 0)
  else s1.send ⟨8, 1, 64 * s1.rack + s1.headIx, 0, 0, adReply d.seq st result ev⟩

/-- The descriptor being carried out is over: it leaves its place and is answered. -/
def State.adDone (s : State) (d : Desc) (remote : Bool) (st result ev : Nat) : State :=
  let s1 : State := { s.dropReads .admin with arrived := s.arrived.filter (fun p => !(p.1 == .admin)), admFwd := none }
  let s2 := if remote then (match s1.takeMsg (fun m => m.isMgmt 0xAD && decide (field m.body 4 4 = d.seq)) with | some (_, t) => t | none => s1)
    else s1.popDesc 0
  s2.adRec d st result ev

/-- What carrying out a descriptor leads to: it waits, or completes with a status, a RESULT and an event code. -/
inductive AdR where
  | wait (s : State)
  | done (s : State) (st result ev : Nat)
  deriving DecidableEq, Repr

def AdR.ok (s : State) (result : Nat := 0) : AdR := .done s stOK result 0
def AdR.bad (s : State) : AdR := .done s stDESC_INVALID 0 0

/-- Every byte from 0x08 on outside the listed operands is 0, and HANDLE where unused (R17, R463). -/
def adReserved (handle : Bool) (used : List (Nat × Nat)) (b : Bytes) : Bool :=
  decide (adFlags b < 4) && (handle || decide (adHandle b = 0)) && (decide (adTenant b < 64) || decide (adTenant b = 255)) &&
    (b.zipIdx.all (fun (x, i) => decide (i < 8) || x == 0 || used.any (fun (o, n) => decide (o ≤ i ∧ i < o + n))))

def State.isMember (s : State) (m : Nat) : Bool := decide (m < 64) && (decide (m = s.self) || bit (s.reg rDOMAIN_MEMBERS).toNat m)

/-- What the head learns when another member answers: a channel made or gone changes the watcher (R448). -/
def State.adLearn (s : State) (b : Bytes) (st result : Nat) : State :=
  if st ≠ stOK then s
  else if field b 0 1 = 0x40 then
    { s with watch := SMap.set s.watch (4096 * adMember b + result % 4096) { handle := result, cb := field b 0x18 8, tc := field b 0x2A 1, tenant := adTenant b } }
  else if field b 0 1 = 0x41 then { s with watch := SMap.erase s.watch (4096 * adMember b + adHandle b % 4096) }
  else s

/-- Carry out an admin descriptor of a kind: on the head one for another member is sent there and its answer awaited. -/
def State.admin (s : State) (kind : Nat) (handle : Bool) (used : List (Nat × Nat)) (f : State → Desc → AdR) : State :=
  match s.adminIn with
  | none => s
  | some (d, remote) =>
    let b := d.bytes
    if field b 0 1 ≠ kind then s
    else if !remote && decide (adMember b ≠ s.self) then
      if !s.isMember (adMember b) then s.adDone d false stDESC_INVALID 0 0
      else if s.admFwd = some d.seq then
        match s.takeMsg (fun m => m.isMgmt 0xAE && decide (field m.body 4 4 = d.seq)) with
        | none => s
        | some (m, s1) =>
          let st := field m.body 1 1
          let r := field m.body 8 8
          (s1.adLearn b st r).adDone d false st r (field m.body 2 2)
      else ({ s with admFwd := some d.seq } : State).send ⟨8, 1, 64 * s.rack + adMember b, 0, 0, adSend d⟩
    else if !adReserved handle used b then s.adDone d remote stDESC_INVALID 0 0
    else match f s d with
      | .wait s1 => s1
      | .done s1 st r ev => s1.adDone d remote st r ev

/-- A kind whose HANDLE names a channel (R439, R440, R474). -/
def State.adminCh (s : State) (kind : Nat) (used : List (Nat × Nat)) (f : State → Desc → Nat → AdR) : State :=
  s.admin kind true used (fun s d => match s.ofHandle (adHandle d.bytes) with
    | .error st => .done s st 0 0
    | .ok ch => f s d ch)

/-- Host addresses of an admin descriptor: in the windows of the tenant named, unchecked with 0xFF (R465). -/
def State.adAddr (s : State) (b : Bytes) (iova n : Nat) : Bool :=
  decide (adTenant b = 255) || (s.tenantEnabled (adTenant b) && s.inWindow (adTenant b) iova n)

/-- Read host memory for the descriptor and go on with its bytes (R462, R465, R474). -/
def State.adLoad (s : State) (d : Desc) (iova n : Nat) (rd : HostRead) (f : State → Bytes → AdR) : AdR :=
  let b := d.bytes
  if !s.reading .admin then
    (if s.adAddr b iova n then .wait (s.hostRd 0 1 (adTenant b) .admin iova n) else .done s stADDR_RANGE 0 0)
  else match s.hostData .admin rd with
    | none => .wait s
    | some (.ok x false, s1) => f s1 (padTo n x)
    | some (.ok _ true, s1) => .done s1 stDATA_POISON 0 0
    | some (.failed, s1) => .done (s1.hostFailed iova 3 (adWho b)) stHOST_TIMEOUT 0 0x5001
    | some (.range, s1) => .done s1 stADDR_RANGE 0 0
    | some (.undelivered, s1) => .done s1 stFABRIC_UNREACHABLE 0 0

/-- Write host memory for the descriptor; through the proxy its answers are awaited (R471). -/
def State.adStore (s : State) (d : Desc) (iova : Nat) (x : Bytes) : AdR :=
  let b := d.bytes
  if s.reading .admin then
    match s.hostData .admin .failed with
    | none => .wait s
    | some (.ok _ _, s1) => .ok s1
    | some (.failed, s1) => .done s1 stHOST_TIMEOUT 0 0x5001
    | some (.range, s1) => .done s1 stADDR_RANGE 0 0
    | some (.undelivered, s1) => .done s1 stFABRIC_UNREACHABLE 0 0
  else if !s.adAddr b iova x.length then .done s stADDR_RANGE 0 0
  else if s.isHead then .ok (s.hostWr 0 1 (adTenant b) true none iova x)
  else .wait (s.hostWr 0 1 (adTenant b) true (some .admin) iova x)

/-! ### The admin channel (R435, R595) -/

/-- ADMIN_EN takes effect: the setup is checked and the channel starts, or goes to state 2 with cause 6. -/
def State.adminStart (s : State) : State :=
  let sq := (s.reg 0x20008).toNat
  let cq := (s.reg 0x20010).toNat
  let cb := (s.reg 0x20018).toNat
  let cfg := (s.reg 0x20020).toNat
  let a := bits cfg 0 4
  let b := bits cfg 4 4
  let ok := decide (sq % 4096 = 0 ∧ cq % 4096 = 0 ∧ cb % 64 = 0 ∧ 4 ≤ a ∧ a ≤ 12 ∧ 4 ≤ b ∧ b ≤ 12)
  if !ok then (s.setField rADMIN_STATUS 0 2 2).setField rADMIN_STATUS 8 8 6
  else
    let c : Chan := { tenant := 255, sq := sq, cq := cq, cb := cb, sqLog := a, cqLog := b, tc := 1,
                      vector := if bit cfg 16 then some (bits cfg 8 8) else none }
    let s1 : State := { s with chans := SMap.set s.chans 0 c, watch := SMap.set s.watch (4096 * s.self) { handle := 0, cb := cb, tc := 1 } }
    ((s1.setField rADMIN_STATUS 0 2 1).setField rADMIN_STATUS 8 8 0).setChState 0 .active 0

/-- HIF_CTRL.ADMIN_EN is written (R435, R595): 1 starts the channel, or is held before readiness; 0 stops it. -/
def State.adminEn (s : State) (v : Bool) : State :=
  let was := decide (s.getField 0x20000 0 1 = 1)
  let st := s.getField rADMIN_STATUS 0 2
  let s1 : State := { s.setField 0x20000 0 1 (if v then 1 else 0) with admHeld := if v then s.admHeld else false }
  if !v then
    (if st = 1 then (({ s1 with watch := SMap.erase s1.watch (4096 * s1.self) } : State).setField rADMIN_STATUS 0 2 3).setChan 0 { s1.chan 0 with st := .halted }
     else if st = 2 then ({ s1 with chans := SMap.erase s1.chans 0, watch := SMap.erase s1.watch (4096 * s1.self) } : State).setReg rADMIN_STATUS 0
     else s1)
  else if !(s.getField rPHASE 3 1 == 1) then { s with admHeld := true }
  else if was ∨ st ≠ 0 ∨ !s.isHead then s1
  else s1.adminStart

/-- ADMIN_EN_WRITE (R435, R595): a write of HIF_CTRL.ADMIN_EN. -/
def execAdminEnWrite (v : Bool) (s : State) : Host.Outcome State Fault Refusal := .next (s.adminEn v)

/-- ADMIN_STOP_COMPLETE (R435): every admin descriptor fetched has completed; the admin channel is off. -/
def execAdminStopComplete (s : State) : Host.Outcome State Fault Refusal :=
  match SMap.find? s.chans 0 with
  | none => .next s
  | some c =>
    if s.getField rADMIN_STATUS 0 2 ≠ 3 ∨ !c.fetched.isEmpty ∨ c.asked ≠ 0 ∨ !c.recs.isEmpty ∨ !s.copies.isEmpty then .next s
    else
      let s1 := ({ s with chans := SMap.erase s.chans 0 } : State).setReg rADMIN_STATUS 0
      .next (if s1.getField 0x20000 0 1 = 1 then s1.adminStart else s1)

/-! ### Channels (R440, R443, R445, R446) -/

/-- TC0 shares of a module's channels, in thousandths (R443). -/
def State.shares (s : State) : Nat := ((s.chans.filter (fun kv => decide (kv.2.tc = 0))).map (fun kv => kv.2.share)).sum

/-- Ranges and alignment of a creation (R441, R465). -/
def createOk (b : Bytes) : Bool :=
  decide (field b 0x08 8 % 4096 = 0 ∧ field b 0x10 8 % 4096 = 0 ∧ field b 0x18 8 % 64 = 0 ∧ field b 0x20 8 % 4096 = 0
    ∧ 4 ≤ field b 0x28 1 ∧ field b 0x28 1 ≤ 16 ∧ 4 ≤ field b 0x29 1 ∧ field b 0x29 1 ≤ 16 ∧ field b 0x2A 1 < 4 ∧ field b 0x2B 1 < 8
    ∧ (field b 0x2C 2 < 256 ∨ field b 0x2C 2 = 0xFFFF)
    ∧ (if field b 0x2A 1 = 0 then 1 ≤ field b 0x2E 2 ∧ field b 0x2E 2 ≤ 250 else field b 0x2E 2 = 0))

/-- CREATE_CHANNEL (R440, R443, R445, R465, R502). -/
def execCreateChannel (s : State) : Host.Outcome State Fault Refusal :=
  .next (s.admin 0x40 false [(0x08, 0x28)] (fun s d =>
    let b := d.bytes
    let t := adTenant b
    let i := SMap.firstFree s.chans 1 4095
    let arg := field b 0x20 8
    let n := 2 ^ field b 0x28 1
    if !s.tenantEnabled t || !createOk b || (decide (field b 0x2A 1 = 0) && decide (250 < s.shares + field b 0x2E 2)) || decide (4095 < i) then .bad s
    else if !(s.inWindow t (field b 0x08 8) (64 * n) && s.inWindow t (field b 0x10 8) (32 * 2 ^ field b 0x29 1) && s.inWindow t (field b 0x18 8) 64
        && (decide (arg = 0) || s.inWindow t arg (256 * n))) then .done s stADDR_RANGE 0 0
    else
      let g := SMap.get s.gens i 0 % 255 + 1
      let v := field b 0x2C 2
      let c : Chan := { gen := g, tenant := t, sq := field b 0x08 8, cq := field b 0x10 8, cb := field b 0x18 8, arg := arg, sqLog := field b 0x28 1,
                        cqLog := field b 0x29 1, tc := field b 0x2A 1, attr := field b 0x2B 1, vector := if v = 0xFFFF then none else some v,
                        share := field b 0x2E 2, bucket := field b 0x2E 2 * s.availCount * 10 ^ 7, bucketAt := s.now }
      let h := i + 2 ^ 12 * s.self + 2 ^ 24 * g
      let s1 : State := { s with gens := SMap.set s.gens i g, chans := SMap.set s.chans i c }
      let s2 := s1.setChState i .active 0
      .ok (if s2.isHead then s2.adLearn b stOK h else s2) h))

/-- DESTROY_CHANNEL (R445, R446, R490): the channel starts nothing more, its work ends, idle sequences are cancelled; the descriptor
completes with CHANNEL_DESTROY_COMPLETE. -/
def execDestroyChannel (s : State) : Host.Outcome State Fault Refusal :=
  .next (s.adminCh 0x41 [] (fun s d ch =>
    let c := s.chan ch
    if c.destroy.isSome then .wait s
    else
      let s1 := (s.setChan ch { c with destroy := some (d.seq, adFlags d.bytes) }).setChState ch .destroying c.cause
      let s2 := ((s1.slotsOf ch).filter (fun x => !s1.slotBusy ch x)).foldl (fun s x => s.cancelSlot ch d.seq x) s1
      .wait (s2.endWork ch (fun _ => true))))

/-- CHANNEL_DESTROY_COMPLETE (R445): the last work item has ended and its records are written or abandoned; the channel is free,
its norm-watch, predictor and audit-stream state goes, and the DESTROY descriptor completes. -/
def execChannelDestroyComplete (ch : Nat) (s : State) : Host.Outcome State Fault Refusal :=
  match SMap.find? s.chans ch with
  | none => .next s
  | some c =>
    match c.destroy with
    | none => .next s
    | some (seq, _) =>
      if s.items.any (fun kv => decide (kv.2.chan = ch ∧ kv.2.phase ≠ .complete) && kv.2.job.isNone) ∨ !c.fetched.isEmpty then .next s
      else
        let s1 := (s.slotsOf ch).foldl (fun s x => s.cancelSlot ch seq x) s
        if !(s1.chan ch).recs.isEmpty then .next s1
        else
          let aud := fun (x : StreamE) => decide (0xFC000000 + 64 * ch ≤ x.id ∧ x.id < 0xFC000000 + 64 * ch + 64)
          let key := s1.chKey ch
          let s2 : State := { s1 with
            chans := SMap.erase s1.chans ch, watch := SMap.erase s1.watch key,
            nwCfg := SMap.keep s1.nwCfg (fun k => decide (k / 256 ≠ ch)), nwSt := SMap.keep s1.nwSt (fun k => decide (k / 256 ≠ ch)),
            preds := SMap.keep s1.preds (fun k => decide (k / 64 ≠ ch)),
            streams := s1.streams.filter (fun kv => !(kv.1 / 1024 == c.tenant && aud kv.2)),
            items := s1.items.filter (fun kv => decide (kv.2.chan ≠ ch) || kv.2.job.isSome),
            arrived := s1.arrived.filter (fun p => !(p.1 == .cqci ch || p.1 == .desc ch 0 || p.1 == .args ch 0)) }
          let s3 := ((s2.dropReads (.cqci ch)).dropReads (.desc ch 0)).dropReads (.args ch 0)
          match s3.adminIn with
          | some (d, remote) => .next (if field d.bytes 0 1 = 0x41 ∧ d.seq = seq then s3.adDone d remote stOK 0 0 else s3)
          | none => .next s3

/-- HALT_CHANNEL (R445). -/
def execHaltChannel (s : State) : Host.Outcome State Fault Refusal :=
  .next (s.adminCh 0x42 [] (fun s _ ch => .ok (if (s.chan ch).st = .active then s.setChState ch .halted 0 else s)))

/-- RESUME_CHANNEL (R445): fetching resumes at SQ_CI. -/
def execResumeChannel (s : State) : Host.Outcome State Fault Refusal :=
  .next (s.adminCh 0x43 [] (fun s _ ch => .ok (if (s.chan ch).st = .halted then (s.setChState ch .active 0).fetch ch else s)))

/-! ### Programs (R151, R155, R465) -/

/-- LOAD_PROGRAM (R139, R147 to R151, R155). -/
def execLoadProgram (rd : HostRead) (s : State) : Host.Outcome State Fault Refusal :=
  .next (s.admin 0x44 false [(0x08, 12)] (fun s d =>
    let b := d.bytes
    let n := field b 0x10 4
    let t := adTenant b
    let h := SMap.firstFree s.images 1 1023
    let reject := fun (s : State) (k : Nat) => AdR.done (s.raise 0x5102 0 (some t) [(1, k)]) stDESC_INVALID 0 0x5102
    if 64 ≤ t ∨ 1023 < h then .bad s
    else if n < 64 then reject s 1
    else s.adLoad d (field b 8 8) n rd (fun s x =>
      match imageFault x n s.ymaxLimit s.storeSizes with
      | some k => reject s k
      | none => .ok { s with images := SMap.set s.images h ⟨t, x⟩ } h)))

/-- Whether a work item or an expert job in work uses a program. -/
def State.imageUsed (s : State) (p : Nat) : Bool := s.items.any (fun kv => decide (kv.2.image = p ∧ kv.2.phase ≠ .complete))

/-- UNLOAD_PROGRAM (R465): takes effect when no work item uses the image. -/
def execUnloadProgram (s : State) : Host.Outcome State Fault Refusal :=
  .next (s.admin 0x45 false [(0x08, 2)] (fun s d =>
    let p := field d.bytes 8 2
    match SMap.find? s.images p with
    | none => .bad s
    | some im =>
      if im.tenant ≠ adTenant d.bytes then .bad s
      else if s.imageUsed p then .wait s
      else
        let s1 : State := { s with images := SMap.erase s.images p }
        .ok { s1 with eng := s1.eng.map (fun kv => (kv.1, if kv.2.resident = some p then { kv.2 with resident := none } else kv.2)) }))

/-! ### Streams (R102 to R105) -/

/-- The lowest free software handle of a tenant. -/
def State.freeHandle (s : State) (t : Nat) : Nat :=
  ((List.range 960).find? (fun h => !(s.regEntries t).any (fun kv => decide (kv.2.handle = some h)))).getD 960

/-- REG_STREAM (R102 to R104). -/
def execRegStream (s : State) : Host.Outcome State Fault Refusal :=
  .next (s.admin 0x46 false [(0x08, 5), (0x10, 24)] (fun s d =>
    let b := d.bytes
    let t := adTenant b
    let id := field b 0x08 4
    let sh := field b 0x0C 1
    let off := field b 0x18 8
    let len := field b 0x20 8
    let h := s.freeHandle t
    if 64 ≤ t ∨ 1 < sh ∨ 0xF0000000 ≤ id ∨ len = 0 ∨ 2 ^ 64 < off + len then .bad s
    else if 1024 ≤ (s.regEntries t).length ∨ 960 ≤ h then .bad (s.raise 0x1006 0 (some t) [(1, t)])
    else if s.collides t id (field b 0x10 8) (sh == 1) off len then .done s stSTREAM_COLLISION 0 0
    else .ok (s.addStream t ⟨some h, id, field b 0x10 8, sh == 1, off, len, false⟩) h))

/-- DEREG_STREAM (R105): later work items may not name the handle; the entry goes once the work items that do have completed. -/
def execDeregStream (s : State) : Host.Outcome State Fault Refusal :=
  .next (s.admin 0x47 false [(0x08, 2)] (fun s d =>
    let t := adTenant d.bytes
    let h := field d.bytes 8 2
    if !s.handleOk t h then .bad s
    else .ok { s with streams := s.streams.map (fun kv =>
      if kv.1 / 1024 = t ∧ kv.2.handle = some h then (kv.1, { kv.2 with leaving := true }) else kv) }))

/-- A work item that has not completed names a handle of its tenant. -/
def State.handleUsed (s : State) (t h : Nat) : Bool :=
  s.items.any (fun kv => decide (kv.2.tenant = t ∧ kv.2.phase ≠ .complete) &&
    (match SMap.find? s.images kv.2.image with | some im => (imgHandles im.bytes).contains h | none => false))

/-- STREAM_REMOVAL (R105): the last work item that named a deregistered handle has completed; its entry goes. -/
def execStreamRemoval (t h : Nat) (s : State) : Host.Outcome State Fault Refusal :=
  if s.handleUsed t h then .next s
  else .next { s with streams := s.streams.filter (fun kv => !(decide (kv.1 / 1024 = t) && decide (kv.2.handle = some h) && kv.2.leaving)) }

/-! ### Pools and rings (R468, R500, R605) -/

/-- SET_POOLS (R500). -/
def execSetPools (s : State) : Host.Outcome State Fault Refusal :=
  .next (s.admin 0x55 false [(0x08, 10)] (fun s d =>
    let f := fun (o : Nat) => field d.bytes o 2
    let e := s.availCount
    if f 8 ≤ 192 ∧ f 0x0A ≤ 192 ∧ f 0x0C ≤ 192 ∧ f 0x0E ≤ 192 ∧ f 0x10 ≤ 192 ∧ f 8 ≤ f 0x0A ∧ f 0x0C ≤ f 0x0E ∧ f 8 + f 0x0C ≤ e
        ∧ e ≤ f 0x0A + f 0x0E ∧ f 0x10 ≤ e then
      .ok (s.setReg rSRV_LIMITS (BitVec.ofNat 64 (f 8 + 2 ^ 8 * f 0x0A + 2 ^ 16 * f 0x0C + 2 ^ 24 * f 0x0E + 2 ^ 32 * f 0x10)))
    else .bad s))

/-- SET_EVENT_RING (R468, R605): held events are written in order when the device ring comes to exist. -/
def execSetEventRing (s : State) : Host.Outcome State Fault Refusal :=
  .next (s.admin 0x50 false [(0x08, 17), (0x1A, 2)] (fun s d =>
    let b := d.bytes
    let t := adTenant b
    let ring := field b 0x08 8
    let ci := field b 0x10 8
    let l := field b 0x18 1
    let v := field b 0x1A 2
    if l < 4 ∨ 16 < l ∨ (256 ≤ v ∧ v ≠ 0xFFFF) ∨ ring % 32 ≠ 0 ∨ ci % 4 ≠ 0 ∨ (t ≠ 255 ∧ !s.tenantEnabled t) then .bad s
    else if !(s.adAddr b ring (32 * 2 ^ l) && s.adAddr b ci 4) then .done s stADDR_RANGE 0 0
    else
      let r : Ring := { iova := ring, ciIova := ci, log2 := l, vector := if v = 0xFFFF then none else some v }
      let s1 : State := { s with rings := SMap.set s.rings t r }
      if t ≠ 255 then .ok s1
      else
        let s2 := s1.evHeld.foldl (fun s e => s.toRing 255 e) s1
        .ok { s2 with evHeld := [], evLost := false,
                      rings := if s1.evLost then (match SMap.find? s2.rings 255 with | some x => SMap.set s2.rings 255 { x with lost := true } | none => s2.rings) else s2.rings }))

end Sys2Proof.Machine
end

