-- ==== Sys2Proof/Machine/AdminMem.lean ====
section
/-! DEFINITION. Admin descriptors of memory, tables and keys: granules, COPY, fences, norm watch, predictors, expert slots, circuits,
repair record and reloadable regions (R229, R230, R304 to R306, R315, R318, R351, R365, R369, R399, R464 to R466, R537 to R542). -/

namespace Sys2Proof.Machine

/-! ### Granules (R304, R306) -/

/-- Granules of an admin operand; none where they lie outside the module's 4,096 or the count is 0. -/
def adGranules (b : Bytes) : Option (List Nat) :=
  let f := field b 8 2
  let n := field b 0x0A 2
  if n = 0 ∨ 4096 < f + n then none else some ((List.range n).map (· + f))

/-- ASSIGN_GRANULES (R304, R306): every granule must be Free. -/
def execAssignGranules (s : State) : Host.Outcome State Fault Refusal :=
  .next (s.admin 0x48 false [(0x08, 5)] (fun s d =>
    let o := field d.bytes 0x0C 1
    match adGranules d.bytes with
    | none => .bad s
    | some gs =>
      if 0x40 < o ∨ gs.any (fun g => decide (s.ownerOf g ≠ 0xFF)) then .bad s
      else .ok { s with mem := { s.mem with owner := gs.foldl (fun m g => SMap.set m g o) s.mem.owner } }))

/-- RELEASE_GRANULES (R306, R542): the granules go to Zeroing. -/
def execReleaseGranules (s : State) : Host.Outcome State Fault Refusal :=
  .next (s.admin 0x49 false [(0x08, 4)] (fun s d =>
    match adGranules d.bytes with
    | none => .bad s
    | some gs =>
      if gs.any (fun g => decide (0x40 < s.ownerOf g)) then .bad s
      else .ok (gs.foldl State.releaseGranule s)))

/-- Every line of a granule as zeros with a clear mark. -/
def Mem.zeroGranule (m : Mem) (g : Nat) : Mem :=
  let inG := fun (line : Nat) => decide (granuleOf (64 * line) = g)
  { m with data := Memory.zero m.data (g * 2 ^ 28) (2 ^ 28), marks := SMap.keep m.marks (fun l => !inG l),
           errs := SMap.keep m.errs (fun l => !inG l), wcb := m.wcb.filter (fun w => !inG w.line) }

/-- The line writes of zeroing a granule pass their stack: a request, and each MCH's share of the lines through its write queue
(R306, R326, R328). -/
def State.zeroWrites (s : State) (g : Nat) : State :=
  let st := g / 512
  let l := s.mchs st
  let upTo := fun (k i : Nat) => (k + l.length - 1 - i) / l.length
  let per := fun (i : Nat) => 16 * (if l.length = 32 then 2 ^ 13 else upTo (2 ^ 18 * (g % 512 + 1)) i - upTo (2 ^ 18 * (g % 512)) i)
  l.zipIdx.foldl (fun s (c, i) => s.queueWrites st c (per i)) ((s.request st).tlm (0x240 + 8 * st) (2 ^ 28))

/-- GRANULE_ZEROING_COMPLETE (R306): the granule is zeros, with clear marks, and Free. -/
def execGranuleZeroingComplete (g : Nat) (s0 : State) : Host.Outcome State Fault Refusal :=
  if !s0.mem.zeroing.contains g then .next s0
  else
    let s := s0.zeroWrites g
    let m := s.mem.zeroGranule g
    .next { s with mem := { m with owner := SMap.set m.owner g 0xFF, zeroing := m.zeroing.filter (· != g) },
                   tenGone := (s.tenGone.map (fun kv => (kv.1, kv.2.filter (· != g)))).filter (fun kv => !kv.2.isEmpty) }

/-! ### COPY (R464, R465, R538, R542) -/

/-- Module ranges a COPY may touch: the named tenant's granules and Shared ones, or those of every tenant. -/
def State.copyMay (s : State) (t a n : Nat) : Bool :=
  s.granulesOk a n (fun o => o == 0x40 || (if t = 255 then decide (o < 64) else o == t))

/-- The granules that a range touches. -/
def granulesOf (a n : Nat) : List Nat := if n = 0 then [] else (List.range ((a + n - 1) / 2 ^ 28 - a / 2 ^ 28 + 1)).map (· + a / 2 ^ 28)

/-- A COPY into granules begins: a refill there stops and starts again after it (R542). -/
def State.copyBegins (s : State) (a n : Nat) : State :=
  (granulesOf a n).foldl (fun s g => match SMap.find? s.grans g with
    | none => s
    | some x =>
      let y := if x.code = 3 then { x with code := 2, tries := 0, retryAt := none, failed := false, written := false } else x
      ({ s with grans := SMap.set s.grans g { y with copies := y.copies + 1 } } : State).dropReads (.refill g)) s

/-- A COPY into granules completes: reference checksums of CLEAN and QUARANTINED ones are computed anew (R538). -/
def State.copyEnds (s : State) (a n : Nat) : State :=
  (granulesOf a n).foldl (fun s g => match SMap.find? s.grans g with
    | none => s
    | some x =>
      let (c, _, s1) := if x.code = 1 ∨ x.code = 2 then s.granuleCrc g else (x.crc, 0, s)
      match SMap.find? s1.grans g with
      | some y => { s1 with grans := SMap.set s1.grans g { y with crc := c, copies := x.copies - 1 } }
      | none => s1) s

/-- COPY (R464, R465): checked before any byte moves; it then runs beside later descriptors. -/
def execCopy (s : State) : Host.Outcome State Fault Refusal :=
  match s.adminIn with
  | none => .next s
  | some (d, remote) =>
    let b := d.bytes
    let src := field b 0x08 8
    let dst := field b 0x10 8
    let n := field b 0x18 4
    let dir := field b 0x1C 1
    let t := adTenant b
    if field b 0 1 ≠ 0x4A then .next s
    else if !remote ∧ !s.isMember (adMember b) then .next (s.adDone d false stDESC_INVALID 0 0)
    else if !adReserved false [(0x08, 21)] b ∨ n % 32 ≠ 0 ∨ 2 ^ 30 < n ∨ 2 < dir then .next (s.adDone d remote stDESC_INVALID 0 0)
    else
      let take := fun (s : State) => if remote then (match s.takeMsg (fun m => m.isMgmt 0xAD && decide (field m.body 4 4 = d.seq)) with | some (_, x) => x | none => s)
        else s.popDesc 0
      let cp : CopySt := { d := d, member := if remote then s.self else adMember b, ordered := bit (adFlags b) 1, begun := true }
      if !remote ∧ adMember b ≠ s.self then
        .next (({ take s with copies := SMap.set s.copies d.seq cp } : State).send ⟨8, 1, 64 * s.rack + adMember b, 0, 0, adSend d⟩)
      else if !((if dir = 0 then s.adAddr b src n else s.copyMay t src n) && (if dir = 1 then s.adAddr b dst n else s.copyMay t dst n)) then
        .next (s.adDone d remote stADDR_RANGE 0 0)
      else
        let s1 : State := { take s with copies := SMap.set s.copies d.seq cp }
        let s2 := if dir = 1 then s1 else s1.copyBegins dst n
        .next (if dir = 0 then s2.hostRd 0 1 t (.copy d.seq) src n else s2)

/-- A COPY has ended with a status. -/
def State.copyDone (s : State) (cp : CopySt) (st ev : Nat) : State :=
  let b := cp.d.bytes
  let who : ReadWho := .copy cp.d.seq
  let s1 : State := { s.dropReads who with copies := SMap.erase s.copies cp.d.seq, arrived := s.arrived.filter (fun p => !(p.1 == who)) }
  let s2 := if field b 0x1C 1 = 1 then s1 else s1.copyEnds (field b 0x10 8) (field b 0x18 4)
  s2.adRec cp.d st 0 ev

/-- The highest mark of a list of bytes with their marks. -/
def topMark (l : List (Byte × Nat)) : Nat := l.foldl (fun m p => max m p.2) 0

/-- Bytes for the host: each unit of 32 bytes that holds a marked one reads 0xFF throughout (R309, R462). -/
def maskUnits : Nat → List (Byte × Nat) → Bytes
  | 0, _ => []
  | n + 1, l =>
    let u := l.take 32
    (if topMark u = 0 then u.map (·.1) else u.map (fun _ => 0xFF)) ++ maskUnits n (l.drop 32)

/-- COPY_COMPLETE (R309, R462, R465, R471, R474): a COPY's bytes have moved; it completes with the status of the highest mark read.
One that another member carries out completes with that member's answer. -/
def execCopyComplete (id : Nat) (rd : HostRead) (s : State) : Host.Outcome State Fault Refusal :=
  match SMap.find? s.copies id with
  | none => .next s
  | some cp =>
    let b := cp.d.bytes
    let n := field b 0x18 4
    let src := field b 0x08 8
    let dst := field b 0x10 8
    let dir := field b 0x1C 1
    let who : ReadWho := .copy id
    let fin := fun (s : State) (m : Nat) => s.copyDone cp (if m = 0 then stOK else markStatus m) 0
    let fail := fun (s : State) (r : HostRead) => match r with
      | .range => s.copyDone cp stADDR_RANGE 0
      | .undelivered => s.copyDone cp stFABRIC_UNREACHABLE 0
      | _ => (s.hostFailed (if dir = 0 then src else dst) 3 (adWho b)).copyDone cp stHOST_TIMEOUT 0x5001
    if cp.member ≠ s.self then
      match s.takeMsg (fun m => m.isMgmt 0xAE && decide (field m.body 4 4 = id)) with
      | none => .next s
      | some (m, s1) => .next (({ s1 with copies := SMap.erase s1.copies id } : State).adRec cp.d (field m.body 1 1) 0 (field m.body 2 2))
    else if n = 0 then .next (fin s 0)
    else if dir = 0 then
      match s.hostData who rd with
      | none => .next s
      | some (.ok x p, s1) =>
        let m := if p then 3 else 0
        .next (fin (s1.memWriteMarks dst (n / 32 + 2) ((padTo n x).map (fun v => (v, m)))) m)
      | some (r, s1) => .next (fail s1 r)
    else if dir = 2 then
      let (l, s1) := s.memReadMarks src n 0
      .next (fin (s1.memWriteMarks dst (n / 32 + 2) l) (topMark l))
    else if s.reading who then
      match s.hostData who .failed with
      | none => .next s
      | some (.ok _ _, s1) => .next (fin s1 (topMark (s1.memReadMarks src n 0).1))
      | some (r, s1) => .next (fail s1 r)
    else
      let (l, s1) := s.memReadMarks src n 0
      let x := maskUnits (n / 32) l
      .next (if s.isHead then fin (s1.hostWr 0 1 (adTenant b) false none dst x) (topMark l) else s1.hostWr 0 1 (adTenant b) false (some who) dst x)

/-- MEM_FENCE (R318): every entry of the write-combining buffers is flushed. -/
def execMemFence (s : State) : Host.Outcome State Fault Refusal :=
  .next (s.admin 0x4B false [] (fun s _ => .ok (s.flushWhere (fun _ => true))))

/-! ### Norm watch and predictors (R229, R230, R365, R369) -/

/-- LOAD_NORMWATCH (R229): a table with an entry out of range is rejected whole; no state resets. -/
def execLoadNormwatch (rd : HostRead) (s : State) : Host.Outcome State Fault Refusal :=
  .next (s.adminCh 0x4C [(0x08, 8)] (fun s d ch =>
    s.adLoad d (field d.bytes 8 8) 2048 rd (fun s x =>
      let es := (List.range 256).map (fun i => (i, field x (8 * i) 8))
      if !es.all (fun e => nwValid e.2) then .bad s
      else .ok { s with nwCfg := es.foldl (fun m e => if e.2 = nwDefault then SMap.erase m (256 * ch + e.1) else SMap.set m (256 * ch + e.1) e.2) s.nwCfg })))

/-- The 16-byte record of a watch point (R230). -/
def nwRecord (x : NwSt) : Bytes :=
  leBytes 2 x.m ++ leBytes 2 x.lastMs ++ leBytes 4 (satN 32 x.updates) ++ leBytes 4 (satN 32 x.jumps) ++ leBytes 4 (x.jumpStep % 2 ^ 32)

/-- QUERY_NORMWATCH (R230). -/
def execQueryNormwatch (s : State) : Host.Outcome State Fault Refusal :=
  .next (s.adminCh 0x4D [(0x08, 8)] (fun s d ch =>
    s.adStore d (field d.bytes 8 8) ((List.range 255).flatMap (fun i => nwRecord (SMap.get s.nwSt (256 * ch + i) {})))))

/-- A predictor table entry; none where a field is out of range. -/
def predEntry (e : Bytes) : Option Pred :=
  let w := field e 0 8
  let p : Pred := { mode := bits w 0 2, act := bits w 2 2, fallback := bits w 4 1, auditLog2 := bits w 5 4, floor := bits w 9 16,
                    limit := bits w 25 17, seed := field e 8 8 }
  if p.mode ≤ 2 ∧ (p.fallback = 1 ∨ p.act ≤ 2) ∧ 3 ≤ p.auditLog2 ∧ p.auditLog2 ≤ 10 ∧ !lIsOvf p.floor ∧ 1 ≤ p.limit ∧ p.limit ≤ 100000 ∧ bits w 42 22 = 0
  then some p else none

/-- LOAD_PREDICTOR (R103, R365, R369): every predictor's state resets; audit streams of speculative entries take the place of the
earlier ones. -/
def execLoadPredictor (rd : HostRead) (s : State) : Host.Outcome State Fault Refusal :=
  .next (s.adminCh 0x4E [(0x08, 8)] (fun s d ch =>
    s.adLoad d (field d.bytes 8 8) 1024 rd (fun s x =>
      let es := (List.range 64).map (fun i => (i, predEntry ((x.drop (16 * i)).take 16)))
      let t := (s.chan ch).tenant
      let aud := fun (y : StreamE) => decide (0xFC000000 + 64 * ch ≤ y.id ∧ y.id < 0xFC000000 + 64 * ch + 64)
      let s1 : State := { s with streams := s.streams.filter (fun kv => !(kv.1 / 1024 == t && aud kv.2)) }
      let new := es.filterMap (fun (i, p) => match p with | some p => (if p.mode = 2 then some (i, p) else none) | none => none)
      if es.any (fun e => e.2.isNone) || decide (1024 < (s1.regEntries t).length + new.length) then .bad s
      else
        let s2 := new.foldl (fun s (i, p) => s.addStream t ⟨none, auditId ch i, p.seed, false, 0, 2 ^ 48, false⟩) s1
        .ok { s2 with preds := es.foldl (fun m (i, p) => match p with
          | some p => if p = {} then SMap.erase m (64 * ch + i) else SMap.set m (64 * ch + i) p
          | none => m) s2.preds })))

/-- LOAD_EXPERT_SLOT (R301, R351): a module without a stack refuses every entry. -/
def execLoadExpertSlot (s : State) : Host.Outcome State Fault Refusal :=
  .next (s.admin 0x4F false [(0x08, 4), (0x10, 10)] (fun s d =>
    let b := d.bytes
    let slot := field b 8 1
    let v := field b 9 1
    let p := field b 0x0A 2
    let t := adTenant b
    if 1 < v ∨ (v = 1 ∧ !s.hasStack) then .bad s
    else if v = 0 then .ok { s with slots := SMap.erase s.slots slot }
    else match SMap.find? s.images p with
      | none => .bad s
      | some im => if im.tenant ≠ t ∨ 64 ≤ t then .bad s else .ok { s with slots := SMap.set s.slots slot ⟨t, p, field b 0x10 8, field b 0x18 2⟩ }))

/-! ### Keys, circuits and the repair record (R315, R399, R466) -/

/-- LOAD_UPLINK_KEY (R399, R534): the key and salt of a port; its message counters start again. `selfTest` is the outcome of the
cryptographic unit's self-test, whose failure is fatal. -/
def execLoadUplinkKey (rd : HostRead) (selfTest : Bool) (s : State) : Host.Outcome State Fault Refusal :=
  .next (s.admin 0x51 false [(0x08, 1), (0x0C, 12)] (fun s d =>
    let b := d.bytes
    let p := field b 8 1
    if p < 12 ∨ 15 < p then .bad s
    else s.adLoad d (field b 0x10 8) 32 rd (fun s x =>
      if !selfTest then .done (s.moduleFatal 5) stINTERNAL 0 0x3204
      else .ok { s with keys := SMap.set s.keys p (x ++ (b.drop 0x0C).take 4), nonces := SMap.erase (SMap.erase s.nonces (2 * p)) (2 * p + 1) })))

/-- The circuits of a plan entry (R466): the 4-byte words of rack `r`. -/
def planWord (plan : Bytes) (r i : Nat) : Nat := field plan (16 * r + 4 * i) 4

def planOk (own : Nat) (plan : Bytes) : Bool :=
  (List.range 64).all (fun r => (List.range 4).all (fun i =>
    let w := planWord plan r i
    decide (w < 2 ^ 15) && (decide (r ≠ own) || !bit w 14)))

/-- LOAD_CIRCUITS (R402, R466): the plan takes effect when the tables are computed from it. -/
def execLoadCircuits (rd : HostRead) (s : State) : Host.Outcome State Fault Refusal :=
  .next (s.admin 0x52 false [(0x08, 8)] (fun s d =>
    s.adLoad d (field d.bytes 8 8) 1024 rd (fun s x =>
      if planOk s.rack x then .ok { s with planNext := some x } else .bad s)))

/-- REPAIR_EDIT (R315): the entry of an MCH leaves the repair record. -/
def execRepairEdit (s : State) : Host.Outcome State Fault Refusal :=
  .next (s.admin 0x53 false [(0x08, 2)] (fun s d =>
    let st := field d.bytes 8 1
    let c := field d.bytes 9 1
    if 7 < st ∨ 31 < c then .bad s else .ok { s with repair := s.repair.filter (· != 32 * st + c) }))

/-! ### Reloadable regions (R537, R542) -/

/-- Checksums of granules, with the highest mark met. -/
def State.granuleCrcs (s : State) : List Nat → List (Nat × Nat) × Nat × State
  | [] => ([], 0, s)
  | g :: t =>
    let (c, m, s1) := s.granuleCrc g
    let (l, m2, s2) := s1.granuleCrcs t
    ((g, c) :: l, max m m2, s2)

/-- DECLARE_RELOADABLE (R537, R538, R541, R542). -/
def execDeclareReloadable (s : State) : Host.Outcome State Fault Refusal :=
  .next (s.admin 0x54 false [(0x08, 7), (0x10, 8)] (fun s d =>
    let b := d.bytes
    let f := field b 8 2
    let n := field b 0x0A 2
    match adGranules b with
    | none => .bad s
    | some gs =>
      let same := s.regions.find? (fun kv => decide (kv.2.first = f ∧ kv.2.count = n))
      let clash := s.regions.any (fun kv => decide (kv.2.first < f + n ∧ f < kv.2.first + kv.2.count) && !decide (kv.2.first = f ∧ kv.2.count = n))
      let k := match same with | some (i, _) => i | none => SMap.firstFree s.regions 0 256
      if 1 < field b 0x0C 1 ∨ 63 < field b 0x0D 1 ∨ 63 < field b 0x0E 1 ∨ gs.any (fun g => decide (s.ownerOf g ≠ 0x40)) ∨ clash ∨ 255 < k
          ∨ gs.any (fun g => match SMap.find? s.grans g with | some x => x.code == 3 | none => false) then .bad s
      else if field b 0x0C 1 = 0 ∧ !s.adAddr b (field b 0x10 8) (n * 2 ^ 28) then .done s stADDR_RANGE 0 0
      else
        let (cs, m, s1) := s.granuleCrcs gs
        if m ≠ 0 then .done s1 stWEIGHT_POISON 0 0
        else
          let r : Region := ⟨f, n, field b 0x0C 1, field b 0x0D 1, field b 0x0E 1, field b 0x10 8, adTenant b⟩
          let s2 : State := { s1 with
            regions := SMap.set s1.regions k r,
            grans := cs.foldl (fun m (g, c) => SMap.set m g { code := 1, crc := c, copies := (SMap.get m g ⟨0, 0, 0, none, 0, false, false⟩).copies }) s1.grans }
          .ok (gs.foldl State.releaseStalled s2)))

end Sys2Proof.Machine
end

