-- ==== Sys2Proof/Machine/Proxy.lean ====
section
/-! DEFINITION. The head's proxy engine and the answers of its members' requests (R396, R469 to R472). -/

namespace Sys2Proof.Machine

/-- A response body (R471): TAG, STATUS and read data. -/
def proxyReply (tag st : Nat) (data : Bytes) : Bytes := leBytes 4 tag ++ leBytes 1 st ++ leBytes 3 0 ++ data

/-- Answer a proxy request. -/
def State.proxyAnswer (s : State) (m : Msg) (st : Nat) (data : Bytes) : State :=
  s.send ⟨4, m.tc, m.peer, m.flow, m.tenant, proxyReply (field m.body 4 4) st data⟩

/-- The window check of a request (R437, R472); TENANT 0xFF is not checked. -/
def State.proxyMay (s : State) (b : Bytes) : Bool :=
  let t := field b 2 1
  decide (t = 255) || (s.tenantEnabled t && s.inWindow t (field b 8 8) (field b 0x10 4))

/-- PROXY_READ (R469 to R472): a member's read is checked and issued on PCI Express, or answered RANGE. -/
def execProxyRead (s : State) : Host.Outcome State Fault Refusal :=
  match (if s.isHead then s.takeAsk 1 else none) with
  | none => .next s
  | some (m, s1) =>
    let b := m.body
    let n := field b 0x10 4
    if 32768 < n then .next (s1.proxyAnswer m 4 [])
    else if !s1.proxyMay b then .next (s1.proxyAnswer m 2 [])
    else .next (s1.hostRd1 m.flow m.tc (field b 2 1) (.proxy m.peer (field b 4 4 + 2 ^ 32 * m.flow + 2 ^ 48 * m.tenant + 2 ^ 56 * m.tc)) (field b 8 8) n 0)

/-- PROXY_READ_RETURN (R471): the head's read for a member has ended; its outcome goes back. -/
def execProxyReadReturn (tag : Nat) (rd : HostRead) (s : State) : Host.Outcome State Fault Refusal :=
  match SMap.find? s.reads tag with
  | none => .next s
  | some r =>
    match r.who with
    | .proxy peer t =>
      let s1 : State := { s with reads := SMap.erase s.reads tag, arrived := s.arrived.filter (fun p => !(p.1 == r.who)) }
      let out := if s.arrived.any (fun p => p.1 == r.who) then HostRead.failed else rd
      let (st, data) : Nat × Bytes := match out with
        | .ok b false => (0, padTo r.len b)
        | .ok b true => (3, padTo r.len b)
        | .failed => (1, [])
        | .range => (2, [])
        | .undelivered => (4, [])
      .next (s1.send ⟨4, t / 2 ^ 56, peer, t / 2 ^ 32 % 2 ^ 16, t / 2 ^ 48 % 2 ^ 8, proxyReply (t % 2 ^ 32) st data⟩)
    | _ => .next s

/-- PROXY_WRITE (R469 to R472): a member's write is checked and issued, then answered. -/
def execProxyWrite (s : State) : Host.Outcome State Fault Refusal :=
  match (if s.isHead then s.takeAsk 2 else none) with
  | none => .next s
  | some (m, s1) =>
    let b := m.body
    let n := field b 0x10 4
    if 32768 < n ∨ b.length ≠ 0x18 + n then .next (s1.proxyAnswer m 4 [])
    else if !s1.proxyMay b then .next (s1.proxyAnswer m 2 [])
    else .next ((s1.hostWr m.flow m.tc (field b 2 1) (bit (field b 3 1) 0) none (field b 8 8) (b.drop 0x18)).proxyAnswer m 0 [])

/-- PROXY_INTERRUPT (R461, R469, R470): a member's vector is signalled by the head. -/
def execProxyInterrupt (s : State) : Host.Outcome State Fault Refusal :=
  match (if s.isHead then s.takeAsk 3 else none) with
  | none => .next s
  | some (m, s1) =>
    let v := field m.body 0x14 2
    if 255 < v then .next (s1.proxyAnswer m 4 []) else .next ((s1.signal 0 (some v)).proxyAnswer m 0 [])

/-- The outcome of a proxied access reaches its requester (R471, R474). -/
def State.proxyOutcome (s : State) (tag : Nat) (r : HostRead) : State :=
  match s.reads.find? (fun kv => decide (kv.1 % 2 ^ 32 = tag)) with
  | none => s
  | some (k, q) =>
    let s1 : State := { s with reads := SMap.erase s.reads k }
    match q.who with
    | .dma e n =>
      match (s.engine e).dma.find? (fun x => x.id == n) with
      | none => s1
      | some d =>
        match r with
        | .ok b p => s1.setEngine e { s1.engine e with dma := (s1.engine e).dma.map (fun x => if x.id = n then { x with buf := x.buf ++ [(q.off, b, p)] } else x) }
        | .failed => s1.dmaFate e d .hostFail
        | .range => s1.dmaFate e d .hostRange
        | .undelivered => s1.dmaFate e d .undelivered
    | .cqci ch =>
      match r with
      | .ok b _ => s1.setCqCi ch (field b 0 4)
      | .undelivered => s1.channelError ch 5
      | _ => (s1.hostFailed q.iova 0 (some (s.chan ch).tenant)).channelError ch 3
    | who => { s1 with arrived := s1.arrived ++ [(who, q.off, r)] }

/-- PROXY_RESPONSE (R471): the head's answer reaches the member; a failure is reported. -/
def execProxyResponse (s : State) : Host.Outcome State Fault Refusal :=
  match s.takeMsg (fun m => m.kind == 4) with
  | none => .next s
  | some (m, s1) =>
    let tag := field m.body 0 4
    let st := field m.body 4 1
    let data := m.body.drop 8
    let r : HostRead := if st = 0 then .ok data false else if st = 3 then .ok data true else if st = 2 then .range else .failed
    let s2 := if st = 0 ∨ st = 3 then s1 else s1.raise 0x5006 0 none [(1, s1.self), (4, tag), (1, st)]
    .next (s2.proxyOutcome tag r)

end Sys2Proof.Machine
end

