-- ==== Sys2Proof/Machine/Fabric.lean ====
section
/-! DEFINITION. Port training and lanes, light, views and routes, and the by-pass switches (R377 to R384, R392, R400 to R403, R407 to
R409). -/

namespace Sys2Proof.Machine

/-! ### Training, lanes and light -/

/-- The torus ports are joined past the module: by-passed, or a switch is moving (R407, R408). -/
def State.bypassed (s : State) : Bool := decide (s.getField 0x60018 0 3 ≠ 0) || s.bypMove.isSome

/-- A port that carries nothing waits for light, or trains where it has it (R384). -/
def State.portIdle (s : State) (p : Nat) : State :=
  let st := if (s.port p).light ∧ !(decide (p < 12) && s.bypassed) then 1 else 0
  (((s.linkStart p).setField (portOff p 8) 0 3 st).setField (portOff p 8) 3 8 0).seePorts

/-- Steps along the ring in direction `dir` from one module to another, 1 to 3; none where the other is not on that ring. -/
def ringSteps (m peer dir : Nat) : Option Nat :=
  [1, 2, 3].find? (fun k => withCoord m (dir / 2) ((coord m (dir / 2) + (if dir % 2 = 0 then k else 4 - k)) % 4) == peer)

/-- The port that R378 cables to a torus port. -/
def mate (p : Nat) : Nat := if p % 2 = 0 then p + 1 else p - 1

/-- PORT_TRAINING_COMPLETE (R378, R383, R384, R392, R402): lanes in service, identity of the peer, measured round trip in ns. The
modules between this one and a ring peer farther away are passed by. -/
def execPortTrainingComplete (p : PortId) (lanes : BitVec 8) (peerMod peerRack peerPort rtt : Nat) (s : State) : Host.Outcome State Fault Refusal :=
  let n := p.toNat
  if s.portSt n ≠ 1 then .next s
  else
    let o := portOff n 8
    let s1 := (((s.setField o 15 6 peerMod).setField o 21 6 peerRack).setField o 27 4 peerPort).setField o 31 16 (min rtt 65535)
    let k := if peerRack = s.rack ∧ peerPort = mate n then ringSteps s.self peerMod (n % 6) else none
    if n < 12 ∧ k.isNone then .next (s1.portDown n 3)
    else if popcount 8 lanes.toNat < 4 then .next (s1.portDown n 1)
    else
      let passed := if n < 12 then (List.range (k.getD 1 - 1)).map (fun i =>
        withCoord s.self (n % 6 / 2) ((coord s.self (n % 6 / 2) + (if n % 2 = 0 then i + 1 else 3 - i)) % 4)) else []
      let dark := s1.view.dark.filter (fun m => !(decide (n < 12) && m == peerMod) && !passed.contains m) ++ passed
      let s2 := ((s1.linkStart n).setField o 0 3 (if lanes = 255 then 2 else 3)).setField o 3 8 lanes.toNat
      let s3 : State := if dark = s2.view.dark then s2 else { s2 with view := { s2.view with dark := dark }, floodDue := true, viewDue := true }
      let s4 := (s3.seePorts).raise 0x4001 0 none []
      .next (if 8700 < rtt then s4.raise 0x4004 0 none [] else s4)

/-- PORT_RETRAIN_TIMER (R384): 1 ms after DOWN, except for CABLE and EN. -/
def execPortRetrainTimer (p : PortId) (s : State) : Host.Outcome State Fault Refusal :=
  let n := p.toNat
  let cause := s.getField (portOff n 8) 11 4
  match (s.port n).downAt with
  | none => .next s
  | some t => if s.portSt n ≠ 4 ∨ s.now < t + 1000000 ∨ cause = 3 ∨ s.getField (portOff n 0) 0 1 = 0 then .next s else .next (s.portIdle n)

/-- A lane leaves service (R380, R381, R383). -/
def State.laneOut (s : State) (p lane : Nat) : State :=
  let l := s.lanes p
  if !bit l lane ∨ !s.carrying p then
    if (s.port p).joining.getLsbD lane then s.setPort p { s.port p with joining := (s.port p).joining &&& ~~~(1#8 <<< lane) } else s
  else
    let l1 := l - 2 ^ lane
    if popcount 8 l1 < 4 then s.portDown p 1
    else ((s.setField (portOff p 8) 3 8 l1).setField (portOff p 8) 0 3 3).raise 0x4002 0 none []

/-- LANE_LOCK_LOSS (R381, R383). -/
def execLaneLockLoss (p : PortId) (lane : LaneId) (s : State) : Host.Outcome State Fault Refusal := .next (s.laneOut p.toNat lane.toNat)

/-- LANE_RETURN (R384): a tuned and trained lane joins again at the next 5-flit boundary; with eight the port is UP. -/
def execLaneReturn (p : PortId) (lane : LaneId) (s : State) : Host.Outcome State Fault Refusal :=
  let n := p.toNat
  let l := s.lanes n
  if !s.carrying n ∨ bit l lane.toNat then .next s
  else .next ((s.setPort n { s.port n with joining := (s.port n).joining ||| (1#8 <<< lane.toNat) }).joinLanes n)

/-- LASER_CHECK (R380): the feed power of each wavelength of a port in hundredths of a dBm; a lane in service below +7 dBm leaves it. -/
def execLaserCheck (p : PortId) (powers : List Int) (s : State) : Host.Outcome State Fault Refusal :=
  let n := p.toNat
  .next ((List.range 8).foldl (fun s i =>
    match powers[i]? with
    | some w => if w < 700 ∧ bit (s.lanes n) i ∧ s.carrying n then (s.raise 0x4003 0 none []).laneOut n i else s
    | none => s) s)

/-- LIGHT_RETURN (R384): light at all lanes of a DARK port. -/
def execLightReturn (p : PortId) (s : State) : Host.Outcome State Fault Refusal :=
  let n := p.toNat
  let s1 := s.setPort n { s.port n with light := true }
  .next (if s1.portSt n = 0 ∧ s1.getField (portOff n 0) 0 1 = 1 then s1.portIdle n else s1)

/-- LIGHT_LOSS (R384): a port that carries traffic goes DOWN with cause light, another DARK; one forced DOWN stays so. -/
def execLightLoss (p : PortId) (s : State) : Host.Outcome State Fault Refusal :=
  let n := p.toNat
  let s1 := s.setPort n { s.port n with light := false }
  .next (if s1.carrying n then s1.portDown n 6 else if s1.getField (portOff n 0) 0 1 = 0 then s1 else s1.portIdle n)

/-- FAB_PORT_CTRL.EN changes (R384, R427). -/
def State.portEn (s : State) (p : Nat) (v : Bool) : State :=
  let was := decide (s.getField (portOff p 0) 0 1 = 1)
  let s1 := s.setField (portOff p 0) 0 1 (if v then 1 else 0)
  if !v then (if was then s1.portDown p 5 else s1)
  else if was then s1 else s1.portIdle p

/-- FAB_PORT_CTRL.RETRAIN is written with 1 (R427). -/
def State.portRetrain (s : State) (p : Nat) : State := if s.getField (portOff p 0) 0 1 = 0 then s else s.portIdle p

/-! ### Views, floods and routes (R400 to R403) -/

def maskOf (l : List Nat) : Nat := (List.range 64).foldl (fun n i => if l.contains i then n + 2 ^ i else n) 0
def ofMask (n m : Nat) : List Nat := (List.range n).filter (fun i => m.testBit i)

/-- Fabric management bodies that carry views (KIND 8; log 40): 0xF0 within the rack: ports up, modules passed by, circuits of this
module down; 0xF1 to other racks: modules of this rack to which this one holds no route, for even and for odd flows. -/
def State.floodBody (s : State) : Bytes :=
  leBytes 1 0xF0 ++ leBytes 1 0 ++ leBytes 2 (SMap.get s.view.up s.self 0) ++ leBytes 4 0 ++ leBytes 8 (maskOf s.view.dark)
    ++ leBytes 32 ((s.view.circDown.filter (fun k => decide (bits (field s.tables.plan (4 * k) 4) 0 6 = s.self))).foldl (fun n k => n + 2 ^ k) 0)
def State.farBody (s : State) : Bytes :=
  let cut := fun (flow : Nat) => maskOf ((List.range 64).filter (fun m => !s.routeLocal m flow))
  leBytes 1 0xF1 ++ leBytes 7 0 ++ leBytes 8 (cut 0) ++ leBytes 8 (cut 1)

/-- STATE_FLOOD (R400): a port change goes to every module of the rack, circuit and module state to the racks that circuits reach. -/
def execStateFlood (s : State) : Host.Outcome State Fault Refusal :=
  if !s.floodDue then .next s
  else
    let mine := ((List.range 64).filter (fun m => m != s.self && !s.view.dark.contains m)).map (fun m => (⟨8, 1, 64 * s.rack + m, 0, 0, s.floodBody⟩ : Msg))
    let racks := (List.range 64).filter (fun r => r != s.rack && !(s.tables.circuits r).isEmpty)
    let far := racks.flatMap (fun r => (List.range 64).map (fun m => (⟨8, 1, 64 * r + m, 0, 0, s.farBody⟩ : Msg)))
    .next { s with floodDue := false, outbox := s.outbox ++ mine ++ far }

/-- What a flood message adds to the view. -/
def View.learn (v : View) (plan : Bytes) (rack : Nat) (m : Msg) : View :=
  if field m.body 0 1 = 0xF0 then
    let from_ := m.peer % 64
    let circ := ofMask 256 (field m.body 16 32)
    { v with up := SMap.set v.up from_ (field m.body 2 2),
             dark := (v.dark.filter (fun x => x != from_)) ++ (ofMask 64 (field m.body 8 8)).filter (fun x => !v.dark.contains x && x != from_),
             circDown := v.circDown.filter (fun k => decide (bits (field plan (4 * k) 4) 0 6 ≠ from_)) ++ circ }
  else if m.peer / 64 = rack then v
  else { v with far := v.far.filter (fun x => decide (x / 128 ≠ m.peer)) ++ (ofMask 64 (field m.body 8 8)).map (fun x => 128 * m.peer + 2 * x)
                  ++ (ofMask 64 (field m.body 16 8)).map (fun x => 128 * m.peer + 2 * x + 1) }

/-- Since when each other member cannot be reached (R602). -/
def State.noteReach (s : State) : State :=
  let ms := (List.range 64).filter (fun m => m != s.self && bit (s.reg rDOMAIN_MEMBERS).toNat m)
  { s with dom := { s.dom with unreach := ms.foldl (fun l m =>
      if (s.nextHop (64 * s.rack + m) 0 none).isSome then SMap.erase l m
      else if (SMap.find? l m).isSome then l else SMap.set l m s.now) s.dom.unreach } }

/-- ROUTE_RECOMPUTE (R400 to R403): the view takes what has been flooded and a loaded plan, and the tables follow it. -/
def execRouteRecompute (s : State) : Host.Outcome State Fault Refusal :=
  let isF := fun (m : Msg) => m.isMgmt 0xF0 || m.isMgmt 0xF1
  let floods := s.inbox.filter isF
  if floods.isEmpty ∧ !s.viewDue ∧ s.planNext.isNone then .next s
  else
    let plan := s.planNext.getD s.tables.plan
    let v := floods.foldl (fun v m => v.learn plan s.rack m) s.view
    let s1 := ({ s with inbox := s.inbox.filter (fun m => !isF m), view := v, planNext := none, viewDue := false, tables := { s.tables with plan := plan } } : State).seePorts
    let det := admitDetours s1.view (brokenDirs s1.view) []
    let s2 : State := { s1 with tables := ⟨s1.view, det, plan⟩, viewDue := false }
    let s3 : State := if s2.farBody = s.farBody then s2 else { s2 with floodDue := true }
    .next ((det.filter (fun d => !s.tables.detours.contains d)).foldl (fun s _ => s.raise 0x4005 0 none []) s3).noteReach

/-! ### The by-pass (R407 to R409) -/

def rBYP : Nat := 0x60018

/-- The switches start to move; the torus ports carry nothing more. -/
def State.bypStart (s : State) (target : Bool) : State :=
  let s1 := ({ s with bypMove := some (target, s.now), bypWait := false } : State).setField rBYP 3 1 1
  (List.range 12).foldl (fun s p => if s.getField (portOff p 0) 0 1 = 0 then s else s.portIdle p) s1

/-- A command for by-pass or through (R408, R409). -/
def State.bypCommand (s : State) (byp : Bool) : State :=
  let at_ := s.getField rBYP 0 3
  match s.bypMove with
  | some (t, _) => if t = byp then s else if byp ∨ s.getField rBYP 4 1 = 1 then s.bypStart byp else { s with bypWait := true }
  | none =>
    if byp then (if at_ = 7 then { s with bypWait := false } else s.bypStart true)
    else if at_ = 0 then s
    else if s.getField rBYP 4 1 = 1 then s.bypStart false
    else { s with bypWait := true }

/-- A write of FAB_BYP_CTRL.CMD. -/
def State.bypCtrl (s : State) (v : Bool) : State := (s.setField 0x60010 0 1 (if v then 1 else 0)).bypCommand v

/-- BYP_CHANGE (R407, R409): the three switches report their commanded position. -/
def execBypChange (s : State) : Host.Outcome State Fault Refusal :=
  match s.bypMove with
  | none => .next s
  | some (t, _) =>
    let s1 := (({ s with bypMove := none, bypPin := t, boot := { s.boot with throughAt := if t then none else some s.now } } : State).setField rBYP 0 3 (if t then 7 else 0)).setField rBYP 3 1 0
    let s2 := s1.raise 0x4006 0 none [(1, if t then 7 else 0)]
    .next ((List.range 12).foldl (fun s p => if s.getField (portOff p 0) 0 1 = 0 then s else s.portIdle p) s2)

/-- BYP_FAULT (R409): 5 ms after the command some switch is not in position; `mask` says which report by-pass. -/
def execBypFault (mask : BitVec 3) (s : State) : Host.Outcome State Fault Refusal :=
  match s.bypMove with
  | none => .next s
  | some (t, t0) =>
    if s.now < t0 + 5000000 ∨ mask = (if t then 7 else 0) then .next s
    else
      let s1 := ((({ s with bypMove := none } : State).setField rBYP 0 3 mask.toNat).setField rBYP 3 1 0).setField rBYP 5 1 1
      let s2 : State := { s1 with bypPin := if mask = 7 then true else if mask = 0 then false else s1.bypPin }
      .next (s2.raise 0x4007 0 none [])

/-- HOLDUP_CHARGED (R408, R409): the hold-up capacitor holds one full by-pass; a waiting through command goes. -/
def execHoldupCharged (s : State) : Host.Outcome State Fault Refusal :=
  let s1 := s.setField rBYP 4 1 1
  .next (if s1.bypWait ∧ s1.getField 0x60010 0 1 = 0 then s1.bypStart false else s1)

end Sys2Proof.Machine
end

