-- ==== Sys2Proof/Machine/Power.lean ====
section
/-! DEFINITION. Supplies, the power limiter, quadrant power states and clocks, and thermal control (R562 to R588, R596). -/

namespace Sys2Proof.Machine

def State.supp (s : State) (f : Supply → Supply) : State := { s with supply := f s.supply }

/-! ### Supply warning and freeze (R572 to R577) -/

/-- The throttled interval runs while the warning or its ramp lasts, and during a freeze (R574). -/
def State.throttleNow (s : State) : State :=
  let p := (s.reg rPWR_STATUS).toNat
  { s with throttling := bit p 0 || bit p 1 || bit p 2 }

/-- SUPPLY_WARN (R573, R576): the rail is at 1.71 V or below. -/
def execSupplyWarn (mv : Nat) (s : State) : Host.Outcome State Fault Refusal :=
  let on := decide (s.getField rPWR_STATUS 0 1 = 1)
  let ramp := decide (s.getField rPWR_STATUS 1 1 = 1)
  if 1710 < mv ∨ on then .next s
  else
    let s1 := (((s.setField rPWR_STATUS 0 1 1).setField rPWR_STATUS 1 1 0).setField rPWR_STATUS 16 12 mv).count 0x10028 1
    let s2 := s1.supp (fun u => { u with warnPin := true, clearAt := none, rampAt := none, onset := if ramp then u.onset else s.now,
                                         low := if ramp then min u.low mv else mv })
    .next (s2.throttleNow.raise 0x6000 0 none [(2, mv)])

/-- WARN_RELEASE (R572, R573): 100 µs above 1.73 V without a break; the ramp-back begins. -/
def execWarnRelease (s : State) : Host.Outcome State Fault Refusal :=
  match s.supply.clearAt with
  | none => .next s
  | some t =>
    if s.getField rPWR_STATUS 0 1 = 0 ∨ s.now < t + 100000 then .next s
    else .next (((s.setField rPWR_STATUS 0 1 0).setField rPWR_STATUS 1 1 1).supp (fun u => { u with clearAt := none, rampAt := some s.now })).throttleNow

/-- SUPPLY_RECOVER (R573): the end of the ramp-back, 10 µs after it began. -/
def execSupplyRecover (s : State) : Host.Outcome State Fault Refusal :=
  match s.supply.rampAt with
  | none => .next s
  | some t =>
    if s.getField rPWR_STATUS 1 1 = 0 ∨ s.now < t + 10000 then .next s
    else
      let s1 := ((s.setField rPWR_STATUS 1 1 0).supp (fun u => { u with rampAt := none, warnPin := false })).throttleNow
      .next (s1.raise 0x6001 0 none [(4, (s.now - s.supply.onset) / 100), (2, s.supply.low)])

/-- The hub is held in a power or module reset (R589, R593). -/
def State.inReset (s : State) : Bool := s.boot.powerRst || s.boot.modRst || !s.boot.sb

/-- FAST_OFF (R577, R638): the filtered FAST_OFF_N is asserted; the quadrants freeze, outside a reset. -/
def execFastOff (s : State) : Host.Outcome State Fault Refusal :=
  if s.supply.fastPin then .next s
  else
    let s1 := s.supp (fun u => { u with fastPin := true })
    if s.inReset then .next s1 else .next ((s1.setField rPWR_STATUS 2 1 1).throttleNow.raise 0x6002 0 none [])

/-- FAST_OFF_RELEASE (R577): the quadrants resume at the clocks they held. -/
def execFastOffRelease (s : State) : Host.Outcome State Fault Refusal :=
  .next ((s.supp (fun u => { u with fastPin := false })).setField rPWR_STATUS 2 1 0).throttleNow

/-! ### The power limiter (R564, R565) -/

/-- Mean of the power in W over the samples of the last `w` nanoseconds. -/
def meanW (l : List (Nat × Nat × Nat)) (now w : Nat) : Nat :=
  let r := l.filter (fun x => decide (now < x.1 + w))
  (r.foldl (fun n x => n + x.2.1 * x.2.2) 0) / 1000 / max r.length 1

def meanA (l : List (Nat × Nat × Nat)) (now w : Nat) : Nat :=
  let r := l.filter (fun x => decide (now < x.1 + w))
  (r.foldl (fun n x => n + x.2.2) 0) / max r.length 1

def State.cap (s : State) : Nat := s.getField rPWR_CTRL 1 11

/-- How low the limiter may set a quadrant's ceiling (R565). -/
def State.limFloor (s : State) (q : Nat) : Nat :=
  max (s.getField (qclkOff q) 16 8) (if s.warmQuads.contains q then s.warmClk else 40)

/-- Starts of TC1 to TC3 are held (R565, R579). -/
def State.holdNow (s : State) : State := s.setField rPWR_STATUS 6 1 (if s.supply.capHold || s.supply.thermHold then 1 else 0)

/-- POWER_SAMPLE (R564, R565): a measurement of the rail in mV and A. `ceils` is the limiter's choice of ceilings, which the manual
leaves to it within the order and the floors that it gives (log 42). -/
def execPowerSample (mv amps : Nat) (ceils : List Nat) (s : State) : Host.Outcome State Fault Refusal :=
  let w := mv * amps / 1000
  let l := (s.now, mv, amps) :: s.supply.samples.filter (fun x => decide (s.now < x.1 + 100000000))
  let m1 := meanW l s.now 1000000
  let m100 := meanW l s.now 100000000
  let low := s.getField rPWR_STATUS 28 12
  let s1 := ((s.setField rPWR_STATUS 16 12 mv).setField rPWR_STATUS 28 12 (if low = 0 then mv else min low mv)).setReg 0x10010
    (BitVec.ofNat 64 (min m1 65535 + 2 ^ 16 * min (meanA l s.now 1000000) 65535 + 2 ^ 32 * min m100 65535))
  let ovr := match s.supply.capSince with
    | some t => decide (s.cap < w) && decide (t + 10000000 < s.now)
    | none => false
  let bad := decide (2400 < meanW l s.now 1000) || ovr || decide (s.cap < m100)
  let warm := s.warmQuads
  let want := fun (q : Nat) => max (min (ceils.getD q 200) 200) (s.limFloor q)
  let spare := (List.range 8).any (fun q => !warm.contains q && decide (s.limFloor q < want q))
  let set := fun (q : Nat) => if warm.contains q && spare then 200 else want q
  let hold := bad && (List.range 8).all (fun q => decide (set q ≤ s.limFloor q))
  let s2 := s1.supp (fun u => { u with
    samples := l, capSince := if s.cap < w then (match u.capSince with | some t => some t | none => some s.now) else none,
    clearAt := if mv ≤ 1730 ∨ s.getField rPWR_STATUS 0 1 = 0 then none else (match u.clearAt with | some t => some t | none => some s.now),
    low := if s.throttling then min u.low mv else u.low, capHold := hold,
    limCeil := (List.range 8).foldl (fun m q => if set q = 200 then SMap.erase m q else SMap.set m q (set q)) u.limCeil })
  let s3 := ((List.range 8).foldl State.refreshCeil s2).setField rPWR_STATUS 5 1 (if (List.range 8).any (fun q => decide (set q < 200)) then 1 else 0)
  let s4 : State := { s3.holdNow with tlmAcc := SMap.set s3.tlmAcc 0x420 (max (SMap.get s3.tlmAcc 0x420 0) (min m1 65535)) }
  .next (if hold && !s.supply.capHold then s4.raise 0x6003 0 none [(2, m100)] else s4)

/-! ### Quadrant power states and clocks (R567 to R570) -/

/-- An idle state lasts long enough to go on to the next (R569). -/
def State.idleFor (s : State) (q st ns : Nat) : Bool :=
  decide (s.qState q = st) && !s.warmQuads.contains q && !s.wakeReq.contains q && decide (SMap.get s.qSince q 0 + ns ≤ s.now)

/-- QUADRANT_RETENTION (R569). -/
def execQuadrantRetention (q : QuadId) (s : State) : Host.Outcome State Fault Refusal :=
  .next (if s.idleFor q 1 (1000 * s.getField rPWR_CTRL 20 12) then s.setQState q 2 else s)

/-- QUADRANT_PLL_OFF (R569). -/
def execQuadrantPllOff (q : QuadId) (s : State) : Host.Outcome State Fault Refusal :=
  .next (if s.idleFor q 2 (1000 * s.getField rPWR_CTRL 32 12) then s.setQState q 3 else s)

/-- The stores of a quadrant's engines are lost: each must be cleared before it takes work (R292, R568, R570). -/
def State.loseStores (s : State) (q : Nat) : State :=
  (quadEngines q).foldl (fun s e => let en := s.engine e; s.setEngine e { pool := en.pool, saves := en.saves, scrubCe := en.scrubCe, clrFail := en.clrFail }) s

/-- QUADRANT_OFF (R569): power is removed and the stores are lost. -/
def execQuadrantOff (q : QuadId) (s : State) : Host.Outcome State Fault Refusal :=
  .next (if s.getField rPWR_CTRL 44 12 ≠ 0 && s.idleFor q 3 (1000000 * s.getField rPWR_CTRL 44 12) then (s.setQState q 4).loseStores q else s)

/-- Coolant inlet and flow are within R583 by the last reading. -/
def State.coolantOk (s : State) : Bool := decide (s.getField rPWR_STATUS 7 1 = 1)

/-- The fast clock domains may start (R5, R583, R593): not before the phases ROM and FIRMWARE are over, nor while the coolant is outside
its limits. -/
def State.mayClock (s : State) : Bool := s.coolantOk && decide (2 ≤ s.getField rPHASE 0 3) && !s.supply.clocksOff && !s.inReset

/-- QUADRANT_WAKE (R567, R568): a quadrant that was asked for, or belongs to the warm reserve, reaches ACTIVE at its clock. -/
def execQuadrantWake (q : QuadId) (s : State) : Host.Outcome State Fault Refusal :=
  if s.qState q = 0 ∨ !(s.wakeReq.contains q.toNat || s.warmQuads.contains q) ∨ s.pllLost.contains q.toNat ∨ !s.mayClock then .next s
  else
    let s1 := (s.setNeed q (s.getField (qclkOff q) 16 8)).setQState q 0
    .next (s1.setField (qclkOff q) 8 8 (s1.targetClk q))

/-- CLOCK_RAMP_DONE (R567): a quadrant's clock has reached its value. -/
def execClockRampDone (q : QuadId) (s : State) : Host.Outcome State Fault Refusal :=
  .next (s.setField (qclkOff q) 8 8 (s.targetClk q))

/-- A request for a clock (R567, R586): below 40 it acts as 40; above the grade it is clamped and reported. -/
def State.qclkReq (s : State) (q req : Nat) : State :=
  let g := s.gradeClk
  let s1 := s.setField (qclkOff q) 0 8 (min (max req 40) g)
  if req ≤ g then s1 else ((s1.setField (qclkOff q) 36 1 1).setField rPWR_STATUS 8 1 1).raise 0x6008 0 none [(1, q), (1, req)]

/-! ### PLL loss and quadrant reset (R587, R596) -/

/-- Work items with an engine or a saved frame in a quadrant. -/
def State.itemsOn (s : State) (q : Nat) (saved : Bool) : List Nat :=
  (s.items.filter (fun kv => decide (kv.2.phase ≠ .complete) &&
    (kv.2.engines.any (fun e => quadOf e == q) || (saved && kv.2.frames.any (fun f => quadOf f.owner == q))))).map (·.1)

/-- QUAD_PLL_UNLOCK (R587): the quadrant stops; its work items complete with INTERNAL. -/
def execQuadPllUnlock (q : QuadId) (s : State) : Host.Outcome State Fault Refusal :=
  if 3 ≤ s.qState q ∨ s.pllLost.contains q.toNat then .next s
  else
    let s1 := (s.itemsOn q false).foldl (fun s i => s.stopItem i stINTERNAL 0x6009) s
    .next ((({ s1 with pllLost := q.toNat :: s1.pllLost } : State).setQState q 3).raise 0x6009 0 none [(1, q.toNat)])

/-- An engine of a quadrant has CLEAR_FAIL and was not given up. -/
def State.clearFailed (s : State) (q : Nat) : Bool :=
  (quadEngines q).any (fun e => (decide (s.getField (engOff e oSTORE_CTRL) 26 1 = 1) || (s.engine e).clrFail) && !s.clrDead.contains e)

/-- QUADRANT_RESET (R590, R596): after a PLL loss or CLEAR_FAIL, once no work item runs there, the PLL relocks and every engine
begins to clear. -/
def execQuadrantReset (q : QuadId) (s : State) : Host.Outcome State Fault Refusal :=
  let busy := (s.items.any (fun kv => decide (kv.2.phase = .running ∨ kv.2.phase = .suspending) && kv.2.engines.any (fun e => quadOf e == q.toNat)))
  if !(s.pllLost.contains q.toNat || s.clearFailed q) ∨ busy ∨ !s.mayClock then .next s
  else
    let s1 := (s.itemsOn q true).foldl (fun s i => s.stopItem i stINTERNAL 0x6009) s
    let s2 := (({ s1 with pllLost := s1.pllLost.filter (· != q.toNat) } : State).setNeed q 0).setQState q 0
    let s3 := s2.setField (qclkOff q) 8 8 (s2.targetClk q)
    .next ((quadEngines q).foldl (fun s e =>
      if s.clrDead.contains e then s
      else
        let en := s.engine e
        (s.setEngine e { pool := en.pool, scrubCe := en.scrubCe, st := .clearing, clearAt := s.eff, resetClr := true }).setClearing e true) s3)

/-! ### Thermal control (R578 to R584) -/

/-- Sensors of a die: C0, C1, H, the optical engines (R578). -/
def dieSensors (d : Nat) : List Nat :=
  if d = 0 then List.range 16 else if d = 1 then (List.range 16).map (· + 16) else if d = 2 then [32, 33, 34, 35] else [36, 37, 38, 39]

def hottest (temps : List Nat) (l : List Nat) : Nat := l.foldl (fun m i => max m (temps.getD i 0)) 0

/-- The orderly shutdown of R580: every work item completes with INTERNAL, write-combining buffers are flushed, stacks enter
self-refresh, the by-pass is commanded, clocks stop. -/
def State.shutdown (s : State) : State :=
  let s1 := s.items.foldl (fun s kv => if kv.2.phase = .complete then s else s.stopItem kv.1 stINTERNAL 0x6006) s
  let s2 := (List.range 8).foldl (fun s st => s.setField (memOff st 0x10) 9 1 1) (s1.flushWhere (fun _ => true))
  ((s2.supp (fun u => { u with clocksOff := true, tripPin := true })).setField rPHASE 0 3 6).bypCtrl true

/-- Since when a condition has held. -/
def sinceWhen (c : Bool) (now : Nat) (t : Option Nat) : Option Nat :=
  if c then (match t with | some x => some x | none => some now) else none

def heldFor (t : Option Nat) (now ns : Nat) : Bool := match t with | some x => decide (x + ns ≤ now) | none => false

/-- Thermal ceilings after a reading (R579): of a hot die, or of every quadrant where the hub or an optical engine is hot, they fall
by 100 MHz; each ms that all is cool they rise by 100 MHz. Whether one would have to fall below its floor. -/
def State.thermCeils (s : State) (temps : List Nat) (thr st : Nat) : State × Bool :=
  let shared := max (hottest temps (dieSensors 2)) (hottest temps (dieSensors 3))
  [0, 1].foldl (fun (a : State × Bool) d =>
    let (s, low) := a
    let h := max (hottest temps (dieSensors d)) shared
    let qs := (List.range 4).map (· + 4 * d)
    if thr ≤ h then
      qs.foldl (fun (a : State × Bool) q =>
        let (s, low) := a
        let floor := if 2 ≤ st then 40 else max 40 (s.getField (qclkOff q) 16 8)
        let c := min (SMap.get s.supply.thermCeil q 200) 200
        (s.supp (fun u => { u with thermCeil := SMap.set u.thermCeil q (max floor (c - 10)) }), low || decide (c - 10 < floor))) (s, low)
    else if h + 5 ≤ thr ∧ SMap.get s.supply.roseAt d 0 + 1000000 ≤ s.now then
      (qs.foldl (fun s q =>
        let c := SMap.get s.supply.thermCeil q 200 + 10
        s.supp (fun u => { u with thermCeil := if 200 ≤ c then SMap.erase u.thermCeil q else SMap.set u.thermCeil q c }))
        (s.supp (fun u => { u with roseAt := SMap.set u.roseAt d s.now })), low)
    else (s, low)) (s, false)

/-- THERMAL_SAMPLE (R578 to R580, R583, R584): the forty junction sensors in °C, inlet and outlet in eighths of a degree, flow in
0.01 L/min. Causes in the events: 0 junction, 1 stack, 2 inlet, 3 flow (log 43). -/
def execThermalSample (temps : List Nat) (inlet outlet flow : Nat) (s : State) : Host.Outcome State Fault Refusal :=
  let tj := hottest temps (List.range 40)
  let sensor := ((List.range 40).find? (fun i => temps.getD i 0 == tj)).getD 0
  let stack := (List.range 8).foldl (fun m i => max m (s.getField (memOff i 0x10) 0 8)) 0
  let inOk := decide (120 ≤ inlet ∧ inlet ≤ 360)
  let flOk := decide (150 ≤ flow ∧ flow ≤ 300)
  let hot := sinceWhen (decide (360 < inlet ∨ flow < 150)) s.now s.supply.hotAt
  let inT := sinceWhen (decide (400 < inlet)) s.now s.supply.inTripAt
  let flT := sinceWhen (decide (flow < 100)) s.now s.supply.flowTripAt
  let second := 1000000000
  let thr := s.getField rPWR_CTRL 12 8
  let trip := decide (110 ≤ tj) || decide (105 ≤ stack) || heldFor inT s.now second || heldFor flT s.now second
  let crit := decide (100 ≤ tj) || decide (95 ≤ stack) || heldFor hot s.now second
  let was := s.getField rPWR_STATUS 3 2
  let top := if trip then 3 else if crit then 2 else if thr ≤ tj then 1 else 0
  let st := if was = 3 then 3 else if was ≤ top then top else if top = 0 ∧ !(inOk && flOk && decide (stack < 95)) then was else top
  let s1 := (((s.setReg 0x10018 (BitVec.ofNat 64 (inlet % 4096 + 2 ^ 12 * (outlet % 4096) + 2 ^ 24 * (flow % 4096)
      + (if inOk then 2 ^ 36 else 0) + (if flOk then 2 ^ 37 else 0)))).setReg 0x10020
      (BitVec.ofNat 64 (tj % 256 + 2 ^ 8 * sensor + 2 ^ 14 * (hottest temps (dieSensors 0) % 256) + 2 ^ 22 * (hottest temps (dieSensors 1) % 256)
      + 2 ^ 30 * (hottest temps (dieSensors 2) % 256) + 2 ^ 38 * (hottest temps (dieSensors 3) % 256)))).setField rPWR_STATUS 7 1 (if inOk && flOk then 1 else 0))
  let s2 := (List.range 8).foldl (fun s q => s.setField (qclkOff q) 37 8 (hottest temps ((List.range 4).map (· + 4 * q)))) s1
  let s3 := s2.supp (fun u => { u with temps := temps, hotAt := hot, inTripAt := inT, flowTripAt := flT, coolantBad := !(inOk && flOk) })
  let s4 := if !(inOk && flOk) && !s.supply.coolantBad then s3.raise 0x6007 0 none [(2, inlet), (2, outlet), (2, flow)] else s3
  let s5 := s4.setField rPWR_STATUS 3 2 st
  let (s6, low) := s5.thermCeils temps thr st
  let s7 := ((List.range 8).foldl State.refreshCeil (s6.supp (fun u => { u with thermHold := low }))).holdNow
  let s8 : State := { s7 with tlmAcc := SMap.set s7.tlmAcc 0x428 (max (SMap.get s7.tlmAcc 0x428 0) (tj % 256)) }
  let cause := fun (j k : Nat) => if j ≤ tj then 0 else if k ≤ stack then 1 else if heldFor inT s.now second ∨ 360 < inlet then 2 else 3
  let where_ := fun (c : Nat) => if c = 0 then (sensor, tj) else if c = 1 then (((List.range 8).find? (fun i => s.getField (memOff i 0x10) 0 8 == stack)).getD 0, stack)
    else (0, inlet / 8)
  if st = was then .next s8
  else if st = 3 then
    let c := cause 110 105
    .next ((s8.raise 0x6006 0 none [(1, c), (1, (where_ c).1), (1, (where_ c).2)]).shutdown)
  else if st = 2 ∧ was < 2 then
    let c := cause 100 95
    .next (s8.raise 0x6005 0 none [(1, c), (1, (where_ c).1), (1, (where_ c).2)])
  else if st = 1 ∧ was = 0 then .next (s8.raise 0x6004 0 none [(1, sensor), (1, tj)])
  else .next s8

/-- HW_THERMAL_TRIP (R581): the comparator of a junction sensor stops every quadrant and network clock; no record is written. -/
def execHwThermalTrip (s : State) : Host.Outcome State Fault Refusal :=
  if s.supply.clocksOff then .next s
  else
    let s1 := (s.supp (fun u => { u with clocksOff := true, tripPin := true })).setField rPHASE 0 3 6
    .next { s1 with items := [], chans := s1.chans.map (fun kv => (kv.1, { kv.2 with recs := [] })) }

/-- HUB_PLL_UNLOCK (R534, R587): a PLL of CK_HUB, CK_NOC0 or CK_NOC1 lost lock. -/
def execHubPllUnlock (s : State) : Host.Outcome State Fault Refusal := .next (s.moduleFatal 4)

/-- CONTROL_CORE_WATCHDOG (R534). -/
def execControlCoreWatchdog (s : State) : Host.Outcome State Fault Refusal := .next (s.moduleFatal 3)

/-- CONTROL_CORE_MEMORY_UE (R534). -/
def execControlCoreMemoryUe (s : State) : Host.Outcome State Fault Refusal := .next (s.moduleFatal 2)

/-- INTERNAL_FLIT_REPLAY (R27, R534, R559): a flit of internal link `l` failed its check `n` times in a row before it passed, or 16 times,
by which the link is failed. -/
def execInternalFlitReplay (l : Fin 17) (n : Nat) (s : State) : Host.Outcome State Fault Refusal :=
  let s1 := s.count (0xC0100 + 8 * l.val) (min n 16)
  .next (if 16 ≤ n then s1.moduleFatal 1 else s1)

end Sys2Proof.Machine
end

