-- ==== Sys2Proof/Machine/Sign.lean ====
section
/-! DEFINITION. SHA-384 and ECDSA over P-384, which R551, R552 and R555 name by their standards (FIPS 180-4 and FIPS 186;
PRESUMED, log 46). -/

namespace Sys2Proof.Machine

/-! ### SHA-384 -/

/-- The first `n` primes. -/
def primes : Nat → Nat → List Nat → List Nat
  | 0, _, acc => acc
  | f + 1, k, acc => primes f (k + 1) (if 2 ≤ k ∧ acc.all (fun p => k % p != 0) then acc ++ [k] else acc)

/-- The largest `r` below 2^n with `r ^ e ≤ x`. -/
def iroot (e x : Nat) : Nat → Nat → Nat
  | 0, r => r
  | n + 1, r => if (r + 2 ^ n) ^ e ≤ x then iroot e x n (r + 2 ^ n) else iroot e x n r

/-- Round constants: the first 64 fraction bits of the cube roots of the first 80 primes. -/
def shaK : List Nat := ((primes 410 2 []).take 80).map (fun p => iroot 3 (p * 2 ^ 192) 70 0 % 2 ^ 64)

/-- Initial hash value of SHA-384: the first 64 fraction bits of the square roots of the ninth to sixteenth primes. -/
def shaInit : List Nat := (((primes 60 2 []).drop 8).take 8).map (fun p => iroot 2 (p * 2 ^ 128) 70 0 % 2 ^ 64)

def rotr64 (x n : Nat) : Nat := x / 2 ^ n + x % 2 ^ n * 2 ^ (64 - n)

/-- The message schedule: words newest first. -/
def shaSched : Nat → List Nat → List Nat
  | 0, w => w
  | n + 1, w =>
    let a := w.getD 14 0
    let b := w.getD 1 0
    let s0 := rotr64 a 1 ^^^ rotr64 a 8 ^^^ (a / 2 ^ 7)
    let s1 := rotr64 b 19 ^^^ rotr64 b 61 ^^^ (b / 2 ^ 6)
    shaSched n ((w.getD 15 0 + s0 + w.getD 6 0 + s1) % 2 ^ 64 :: w)

/-- One round over the working variables a to h. -/
def shaRound (v : List Nat) (kw : Nat) : List Nat :=
  match v with
  | [a, b, c, d, e, f, g, h] =>
    let s1 := rotr64 e 14 ^^^ rotr64 e 18 ^^^ rotr64 e 41
    let ch := (e &&& f) ^^^ ((2 ^ 64 - 1 - e) &&& g)
    let t1 := h + s1 + ch + kw
    let s0 := rotr64 a 28 ^^^ rotr64 a 34 ^^^ rotr64 a 39
    let maj := (a &&& b) ^^^ (a &&& c) ^^^ (b &&& c)
    [(t1 + s0 + maj) % 2 ^ 64, a, b, c, (d + t1) % 2 ^ 64, e, f, g]
  | _ => v

def shaBlocks (k : List Nat) : Nat → Bytes → List Nat → List Nat
  | 0, _, h => h
  | n + 1, b, h =>
    let w := (shaSched 64 ((List.range 16).map (fun i => beNat ((b.drop (8 * i)).take 8))).reverse).reverse
    let v := ((k.zip w).map (fun p => p.1 + p.2)).foldl shaRound h
    shaBlocks k n (b.drop 128) ((h.zip v).map (fun p => (p.1 + p.2) % 2 ^ 64))

/-- SHA-384 of a byte string. -/
def sha384 (m : Bytes) : Bytes :=
  let z := (239 - m.length % 128) % 128
  let p := m ++ [0x80] ++ List.replicate z 0 ++ beBytes 16 (8 * m.length)
  (shaBlocks shaK (p.length / 128) p shaInit).flatMap (beBytes 8) |>.take 48

/-! ### ECDSA over P-384 -/

def ecP : Nat := 2 ^ 384 - 2 ^ 128 - 2 ^ 96 + 2 ^ 32 - 1
def ecB : Nat := 0xb3312fa7e23ee7e4988e056be3f82d19181d9c6efe8141120314088f5013875ac656398d8a2ed19d2a85c8edd3ec2aef
def ecN : Nat := 0xffffffffffffffffffffffffffffffffffffffffffffffffc7634d81f4372ddf581a0db248b0a77aecec196accc52973
def ecG : Nat × Nat :=
  (0xaa87ca22be8b05378eb1c71ef320ad746e1d3b628ba79b9859f741e082542a385502f25dbf55296c3a545e3872760ab7,
   0x3617de4a96262c6f5d9e98bf9292dc29f8f41dbd289a147ce9da3113b5f0b8c00a60b1ce1d7e819d7a431d7c90ea0e5f)

/-- Power modulo `m` by the `n` low bits of the exponent. -/
def powMod (m b e : Nat) : Nat → Nat
  | 0 => 1
  | n + 1 => let r := powMod m (b * b % m) (e / 2) n; if e % 2 = 1 then r * b % m else r

/-- Inverse modulo a 384-bit prime. -/
def invMod (m a : Nat) : Nat := powMod m (a % m) (m - 2) 384

/-- Addition of points; none is the point at infinity. -/
def ecAdd : Option (Nat × Nat) → Option (Nat × Nat) → Option (Nat × Nat)
  | none, q => q
  | p, none => p
  | some (x1, y1), some (x2, y2) =>
    if x1 = x2 ∧ (y1 + y2) % ecP = 0 then none
    else
      let l := if x1 = x2 then (3 * x1 * x1 + ecP - 3) * invMod ecP (2 * y1) % ecP else (y2 + ecP - y1) * invMod ecP (x2 + ecP - x1) % ecP
      let x := (l * l + 2 * ecP - x1 - x2) % ecP
      some (x, (l * (x1 + ecP - x) + ecP - y1) % ecP)

/-- Multiple of a point by the `n` low bits of `k`. -/
def ecMul (k : Nat) (p : Option (Nat × Nat)) : Nat → Option (Nat × Nat)
  | 0 => none
  | n + 1 => let r := ecMul (k / 2) (ecAdd p p) n; if k % 2 = 1 then ecAdd p r else r

/-- Whether a signature, r then s, of a message hash verifies under a public key, x then y; all big-endian. -/
def ecVerify (pub hash sig : Bytes) : Bool :=
  let x := beNat (pub.take 48)
  let y := beNat ((pub.drop 48).take 48)
  let r := beNat (sig.take 48)
  let t := beNat ((sig.drop 48).take 48)
  if ecP ≤ x ∨ ecP ≤ y ∨ y * y % ecP ≠ (x * x * x + (ecP - 3) * x + ecB) % ecP ∨ r = 0 ∨ ecN ≤ r ∨ t = 0 ∨ ecN ≤ t then false
  else
    let w := invMod ecN t
    match ecAdd (ecMul (beNat hash * w % ecN) (some ecG) 384) (ecMul (r * w % ecN) (some (x, y)) 384) with
    | none => false
    | some (a, _) => a % ecN == r

end Sys2Proof.Machine
end

