-- ==== Sys2Proof/Machine/Upkeep.lean ====
section
/-! DEFINITION. Upkeep of module memory: write-combining timer, patrol scrub, calibration, temperature and self-refresh; refill of
reloadable granules; background slices, ring tuning and telemetry (R310 to R327, R381, R539 to R546, R625 to R627). -/

namespace Sys2Proof.Machine

/-! ### Stacks -/

/-- Add an MCH to the repair record (R315). -/
def State.addRepair (s : State) (st c : Nat) : State :=
  { s with repair := if s.repair.contains (32 * st + c) then s.repair else s.repair ++ [32 * st + c] }

/-- WCB_FLUSH_TIMER (R318): entries allocated 2 µs ago or earlier are flushed. -/
def execWcbFlushTimer (s : State) : Host.Outcome State Fault Refusal := .next (s.flushWhere (fun w => decide (w.time + 2000 ≤ s.now)))

/-- DPA of a local address of the `i`-th MCH in service of a stack: the inverse of R302. -/
def dpaOf (st n i a : Nat) : Nat := st * 2 ^ 37 + uninterleave n i (a / 1024) * 1024 + a % 1024

/-- A complete scrub pass of a stack (R310, R330, R331). -/
def State.passEnd (s : State) (st : Nat) : State :=
  let hours := (s.now - SMap.get s.bgAt (1024 + st) s.boot.startAt) / 3600000000000
  let o := memOff st 0x18
  let s1 := (s.setField o 33 15 (s.getField o 33 15 + 1)).setField o 48 16 (min hours 65535)
  ((List.range 32).foldl (fun s c =>
    let r := memOff st (0x300 + 8 * c)
    (s.setField r 32 32 (s.getField r 0 32)).setField r 0 32 0) s1).bgDone 1 st

/-- PATROL_SCRUB_READ (R308, R310, R315): the next line of a stack's pass is read, and written back where it was corrected. -/
def execPatrolScrubRead (st : StackId) (s : State) : Host.Outcome State Fault Refusal :=
  let o := memOff st 0x18
  let l := s.mchs st
  match l.zipIdx.find? (fun p => decide (s.getField o 28 5 ≤ p.1)) with
  | none => .next s
  | some (c, i) =>
    let line := s.getField o 0 28
    let dpa := dpaOf st l.length i (64 * line)
    let r := s.lineRead (dpa / 64) 2
    let po := memOff st (0x300 + 8 * c)
    let n := r.st.getField po 0 32 + 1
    let budget := r.st.getField 0x48000 0 16
    let s1 := if r.corrected then (r.st.lineWrite (dpa / 64) r.bytes r.mark).setField po 0 32 (min n (2 ^ 32 - 1)) else r.st
    let s2 := if r.corrected ∧ budget ≠ 0 ∧ budget < n ∧ (n = budget + 1 ∨ !s1.repair.contains (32 * st.toNat + c))
      then (s1.raise 0x3001 0 none []).addRepair st c else s1
    if line + 1 < 2 ^ 26 then .next ((s2.setField o 28 5 c).setField o 0 28 (line + 1))
    else match l[i + 1]? with
      | some c2 => .next ((s2.setField o 28 5 c2).setField o 0 28 0)
      | none => .next (((s2.setField o 28 5 0).setField o 0 28 0).passEnd st)

/-- REFRESH (R324): a slot of the stack's banks; no state but its time. -/
def execRefresh (_st : StackId) (s : State) : Host.Outcome State Fault Refusal := .next s

/-- Replace failing data lanes by free spares (R327), each with its event; whether every one found a spare. -/
def State.takeSpares (s : State) (o : Nat) : List Nat → State × Bool
  | [] => (s, true)
  | x :: t =>
    let free := if s.getField o 0 7 = 0x7F then some 0 else if s.getField o 7 7 = 0x7F then some 7 else none
    match free with
    | none => (s, false)
    | some lo => (((s.setField o lo 7 x).setField o 19 2 1).raise 0x3003 0 none [(1, x)]).takeSpares o t

/-- MCH_CALIBRATION (R315, R327): the data and command/address lanes found outside their margins, and whether calibration and the
spares restore them. -/
def execMchCalibration (st : StackId) (c : MchId) (bad : List Nat) (ca : Option Nat) (restored : Bool) (s : State) : Host.Outcome State Fault Refusal :=
  if !(s.mchs st).contains c.toNat then .next s
  else
    let o := memOff st (0x100 + 8 * c.toNat)
    let (s1, ok1) := s.takeSpares o (bad.filter (· < 68))
    let (s2, ok2) := match ca with
      | none => (s1, true)
      | some x => if s1.getField o 14 5 = 0x1F then (((s1.setField o 14 5 x).setField o 19 2 1).raise 0x3003 0 none [(1, x)], true) else (s1, false)
    let s3 := if s2.getField o 19 2 = 1 then s2.setField (memOff st 8) (32 + c.toNat) 1 1 else s2
    let s4 := if ok1 && ok2 && restored then s3 else (s3.raise 0x3006 0 none []).addRepair st c
    .next (({ s4 with mem := { s4.mem with calAt := SMap.set s4.mem.calAt st.toNat s4.now } } : State).setField (memOff st 0x10) 10 1 1
      |>.bgDone 2 (32 * st.toNat + c.toNat))

/-- STACK_TEMP_READ (R325): a stack's case temperature in °C. -/
def execStackTempRead (st : StackId) (temp : Nat) (s : State) : Host.Outcome State Fault Refusal :=
  let o := memOff st 0x10
  let s1 := s.setField o 0 8 (min temp 255)
  if 85 < temp ∧ s.getField o 8 1 = 0 then .next ((s1.setField o 8 1 1).raise 0x3005 0 none [])
  else if temp < 83 then .next (s1.setField o 8 1 0)
  else .next s1

/-- The scrub pass of a stack is behind the rate of one pass in 24 h (R310; log 152). -/
def State.scrubDue (s : State) (st : Nat) : Bool :=
  let l := s.mchs st
  let o := memOff st 0x18
  let before := (l.filter (· < s.getField o 28 5)).length
  decide ((2 ^ 26 * before + s.getField o 0 28 + 1) * 86400000000000 ≤ 2 ^ 26 * l.length * (s.now - SMap.get s.bgAt (1024 + st) s.boot.startAt))

/-- A calibration time of an MCH of a stack has come and the MCH has not calibrated since (R327): MCH c calibrates at c × 3.125 ms in
each period of 100 ms. -/
def State.calDue (s : State) (st : Nat) : Bool :=
  (s.mchs st).any (fun c =>
    let off := s.boot.startAt + 3125000 * c
    decide (off ≤ s.now) && decide (SMap.get s.bgAt (2048 + 32 * st + c) 0 < off + (s.now - off) / 100000000 * 100000000))

/-- SELF_REFRESH_ENTRY (R318, R326): a stack without a request for SR_IDLE µs, after the fence of its buffer. -/
def execSelfRefreshEntry (st : StackId) (s : State) : Host.Outcome State Fault Refusal :=
  let idle := s.getField 0x48000 16 8
  let n := st.toNat
  let due := s.mem.zeroing.any (fun g => g / 512 == n) || s.bgSlice.any (fun k => k == 1024 + n || k / 32 == 64 + n)
    || s.scrubDue n || s.calDue n
  if idle = 0 ∨ due ∨ s.now < SMap.get s.mem.lastReq n 0 + 1000 * idle ∨ (s.mchs n).isEmpty then .next s
  else .next ((s.flushWhere (fun w => stackOfDpa (64 * w.line) == n)).setField (memOff n 0x10) 9 1 1)

/-- SELF_REFRESH_EXIT (R326): a request wakes the stack. -/
def execSelfRefreshExit (st : StackId) (s : State) : Host.Outcome State Fault Refusal :=
  .next (if s.getField (memOff st 0x10) 9 1 = 1 then s.request st else s)

/-! ### Refill of reloadable granules (R539 to R543) -/

/-- Management bodies for refill from a peer (log 40): 0xB0 asks for part of a granule, 0xB1 answers with a status, 0 served, and
the bytes. -/
def refillAsk (g dpa n : Nat) : Bytes := leBytes 1 0xB0 ++ leBytes 3 0 ++ leBytes 4 g ++ leBytes 8 dpa ++ leBytes 4 n ++ leBytes 4 0
def refillAns (st g dpa : Nat) (b : Bytes) : Bytes :=
  leBytes 1 0xB1 ++ leBytes 1 st ++ leBytes 2 0 ++ leBytes 4 g ++ leBytes 8 dpa ++ leBytes 4 b.length ++ leBytes 4 0 ++ b

/-- The region that holds a granule. -/
def State.regOf (s : State) (g : Nat) : Option (Nat × Region) :=
  s.regions.find? (fun kv => decide (kv.2.first ≤ g ∧ g < kv.2.first + kv.2.count))

def State.setGran (s : State) (g : Nat) (x : Gran) : State := { s with grans := SMap.set s.grans g x }

def isRefillAns (g : Nat) (m : Msg) : Bool := m.isMgmt 0xB1 && decide (field m.body 4 4 = g)

/-- Begin to read a granule from its source (step 2 of R541); a host range that its tenant may not read fails at once. -/
def State.refillRead (s : State) (g : Nat) (r : Region) : State :=
  let src := r.src + (g - r.first) * 2 ^ 28
  let s0 : State := { s with inbox := s.inbox.filter (fun m => !isRefillAns g m), arrived := s.arrived.filter (fun p => !(p.1 == .refill g)) }
  if r.source = 0 then
    (if r.tenant = 255 || (s.tenantEnabled r.tenant && s.inWindow r.tenant src (2 ^ 28)) then s0.hostRd 0 1 r.tenant (.refill g) src (2 ^ 28)
     else { s0 with arrived := s0.arrived ++ [(.refill g, 0, .range)] })
  else (List.range 8192).foldl (fun s i =>
    s.send ⟨8, 1, 64 * r.peerRack + r.peerModule, 0, 0, refillAsk g (src + 32768 * i) 32768⟩) s0

/-- REFILL_START (R541, R542): a QUARANTINED granule enters REFILLING once no admin COPY writes it. -/
def execRefillStart (g : Nat) (s : State) : Host.Outcome State Fault Refusal :=
  match SMap.find? s.grans g, s.regOf g with
  | some x, some (_, r) =>
    if x.code ≠ 2 ∨ x.copies ≠ 0 then .next s
    else .next ((s.setGran g { x with code := 3, tries := 0, retryAt := none, failed := false, written := false }).refillRead g r)
  | _, _ => .next s

/-- PEER_REFILL_READ (R543): the oldest request for refill data is served, or refused. -/
def execPeerRefillRead (s : State) : Host.Outcome State Fault Refusal :=
  match s.takeMsg (fun m => m.isMgmt 0xB0) with
  | none => .next s
  | some (m, s1) =>
    let g := field m.body 4 4
    let a := field m.body 8 8
    let n := field m.body 16 4
    let ans := fun (s : State) (st : Nat) (b : Bytes) => s.send ⟨8, 1, m.peer, 0, 0, refillAns st g a b⟩
    let free := (List.range ((a + n - 1) / 2 ^ 28 - a / 2 ^ 28 + 1)).all (fun i =>
      match SMap.find? s1.grans (a / 2 ^ 28 + i) with | some x => decide (x.code = 1) | none => true)
    if n = 0 ∨ 32768 < n ∨ a % 64 ≠ 0 ∨ n % 64 ≠ 0 ∨ !free ∨ !s1.granulesOk a n (· == 0x40) then .next (ans s1 1 [])
    else
      let r := s1.readUnits a 0 (n / 32)
      .next (if r.top = 0 then ans r.st 0 r.bytes else ans r.st 1 [])

/-- What has come back from a granule's source: none while parts are missing. -/
def State.refillData (s : State) (g : Nat) (r : Region) (rd : HostRead) : Option (Option Bytes × State) :=
  if r.source = 0 then
    match s.hostData (.refill g) rd with
    | some (.ok b false, s1) => some (some (padTo (2 ^ 28) b), s1)
    | some (_, s1) => some (none, s1)
    | none => if s.arrived.any (fun p => p.1 == .refill g) then some (none, { s with arrived := s.arrived.filter (fun p => !(p.1 == .refill g)) }) else none
  else
    let l := s.inbox.filter (isRefillAns g)
    let s1 : State := { s with inbox := s.inbox.filter (fun m => !isRefillAns g m), arrived := s.arrived.filter (fun p => !(p.1 == .refill g)) }
    if s.arrived.any (fun p => p.1 == .refill g) || l.any (fun m => decide (field m.body 1 1 ≠ 0)) then some (none, s1)
    else if l.length < 8192 then none
    else
      let o := sortIdx (l.zipIdx.map (fun (m, i) => (field m.body 8 8, i)))
      some (some (o.flatMap (fun (_, i) => match l[i]? with | some m => m.body.drop 24 | none => [])), s1)

/-- An attempt has failed (steps 6 and 7 of R541): once more after 10 ms, else FAILED. Causes in the event: 0 the source, 1 the
check of what was written (log 44). -/
def State.refillFail (s : State) (g k cause : Nat) : State :=
  match SMap.find? s.grans g with
  | none => s
  | some x =>
    if x.tries = 0 then s.setGran g { x with tries := 1, retryAt := some (s.now + 10000000) }
    else
      let s1 := (s.setGran g { x with code := 4, tries := 0, retryAt := none }).count 0xC0020 1
      (s1.raise 0x3202 0 none [(2, g), (1, k), (1, cause)]).refuseStalled g

/-- REFILL_CHECK (R309, R541): the source's bytes are written and read back. `flips` are the line errors that the read-back meets. -/
def execRefillCheck (g : Nat) (rd : HostRead) (flips : List (Nat × Nat)) (s : State) : Host.Outcome State Fault Refusal :=
  match SMap.find? s.grans g, s.regOf g with
  | some x, some (k, r) =>
    if x.code ≠ 3 ∨ x.retryAt.isSome then .next s
    else match s.refillData g r rd with
      | none => .next s
      | some (none, s1) => .next (s1.refillFail g k 0)
      | some (some b, s1) =>
        let s2 := s1.memWrite (g * 2 ^ 28) 0 (2 ^ 22 + 1) b
        let mine := flips.filter (fun p => granuleOf (64 * p.1) == g)
        let s3 : State := { s2 with mem := { s2.mem with errs := mine.foldl (fun m p => SMap.set m p.1 p.2) s2.mem.errs } }
        let (c, m, s4) := s3.granuleCrc g
        let s5 := mine.foldl (fun s p => if SMap.get s.mem.marks p.1 0 ≠ 0 then s.addRepair (stackOfDpa (64 * p.1)) (s.mchOf (64 * p.1)).1 else s) s4
        if c = x.crc ∧ m = 0 then
          let s6 := (s5.setGran g { x with code := 1, tries := 0, retryAt := none }).count 0xC0018 1
          .next ((s6.raiseAll 0x3201 [(2, g), (1, k), (1, x.tries + 1)]).releaseStalled g)
        else .next (s5.refillFail g k 1)
  | _, _ => .next s

/-- REFILL_RETRY (R541): the second attempt, 10 ms after the first failed. -/
def execRefillRetry (g : Nat) (s : State) : Host.Outcome State Fault Refusal :=
  match SMap.find? s.grans g, s.regOf g with
  | some x, some (_, r) =>
    match x.retryAt with
    | some t => if x.code ≠ 3 ∨ s.now < t then .next s else .next ((s.setGran g { x with retryAt := none }).refillRead g r)
    | none => .next s
  | _, _ => .next s

/-- STALLED_READ_TIMEOUT (R540): reads of an engine that have waited STALL_LIMIT ms for a granule are refused. -/
def execStalledReadTimeout (e : EngId) (s : State) : Host.Outcome State Fault Refusal :=
  let lim := max 1 (s.getField rRAS_CTRL 8 8) * 1000000
  let en := s.engine e
  let late := en.dma.filter (fun d => (match d.fate with | .stalled _ => true | _ => false) && decide (d.since + lim ≤ s.now))
  .next (late.foldl (fun s d => (s.dmaFate e d .refused).refuseRead en.item) s)

/-! ### Background work (R381, R544, R545) and telemetry (R625 to R627) -/

/-- Nanoseconds after which a background activity has reached its deferral limit: Kaolin scrub, patrol scrub, calibration, ring tuning,
telemetry. -/
def bgLimit : Nat → Nat
  | 0 => 100000000
  | 1 => 24 * 3600000000000
  | 2 => 100100000
  | 3 => 1100000
  | _ => 110000000

/-- BG_SLICE (R545): an activity that has reached its limit takes one slot of its bounded slice; entry is reported. -/
def execBgSlice (activity unit : Nat) (s : State) : Host.Outcome State Fault Refusal :=
  let k := 1024 * activity + unit
  let units := if activity = 0 then 192 else if activity = 1 then 8 else if activity = 2 then 256 else if activity = 3 then 128 else 1
  if 4 < activity ∨ units ≤ unit then .next s
  else if s.bgSlice.contains k then .next (s.count 0xC0038 1)
  else if s.now < SMap.get s.bgAt k s.boot.startAt + bgLimit activity then .next s
  else .next ((({ s with bgSlice := s.bgSlice ++ [k] } : State).count 0xC0038 1).raise 0x3203 0 none [(1, activity), (1, unit)])

/-- RING_TUNING (R381, R544): a reference flit of a lane. -/
def execRingTuning (p : PortId) (lane : LaneId) (s : State) : Host.Outcome State Fault Refusal :=
  .next (if (s.port p).light then s.bgDone 3 (8 * p.toNat + lane.toNat) else s)

/-- Busy and stall cycles of a quadrant's engines so far (R622, R625). -/
def State.quadStall (s : State) (q : Nat) : Nat :=
  ((List.range 24).flatMap (fun i => [0x00, 0x08, 0x10, 0x18, 0x20].map (fun o => (s.reg (engOff (24 * q + i) o)).toNat))).sum
def State.quadIssue (s : State) (q : Nat) : Nat := ((List.range 24).map (fun i => (s.reg (engOff (24 * q + i) 0x88)).toNat)).sum

/-- Replace the published snapshot (R625, R627). -/
def State.publish (s : State) : State :=
  let top := 2 ^ 48 - 1
  let q := (List.range 8).flatMap (fun q => [(0x100 + 8 * q, s.quadIssue q + s.quadStall q), (0x140 + 8 * q, s.quadStall q)])
  let diff := fun (o t : Nat) => (t % 2 ^ 48 + 2 ^ 48 - SMap.get s.tlmBase o 0 % 2 ^ 48) % 2 ^ 48
  let acc := fun (o : Nat) => SMap.get s.tlmAcc o 0
  let plain := (List.range 100).map (fun i => 0x100 + 8 * i)
  let amount := fun (o : Nat) => match q.find? (fun p => p.1 == o) with
    | some (_, t) => diff o t
    | none => if 0x400 ≤ o ∧ o < 0x420 then acc o / 1000 else acc o
  let put := fun (s : State) (o v : Nat) => s.setReg (0xD0000 + o) (BitVec.ofNat 64 v)
  let s1 := plain.foldl (fun s o => put s o (min (amount o) top)) s
  let s2 := put (put (put (put (put s1 0x420 (acc 0x420)) 0x428 (acc 0x428)) 0x08 ((s.getField 0xD0008 0 32 + 1) % 2 ^ 32)) 0x10 s.pav)
    0x18 (min (s.now - s.tlmAt) (2 ^ 40 - 1))
  { s2 with tlmAcc := [], tlmAt := s.now, tlmBase := q.foldl (fun m p => SMap.set m p.1 (p.2 % 2 ^ 48)) s2.tlmBase }

/-- TELEMETRY_SAMPLE (R544, R627): every 10 ms a snapshot is formed, and published unless FREEZE is 1. -/
def execTelemetrySample (s : State) : Host.Outcome State Fault Refusal :=
  if s.boot.powerRst ∨ s.boot.modRst ∨ s.now < SMap.get s.bgAt 4096 s.boot.startAt + 10000000 then .next s
  else .next ((if s.getField 0xD0000 0 1 = 1 then s else s.publish).bgDone 4 0)

end Sys2Proof.Machine
end

