-- ==== Sys2Proof/Machine/Boot.lean ====
section
/-! DEFINITION. Rails, resets, the boot ROM and the phases of bring-up (R313, R314, R433, R550 to R553, R589 to R606, R637). -/

namespace Sys2Proof.Machine

def State.bt (s : State) (f : Boot → Boot) : State := { s with boot := f s.boot }
def State.dm (s : State) (f : Domain → Domain) : State := { s with dom := f s.dom }
def State.phase (s : State) : Nat := s.getField rPHASE 0 3
def State.setPhase (s : State) (p : Nat) : State := s.setField rPHASE 0 3 p
def State.readyBit (s : State) : Bool := decide (s.getField rPHASE 3 1 = 1)

/-! ### Resets that reach the hub (R408, R589, R590) -/

/-- A standby, power or module reset: everything but the flash, fuses (the grade among them), pins, light and the positions of the switches is at its
reset value; the by-pass switches move. `causes` are bits of GLB_RESET_CAUSE. -/
def State.hubReset (s : State) (causes : Nat) (standby keepTrip : Bool) : State :=
  let r := (s.reg rRESET_CAUSE).toNat
  let dbg := if s.getField rRAS_STATUS 8 2 ≠ 0 then 128 else 0
  let s1 : State := { ({} : State) with
    pending := s.pending, now := s.now, regs := s.regs.filter (fun kv => kv.1 == 0x10), freeCtr := s.freeCtr, out := s.out, repair := s.repair, caFail := s.caFail, keyDraws := s.keyDraws, nextTag := s.nextTag,
    tlmAt := s.now, bypMove := s.bypMove, bypPin := s.bypPin,
    ports := s.ports.map (fun kv => (kv.1, { light := kv.2.light })),
    supply := { fastPin := s.supply.fastPin, tripPin := keepTrip && s.supply.tripPin },
    boot := { sb := s.boot.sb, sbAt := s.boot.sbAt, powerRst := s.boot.powerRst, modRst := s.boot.modRst, perst := s.boot.perst,
              revoke := s.boot.revoke, svnMin := s.boot.svnMin },
    dom := { sector := if s.mgmt.writing.isSome && !keepTrip then none else s.dom.sector },
    mgmt := { writing := if keepTrip then s.mgmt.writing else none } }
  let s2 := ((s1.setField rBYP 0 3 (s.getField rBYP 0 3)).setField rBYP 3 1 (s.getField rBYP 3 1)).setField rBYP 4 1 (if standby then 0 else s.getField rBYP 4 1)
  let s3 := if standby then s2 else s2.setReg rRESET_CAUSE (BitVec.ofNat 64 (r ||| causes ||| dbg))
  s3.bypCommand true

/-- The hub leaves reset: the straps are sampled and the ROM starts (R591, R592); a trip that no power reset ended keeps the module
halted (R580). -/
def State.startRom (s : State) (slot ga : Nat) : State :=
  let s1 := ((({ s with rack := ga % 64 } : State).setReg 0x60008 (BitVec.ofNat 64 (slot % 64 + 64 * (ga % 64)))).setField rDOMAIN_CFG 8 6 (slot % 64)).bt
    (fun b => { b with startAt := s.now })
  s1.setPhase (if s1.supply.tripPin then 6 else 0)

/-- STANDBY_RAIL_UP (R409, R637): 3.3 V is present; the always-on domain runs. -/
def execStandbyRailUp (s : State) : Host.Outcome State Fault Refusal :=
  .next (if s.boot.sb then s else s.bt (fun b => { b with sb := true, sbAt := s.now }))

/-- STANDBY_RESET (R589, R638): 3.3 V has fallen below 2.9 V. -/
def execStandbyReset (s : State) : Host.Outcome State Fault Refusal :=
  .next ((s.hubReset 0 true false).bt (fun b => { b with sb := false, powerRst := true }))

/-- POWER_RESET (R572, R589): the 1.8 V rail is at 1.62 V or below. -/
def execPowerReset (mv : Nat) (s : State) : Host.Outcome State Fault Refusal :=
  if 1620 < mv ∨ s.boot.powerRst then .next s
  else .next ((s.hubReset (2 + (if s.supply.tripPin then 64 else 0)) false false).bt (fun b => { b with powerRst := true }))

/-- POWER_RESET_RELEASE (R589, R591, R593, R637): 3.3 V for 50 ms and 1.8 V at 1.64 V or above; with MOD_RST_N asserted the hub still
waits. -/
def execPowerResetRelease (slot ga mv : Nat) (s : State) : Host.Outcome State Fault Refusal :=
  if !s.boot.powerRst ∨ !s.boot.sb ∨ s.now < s.boot.sbAt + 50000000 ∨ mv < 1640 then .next s
  else
    let s1 := (s.bt (fun b => { b with powerRst := false })).setField rRESET_CAUSE 1 1 1
    .next (if s1.boot.modRst then s1 else s1.startRom slot ga)

/-- MODULE_RESET (R589): MOD_RST_N is asserted past its filter. -/
def execModuleReset (s : State) : Host.Outcome State Fault Refusal :=
  if s.boot.modRst then .next s
  else if s.inReset then .next (s.bt (fun b => { b with modRst := true }))
  else .next ((s.hubReset 4 false true).bt (fun b => { b with modRst := true }))

/-- MOD_RST_RELEASE (R589, R591). -/
def execModRstRelease (slot ga : Nat) (s : State) : Host.Outcome State Fault Refusal :=
  if !s.boot.modRst then .next s
  else
    let s1 := s.bt (fun b => { b with modRst := false })
    .next (if s1.inReset then s1 else s1.startRom slot ga)

/-! ### The boot ROM (R550 to R553, R597) -/

/-- The first check of R552 that a firmware copy fails; 0 where it is accepted. -/
def firmwareCheck (revoke svnMin : Nat) (b : Bytes) : Nat :=
  let n := field b 8 4
  let slot := field b 7 1
  let img := (b.drop 256).take n
  if field b 0 4 ≠ 0x4D465A48 ∨ 1 < field b 0x0C 4 ∨ n < 4096 ∨ 2 ^ 24 < n then 1
  else if 3 < slot ∨ bit revoke slot ∨ sha384 ((b.drop 0x40).take 96) ≠ Config.keyHash slot then 2
  else if field b 6 1 < svnMin then 3
  else if !ecVerify ((b.drop 0x40).take 96) (sha384 (b.take 0xA0)) ((b.drop 0xA0).take 96) then 4
  else if img.length ≠ n ∨ sha384 img ≠ (b.drop 0x10).take 48 then 5
  else 0

/-- An accepted copy runs (R618, R560). -/
def State.runCopy (s : State) (m : Bytes) (second : Bool) : State :=
  let c := if second then 1 else 0
  let svn := field m 6 1
  let s1 := s.setReg 0x30 (BitVec.ofNat 64 (field m 4 2 + 2 ^ 16 * (svn % 64) + 2 ^ 22 * c))
  let s2 := ((s1.setField rRAS_STATUS 10 1 c).setField rRAS_STATUS 16 6 svn).setField rRAS_STATUS 22 6 s.boot.svnMin
  (s2.bt (fun b => { b with commit := bit (field m 0x0C 4) 0 })).setPhase 1

/-- FIRMWARE_ACCEPT (R552, R597): the ROM tries the two copies of the flash. -/
def execFirmwareAccept (a b : Bytes) (s : State) : Host.Outcome State Fault Refusal :=
  if s.inReset ∨ s.phase ≠ 0 ∨ s.boot.failed then .next s
  else
    let ca := firmwareCheck s.boot.revoke s.boot.svnMin a
    if ca = 0 then .next (s.runCopy a false)
    else
      let s1 := s.bt (fun x => { x with checkA := ca })
      let cb := firmwareCheck s.boot.revoke s.boot.svnMin b
      if cb = 0 then .next (s1.runCopy b true)
      else .next ((s1.bt (fun x => { x with checkB := cb, failed := true, hostUp := false })).setPhase 6)

/-! ### The domain record (R600) -/

def recMembers (r : Bytes) : Nat := field r 8 8
def recHead (r : Bytes) : Nat := field r 4 1
def recFallback (r : Bytes) : Bool := bit (field r 3 1) 0
/-- FORM_WAIT in ms; 0 means 500. -/
def recWait (r : Bytes) : Nat := if field r 0x10 2 = 0 then 500 else field r 0x10 2

/-- The first part of a record that is wrong: 1 MAGIC, 2 VERSION, 3 CRC, 4 MEMBERS, 5 own bit, 6 HEAD's bit; 0 where it is valid. -/
def recordCheck (self : Nat) (r : Bytes) : Nat :=
  if field r 0 2 ≠ 0x4D44 then 1
  else if field r 2 1 ≠ 1 then 2
  else if field r 0x1C 4 ≠ crc32c (r.take 0x1C) then 3
  else if popcount 64 (recMembers r) < 16 then 4
  else if !bit (recMembers r) self then 5
  else if 63 < recHead r ∨ !bit (recMembers r) (recHead r) then 6
  else 0

/-- The record sector; one whose write was broken off fails its CRC. -/
def State.record (s : State) : Bytes := s.dom.sector.getD ((List.range 32).map Config.tornByte)
def State.recordBad (s : State) : Nat := if s.dom.sector.isNone then 3 else recordCheck s.self s.record
/-- The sector holds something: it is not erased. -/
def State.recordThere (s : State) : Bool := s.dom.sector.isNone || s.record.any (fun b => b != 0xFF)

/-! ### FIRMWARE and coolant (R592 to R595) -/

/-- The networks start: memory trains, the by-pass is commanded to through, uplinks train (R593, R599). -/
def State.startNetworks (s : State) : State :=
  let s1 := ((s.setField rPHASE 6 1 0).setPhase 2).bypCtrl false
  [12, 13, 14, 15].foldl (fun s p => if s.getField (portOff p 0) 0 1 = 0 then s else s.portIdle p) s1

/-- FIRMWARE_PHASE_COMPLETE (R312, R534, R592 to R595, R598, R600, R638): self-tests, key, records; BAR0 is served. The coolant must have
been read; FAST_OFF_N holds the phase. `repairBad`: the CRC of the repair record failed. -/
def execFirmwarePhaseComplete (selfTest repairBad : Bool) (s : State) : Host.Outcome State Fault Refusal :=
  if s.inReset ∨ s.phase ≠ 1 ∨ s.boot.bar0 ∨ s.supply.fastPin ∨ s.supply.temps.isEmpty then .next s
  else if !selfTest then .next (s.moduleFatal 5)
  else
    let s1 := s.drawKey.bt (fun b => { b with bar0 := true })
    let s2 := if repairBad then ({ s1 with repair := [] } : State).raise 0x3007 0 none [] else s1
    let k := s2.recordBad
    let s3 := if k = 0 then s2
      else if s2.recordThere then (s2.setField rPHASE 5 1 1).raise 0x5016 0 none [(1, k)] else s2.setField rPHASE 5 1 1
    if s3.coolantOk then .next s3.startNetworks
    else .next ((s3.setField rPHASE 6 1 1).raise 0x6007 0 none [(2, s.getField 0x10018 0 12), (2, s.getField 0x10018 12 12), (2, s.getField 0x10018 24 12)])

/-- COOLANT_RESTORED (R593): the wait for coolant ends. -/
def execCoolantRestored (s : State) : Host.Outcome State Fault Refusal :=
  if s.getField rPHASE 6 1 = 0 ∨ !s.coolantOk ∨ s.phase ≠ 1 then .next s else .next s.startNetworks

/-! ### MEMORY (R301, R306, R313, R314, R599) -/

/-- MCHs of a stack in service by its capacity register. -/
def State.mchCount (s : State) (st : Nat) : Nat := s.getField (memOff st 0) 38 6

/-- The stack that hosts a quadrant's save areas (R301). -/
def State.saveHost (s : State) (q : Nat) : Option Nat :=
  let up := fun (st : Nat) => decide (0 < s.mchCount st)
  if up q then some q
  else match ((List.range 4).map (· + q / 4 * 4)).find? up with
    | some st => some st
    | none => (List.range 8).find? up

/-- Owner codes after all memory was rewritten: Free, and Reserved at the top of each stack (R301, R304). -/
def State.initOwners (s : State) : SMap Nat :=
  (List.range 8).flatMap (fun st =>
    let n := 16 * s.mchCount st
    let top := 2 + ((List.range 8).filter (fun q => q != st && s.saveHost q == some st)).length
    (List.range n).map (fun g => (512 * st + g, if g + top < n then 0xFF else 0xFE)))

/-- All memory is rewritten as zeros under a new key (R312). -/
def State.zeroMemory (s : State) : State := { s with mem := { owner := s.initOwners } }

/-- The registers of an MCH after training, with an event for each lane that a spare replaces (R313, R331). -/
def State.trainMch (s : State) (st c : Nat) (t : Trained) : State × Bool :=
  let o := memOff st (0x100 + 8 * c)
  if s.caFail.contains (32 * st + c) then
    ((({ s with caFail := s.caFail.filter (· != 32 * st + c) } : State).setField o 19 2 2).raise 0x3002 0 none [], false)
  else if s.repair.contains (32 * st + c) then ((s.setField o 19 2 3).raise 0x3002 0 none [], false)
  else match t with
    | .pass => (s, true)
    | .failed => ((s.setField o 19 2 2).raise 0x3002 0 none [], false)
    | .repaired a b ca =>
      let s1 := (((s.setField o 0 7 (a.getD 0x7F)).setField o 7 7 (b.getD 0x7F)).setField o 14 5 (ca.getD 0x1F)).setField o 19 2 1
      let lanes := [a, b, ca].filterMap id
      (lanes.foldl (fun s x => s.raise 0x3003 0 none [(1, x)]) (s1.setField (memOff st 8) (32 + c) 1 1), true)

/-- A stack after training: map, capacity, and the whole stack mapped out below 16 MCHs (R314, R330). -/
def State.trainStack (s : State) (st : Nat) (res : List Trained) : State :=
  let (s1, up) := (List.range 32).foldl (fun (a : State × List Nat) c =>
    let (s, ok) := a.1.trainMch st c (res.getD (32 * st + c) .failed)
    (s, if ok then a.2 ++ [c] else a.2)) (s, [])
  let n := up.length
  if n < 16 then ((s1.setReg (memOff st 8) 0).setReg (memOff st 0) (BitVec.ofNat 64 (2 ^ 44))).raise 0x3004 0 none []
  else
    ((s1.setField (memOff st 8) 0 32 (up.foldl (fun m c => m + 2 ^ c) 0)).setReg (memOff st 0) (BitVec.ofNat 64 (n * 2 ^ 32 + n * 2 ^ 38)))

/-! ### Floods of DOMAIN (R601) -/

/-- The 48-byte message of a member: record, host link, when it entered DOMAIN and when the link state was taken. -/
def State.domBody (s : State) : Bytes :=
  s.record.take 0x1C ++ leBytes 1 (if s.boot.hostUp && !s.boot.perst then 1 else 0) ++ leBytes 3 0 ++ leBytes 8 (s.dom.entered.getD 0)
    ++ leBytes 8 s.boot.hostAt

/-- A domain message in a body of 48 bytes. -/
def domMsgOf (b : Bytes) : DomMsg :=
  let up := decide (field b 0x1C 1 = 1)
  ⟨b.take 0x1C, up, field b 0x20 8, field b 0x28 8, if up then some (field b 0x28 8) else none⟩

/-- A message after the one held of its member: a link reported up since the same entry into DOMAIN stays reported (R601). -/
def DomMsg.after (x : DomMsg) : Option DomMsg → DomMsg
  | some o => if o.entered = x.entered then { x with upAt := (match o.upAt, x.upAt with | some a, some b => some (min a b) | some a, none => some a | none, u => u) } else x
  | none => x

def isDomMsg (m : Msg) : Bool := m.kind == 8 && decide (m.body.length = 48 ∧ field m.body 0 2 = 0x4D44)

/-- Flood the module's own message; it counts as seen here too. -/
def State.domFlood (s : State) : State :=
  let b := s.domBody
  let s1 := s.dm (fun d => { d with msgs := SMap.set d.msgs s.self ((domMsgOf b).after (SMap.find? d.msgs s.self)) })
  { s1 with outbox := s1.outbox ++ ((List.range 64).filter (fun m => m != s.self)).map (fun m => (⟨8, 1, 64 * s.rack + m, 0, 0, b⟩ : Msg)) }

/-- The module enters DOMAIN: it floods its message, unless it stands alone (R600, R601). -/
def State.enterDomain (s : State) : State :=
  let s1 := (s.setPhase 4).dm (fun d => { d with entered := some s.pav, ownDone := s.now, head := none, retryAt := none })
  if s1.getField rPHASE 5 1 = 1 then s1 else s1.domFlood

/-- The link state changed: a member in DOMAIN or later floods again. -/
def State.linkChange (s : State) (up : Bool) : State :=
  let s1 := s.bt (fun b => { b with hostUp := up, hostAt := s.pav })
  if s1.dom.entered.isSome ∧ s1.getField rPHASE 5 1 = 0 ∧ 4 ≤ s1.phase ∧ s1.phase ≤ 5 then s1.domFlood else s1

/-- MEMORY_PHASE_COMPLETE (R312 to R315, R592, R599): the training result of each MCH; all memory is zeroed. -/
def execMemoryPhaseComplete (res : List Trained) (s : State) : Host.Outcome State Fault Refusal :=
  if s.inReset ∨ s.phase ≠ 2 ∨ s.boot.memDone then .next s
  else
    let s1 := ((List.range 8).foldl (fun s st => s.trainStack st res) s).zeroMemory
    let s2 := s1.bt (fun b => { b with memDone := true })
    .next (if s2.boot.fabDone then s2.enterDomain else s2.setPhase 3)

/-- FABRIC_PHASE_COMPLETE (R599): the switches are through, no port trains or 10 ms have passed, and the counter is locked or the
reference. -/
def execFabricPhaseComplete (s : State) : Host.Outcome State Fault Refusal :=
  match s.boot.throughAt with
  | none => .next s
  | some t =>
    let training := (List.range 16).any (fun p => decide (s.portSt p = 1))
    let lock := decide (s.pavState = pvLOCKED) || bit (s.reg rPAV_CTRL).toNat 8
    if s.inReset ∨ (s.phase ≠ 2 ∧ s.phase ≠ 3) ∨ s.boot.fabDone ∨ s.bypassed ∨ (training ∧ s.now < t + 10000000) ∨ !lock then .next s
    else
      let s1 := s.bt (fun b => { b with fabDone := true })
      .next (if s1.boot.memDone then s1.enterDomain else s1)

/-! ### Readiness (R500, R553, R595, R604) -/

/-- After bring-up the decode pool holds half of the available engines: the lowest-numbered ones (log 45). -/
def State.firstPools (s : State) : State :=
  let av := (List.range 192).filter s.isAvail
  let half := av.take (av.length / 2)
  (av.foldl (fun s e => s.setEngine e { s.engine e with pool := half.contains e }) s).setField rSRV_POOLS 16 8 half.length

/-- The module is ready (R553, R595, R604). -/
def State.becomeReady (s : State) : State :=
  let s0 := if s.boot.pooled then s else s.firstPools.bt (fun b => { b with pooled := true })
  let s1 := (s0.setPhase 5).setField rPHASE 3 1 1
  let s2 := s1.raise 0x5010 0 none [(1, s1.getField rRAS_STATUS 10 1), (1, s1.getField rRESET_CAUSE 0 8), (8, (s1.reg rDOMAIN_MEMBERS).toNat)]
  let s3 := if s2.boot.checkA = 0 then s2 else s2.raise 0x7004 0 none [(1, s2.boot.checkA)]
  let svn := s3.getField rRAS_STATUS 16 6
  let s4 := if s3.boot.commit ∧ s3.boot.svnMin < svn then (s3.bt (fun b => { b with svnMin := svn })).setField rRAS_STATUS 22 6 svn else s3
  if s4.admHeld ∧ s4.isHead then (({ s4 with admHeld := false } : State).setField 0x20000 0 1 1).adminStart else s4

/-! ### Host interface reset (R433, R589, R590, R602) -/

/-- Fabric management code of the model (log 40): 0xF3 carries a host interface reset to a member. -/
def isHifMsg (bitN : Nat) (m : Msg) : Bool := m.isMgmt 0xF3 && decide (field m.body 1 1 = bitN)

/-- Registers that a host interface reset clears: HIF and TEN but for counters and the domain's registers. -/
def hifClears (off : Nat) : Bool :=
  let keep := off == rDOMAIN_MEMBERS || off == rDOMAIN_CFG || decide (0x20048 ≤ off ∧ off ≤ 0x20060) || off == 0x2FFF8 || off == 0x3FFF8
  decide (0x20000 ≤ off ∧ off < 0x40000) && !keep

/-- Messages that outlive a host interface reset: those of views and of the domain. -/
def keepsMsg (m : Msg) : Bool := m.isMgmt 0xF0 || m.isMgmt 0xF1 || m.isMgmt 0xF2 || m.isMgmt 0xF3 || isDomMsg m

/-- The state of the host interface, of tenants and of their work is gone; memory is zeroed under a new key; engines are cleared before
work (R292, R312, R590). -/
def State.hifClear (s0 : State) : State :=
  let s := (s0.flushWhere (fun _ => true)).drawKey
  let s1 : State := { s with
    items := [], images := [], net := [], tokens := [], streams := [], preds := [], chans := [], gens := [], watch := [], rings := [], reads := [],
    vecs := [], regions := [], grans := [], insts := [], qwait := [], rbufs := [], jobs := [], slots := [], nwCfg := [], nwSt := [], seqs := [], moves := 0,
    wakeReq := [], arrived := [], admFwd := none, copies := [], wakeq := [], l1 := false, d3hot := false, admHeld := false, tenGone := [],
    tenWant := [], keys := [], nonces := [], groups := [], bars := [], releases := [], colls := [], wrr := [],
    inbox := s.inbox.filter keepsMsg, outbox := s.outbox.filter keepsMsg,
    regs := s.regs.filter (fun kv => !hifClears kv.1) }
  let s2 := (List.range 192).foldl (fun s e =>
    let en := s.engine e
    ((s.setEngine e { pool := en.pool, scrubCe := en.scrubCe, clrFail := en.clrFail }).setClearing e false).setField (engOff e oSTORE_CTRL) 0 16 0) s1
  (if s2.boot.memDone then s2.zeroMemory else s2).gateIdle

/-- A host interface reset with its bit of GLB_RESET_CAUSE; a ready module is ready again in its domain. -/
def State.hifReset (s : State) (bitN : Nat) : State :=
  let s1 := s.hifClear.setField rRESET_CAUSE bitN 1 1
  if s1.phase = 5 then s1.becomeReady else s1

/-- The members of the formed domain other than this one. -/
def State.others (s : State) : List Nat := (List.range 64).filter (fun m => m != s.self && bit (s.reg rDOMAIN_MEMBERS).toNat m)

/-- Tell the other members to carry out a host interface reset (R590, R602). -/
def State.tellHif (s : State) (bitN : Nat) : State :=
  if !s.isHead then s
  else s.others.foldl (fun s m => s.send ⟨8, 1, 64 * s.rack + m, 0, 0, leBytes 1 0xF3 ++ leBytes 1 bitN ++ leBytes 2 0⟩) s

/-- On a member that is not the head: the head's order to reset. -/
def State.obeyHif (s : State) (bitN : Nat) : State :=
  match s.takeMsg (isHifMsg bitN) with
  | some (_, s1) => s1.hifReset bitN
  | none => s

/-- PERST_ASSERT (R589, R602, R606, R638): on the head a host interface reset of every member; elsewhere the link is down, and a member
carries out a reset that its head has ordered. -/
def execPerstAssert (s : State) : Host.Outcome State Fault Refusal :=
  let s1 := s.bt (fun b => { b with perst := true })
  if s1.inReset then .next s1
  else
    let s2 := if s1.boot.hostUp then s1.linkChange false else s1
    .next (if s2.isHead && decide (1 ≤ s2.phase) then (s2.hifReset 3).tellHif 3 else s2.obeyHif 3)

/-- PERST_DEASSERT (R594, R606): link training starts. -/
def execPerstDeassert (s : State) : Host.Outcome State Fault Refusal := .next (s.bt (fun b => { b with perst := false }))

/-- HOST_LINK_UP (R601): the link has trained to L0. -/
def execHostLinkUp (s : State) : Host.Outcome State Fault Refusal :=
  if s.inReset ∨ s.boot.perst ∨ s.boot.hostUp ∨ s.boot.failed then .next s else .next (s.linkChange true)

/-- FUNCTION_LEVEL_RESET (R433, R606): from the host on the head; a member carries out the one that its head has ordered. -/
def execFunctionLevelReset (s : State) : Host.Outcome State Fault Refusal :=
  if s.inReset then .next s
  else if s.isHead then .next ((s.hifReset 4).tellHif 4)
  else .next (if s.phase < 5 then s.hifReset 4 else s.obeyHif 4)

end Sys2Proof.Machine
end

