-- ==== Sys2Proof/Machine/Domain.lean ====
section
/-! DEFINITION. Domains: floods, election, formation, and changes of membership (R436, R445, R600 to R603). -/

namespace Sys2Proof.Machine

/-- DOMAIN_MESSAGE (R601): the oldest flooded message of a module of the rack is noted. -/
def execDomainMessage (s : State) : Host.Outcome State Fault Refusal :=
  match s.takeMsg isDomMsg with
  | none => .next s
  | some (m, s1) =>
    .next (if m.peer / 64 = s.rack then s1.dm (fun d => { d with msgs := SMap.set d.msgs (m.peer % 64) ((domMsgOf m.body).after (SMap.find? d.msgs (m.peer % 64))) }) else s1)

/-- Modules that the own record lists. -/
def State.listed (s : State) : List Nat := (List.range 64).filter (fun m => bit (recMembers s.record) m)

/-- The election deadline (R601): FORM_WAIT after the earliest entry among listed members seen. -/
def State.deadline (s : State) : Nat :=
  let es := s.listed.filterMap (fun m => (SMap.find? s.dom.msgs m).map (·.entered))
  es.foldl min (s.dom.entered.getD 0) + recWait s.record * 1000000

/-- A message of a member, taken by the deadline, reported its link up (R601). -/
def State.linkSeen (s : State) (m : Nat) : Bool :=
  match SMap.find? s.dom.msgs m with
  | some x => (match x.upAt with | some u => decide (u ≤ s.deadline) | none => false)
  | none => false

/-- A member's record equals the own one. -/
def State.recordEq (s : State) (m : Nat) : Bool :=
  match SMap.find? s.dom.msgs m with
  | some x => x.record == s.record.take 0x1C
  | none => false

/-- The head by the procedure of R601; none where there is none, or no decision yet. -/
def State.elect (s : State) : Option (Option Nat) :=
  let h := recHead s.record
  if s.linkSeen h then some (some h)
  else if s.pav ≤ s.deadline + 1000000 then none
  else if recFallback s.record then some (s.listed.find? (fun m => s.linkSeen m && s.recordEq m))
  else some none

/-- DOMAIN_ELECTION (R600, R601): the module decides the head; one that stands alone is its own. -/
def execDomainElection (s : State) : Host.Outcome State Fault Refusal :=
  if s.inReset ∨ s.phase ≠ 4 ∨ s.dom.head.isSome ∨ s.dom.retryAt.isSome then .next s
  else if s.getField rPHASE 5 1 = 1 then .next (s.dm (fun d => { d with head := some s.self }))
  else match s.elect with
    | none => .next s
    | some none =>
      let ups := s.listed.filter s.linkSeen
      .next ((s.dm (fun d => { d with retryAt := some (s.now + 1000000000) })).raise 0x5013 0 none [(8, maskOf ups)])
    | some (some h) =>
      match SMap.find? s.dom.msgs h with
      | some x =>
        if x.record = s.record.take 0x1C then .next (s.dm (fun d => { d with head := some h }))
        else .next ((s.dm (fun d => { d with retryAt := some (s.now + 1000000000) })).raise 0x5012 0 none
          [(4, crc32c (s.record.take 0x1C)), (4, crc32c x.record)])
      | none => .next s

/-- DOMAIN_RETRY (R601): 1 s later a member without a head goes through the phase again; one with another record than the head's
looks again. -/
def execDomainRetry (s : State) : Host.Outcome State Fault Refusal :=
  match s.dom.retryAt with
  | none => .next s
  | some t =>
    if s.now < t ∨ s.phase ≠ 4 then .next s
    else if s.linkSeen (recHead s.record) then .next (s.dm (fun d => { d with retryAt := none }))
    else
      let dl := s.deadline
      .next (s.dm (fun d => { d with msgs := d.msgs.filter (fun kv => decide (dl < kv.2.entered)) })).enterDomain

/-- Fabric management bodies of the model (log 40): 0xF2 names the members of a formed domain; 0xF4 copies a tenant's enable and windows
from the head. -/
def State.formedBody (s : State) : Bytes := leBytes 1 0xF2 ++ leBytes 7 0 ++ leBytes 8 (s.reg rDOMAIN_MEMBERS).toNat
def State.tenBody (s : State) (t : Nat) : Bytes :=
  leBytes 1 0xF4 ++ leBytes 1 t ++ leBytes 1 (s.getField (tenOff t 0) 0 1) ++ leBytes 5 0
    ++ (List.range 32).flatMap (fun i => leBytes 8 (s.reg (tenOff t (0x100 + 8 * i))).toNat)

/-- The members of a formed domain, the head first, are set. -/
def State.setMembers (s : State) (head members : Nat) : State :=
  ((s.setReg rDOMAIN_MEMBERS (BitVec.ofNat 64 members)).setField rDOMAIN_CFG 0 6 head).setField rDOMAIN_CFG 14 1 1

/-- DOMAIN_FORMED (R600, R601, R604): the head forms the domain once all listed members have joined, or FORM_WAIT after its own phases;
a member learns of it from the head. -/
def execDomainFormed (s : State) : Host.Outcome State Fault Refusal :=
  if s.phase = 4 ∧ s.dom.head = some s.self then
    let alone := decide (s.getField rPHASE 5 1 = 1)
    let joined := if alone then [s.self] else s.listed.filter s.recordEq
    if !alone ∧ joined.length < s.listed.length ∧ s.now < s.dom.ownDone + recWait s.record * 1000000 then .next s
    else
      let mask := maskOf joined
      let s1 := ((s.setMembers s.self mask).setField rPHASE 4 1 1).raise 0x5011 0 none [(8, mask)]
      let s2 := s1.others.foldl (fun s m => s.send ⟨8, 1, 64 * s.rack + m, 0, 0, s.formedBody⟩) (s1.dm (fun d => { d with msgs := [], unreach := [] }))
      .next s2.becomeReady
  else match s.takeMsg (fun m => m.isMgmt 0xF2 && decide (m.peer / 64 = s.rack)) with
    | none => .next s
    | some (m, s1) =>
      let h := m.peer % 64
      let s2 := s1.setMembers h (field m.body 8 8)
      if s1.phase = 4 ∧ (s1.dom.head = none ∨ s1.dom.head = some h) then
        .next ((s2.dm (fun d => { d with head := some h, retryAt := none, msgs := [], unreach := [] })).becomeReady)
      else if s1.phase = 5 ∧ s1.headIx = h then .next s2
      else .next s1

/-- MEMBER_JOIN (R436, R602): a listed member that reached DOMAIN after formation joins. -/
def execMemberJoin (m : Fin 64) (s : State) : Host.Outcome State Fault Refusal :=
  let n := m.val
  if !s.isHead || !s.formed || n == s.self || bit (s.reg rDOMAIN_MEMBERS).toNat n || !s.listed.contains n || !s.recordEq n then .next s
  else
    let s1 := (s.setField rDOMAIN_MEMBERS n 1 1).dm (fun d => { d with msgs := SMap.erase d.msgs n, unreach := SMap.erase d.unreach n })
    let s2 := s1.raise 0x5014 0 none [(1, n)]
    let s3 := s2.others.foldl (fun s k => s.send ⟨8, 1, 64 * s.rack + k, 0, 0, s.formedBody⟩) s2
    .next (((List.range 64).filter s3.tenantEnabled).foldl (fun s t => s.send ⟨8, 1, 64 * s.rack + n, 0, 0, s.tenBody t⟩) s3)

/-- MEMBER_LEAVE (R445, R602): a member has reset (1), tripped (2), turned fatal (3) or cannot be reached for 10 ms (4); its channels go
to ERROR. -/
def execMemberLeave (m : Fin 64) (cause : Nat) (s : State) : Host.Outcome State Fault Refusal :=
  let n := m.val
  let far := match SMap.find? s.dom.unreach n with | some t => decide (t + 10000000 ≤ s.now) | none => false
  if !s.isHead || !s.formed || n == s.self || !bit (s.reg rDOMAIN_MEMBERS).toNat n || cause == 0 || decide (4 < cause) || (cause == 4 && !far) then .next s
  else
    let s1 := (s.setField rDOMAIN_MEMBERS n 1 0).dm (fun d => { d with msgs := SMap.erase d.msgs n, unreach := SMap.erase d.unreach n })
    let s2 := s1.raise 0x5015 0 none [(1, n), (1, cause)]
    let lost := s2.watch.filter (fun kv => decide (kv.1 / 4096 = n))
    let s3 := lost.foldl (fun s kv => s.raise 0x5002 kv.2.handle (if kv.2.tenant < 64 then some kv.2.tenant else none) [(1, 5)]) s2
    let s4 : State := { s3 with watch := s3.watch.filter (fun kv => decide (kv.1 / 4096 ≠ n)),
                                reads := s3.reads.filter (fun kv => match kv.2.who with | .doorbell k => decide (k / 4096 ≠ n) | .proxy k _ => decide (k % 64 ≠ n) | _ => true) }
    .next (s4.others.foldl (fun s k => s.send ⟨8, 1, 64 * s.rack + k, 0, 0, s.formedBody⟩) s4)

/-- HEAD_LOSS (R590, R602): the head has reset, or cannot be reached for 10 ms; the member resets its host interface and returns to
DOMAIN. -/
def execHeadLoss (headReset : Bool) (s : State) : Host.Outcome State Fault Refusal :=
  let far := match SMap.find? s.dom.unreach s.headIx with | some t => decide (t + 10000000 ≤ s.now) | none => false
  if s.isHead || !s.formed || decide (s.phase ≠ 5) || !(headReset || far) then .next s
  else
    let s1 := s.hifClear.setField rRESET_CAUSE 5 1 1
    let s2 := (((s1.setReg rDOMAIN_MEMBERS 0).setField rDOMAIN_CFG 14 1 0).setField rDOMAIN_CFG 0 6 0).setField rPHASE 3 1 0
    .next ((s2.dm (fun d => { d with unreach := [] })).enterDomain)

end Sys2Proof.Machine
end

