-- ==== Sys2Proof/Machine/Bar.lean ====
section
/-! DEFINITION. Reads and writes of BAR0: values computed from state, access codes, locks, half accesses, and what writes do (R15 to
R18, R431, R435 to R438, R609 to R630). -/

namespace Sys2Proof.Machine

/-! ### Values (R304, R434, R538, R559, R620, R623, R628) -/

def toNatB (b : Bool) (i : Nat) : Nat := if b then 2 ^ i else 0

/-- Eight bytes of a table of byte values. -/
def pack8 (f : Nat → Nat) (i : Nat) : Nat := ((List.range 8).map (fun k => f (i + k) % 256 * 2 ^ (8 * k))).sum

/-- TEN_STATUS (R620). -/
def State.tenStatus (s : State) (t : Nat) : Nat :=
  (s.chans.filter (fun kv => kv.2.tenant == t)).length + 2 ^ 12 * (s.mem.owner.filter (fun kv => kv.2 == t)).length
    + 2 ^ 25 * (s.images.filter (fun kv => kv.2.tenant == t)).length + 2 ^ 35 * (s.regEntries t).length
    + 2 ^ 46 * s.getField (tenOff t 8) 46 1

/-- ENG_STATE (R623). -/
def State.engState (s : State) (e : Nat) : Nat :=
  let en := s.engine e
  let st := if !s.inService e then 3 else if en.st = .clearing then 2 else if en.st = .running ∨ en.st = .ending ∨ en.st = .yielded then 1 else 0
  st + toNatB en.pool 2 + toNatB (s.isWarm e) 3 + (match en.bound with | some t => 2 ^ 4 * (t % 64) + 2 ^ 10 | none => 0) + 2 ^ 11 * (en.logical % 256)
    + toNatB (decide ((s.item en.item).hdr.group ≠ 0)) 19

/-- The watchdog counts (R140, R623). -/
def State.wdActive (s : State) (e : Nat) : Bool :=
  let en := s.engine e
  decide (en.st = .running) && !en.hold.any (fun h => match h with | .wait _ _ _ y => y | _ => false)

/-- SRV_POOLS (R511). -/
def State.pools (s : State) : Nat :=
  let e := s.availCount
  let d := s.decodeSize
  if !s.boot.pooled then 0
  else (e - d) + 2 ^ 8 * d + 2 ^ 16 * s.getField rSRV_POOLS 16 8 + 2 ^ 24 * ((List.range 192).filter (fun x => s.isAvail x && s.isWarm x)).length + 2 ^ 32 * e

/-- RAS_REGION_A (R560). -/
def regionA (r : Region) : Nat :=
  r.first + 2 ^ 12 * r.count + 2 ^ 25 + 2 ^ 26 * r.source + 2 ^ 27 * r.peerRack + 2 ^ 33 * r.peerModule

/-- R614 applies: a member of a formed domain that is not the head. -/
def State.subMember (s : State) : Bool := s.formed && !s.isHead

/-- HIF registers that read on every member as on the head (R614). -/
def hifShared (off : Nat) : Bool := off == rDOMAIN_MEMBERS || off == rDOMAIN_CFG || decide (0x20040 ≤ off ∧ off ≤ 0x20060) || off == 0x2FFF8

/-- The value of the 64-bit register at an 8-byte aligned offset; 0 where there is none (R610). -/
def State.regView (s : State) (off : Nat) : Nat :=
  if s.subMember ∧ 0x20000 ≤ off ∧ off < 0x30000 ∧ !hifShared off then 0
  else if off = 0x20040 then s.watch.length
  else if off = 0x30000 then maskOf ((List.range 64).filter s.tenantEnabled)
  else if 0x31000 ≤ off ∧ off < 0x39000 ∧ (off - 0x31000) % 0x200 = 8 then s.tenStatus ((off - 0x31000) / 0x200)
  else if 0x50000 ≤ off ∧ off < 0x51000 then pack8 s.ownerOf (off - 0x50000)
  else if off = 0x60030 then s.pav
  else if off = 0x80040 ∨ off = 0x80048 ∨ off = 0x80050 then
    (if s.readyBit then maskOf ((List.range 64).filter (fun b => s.isAvail (64 * ((off - 0x80040) / 8) + b))) else 0)
  else if 0x81000 ≤ off ∧ off < 0x99000 ∧ (off - 0x81000) % 0x200 = 0x90 then
    (s.reg off).toNat + toNatB (s.wdActive ((off - 0x81000) / 0x200)) 24
  else if 0x81000 ≤ off ∧ off < 0x99000 ∧ (off - 0x81000) % 0x200 = 0x98 then s.engState ((off - 0x81000) / 0x200)
  else if off = 0xA0008 then s.insts.length + toNatB (!s.qwait.isEmpty) 9
  else if off = 0xB0008 then s.pools
  else if off = 0xB0018 then s.seqs.length
  else if 0xC1000 ≤ off ∧ off < 0xC2000 then
    (match SMap.find? s.regions ((off - 0xC1000) / 16) with
     | some r => if off % 16 = 0 then regionA r else r.src
     | none => 0)
  else if 0xC4000 ≤ off ∧ off < 0xC5000 then pack8 (fun g => match SMap.find? s.grans g with | some x => x.code | none => 0) (off - 0xC4000)
  else if off = 0xE0008 then maskOf ((List.range 16).filter s.injActive)
  else if 0x10100 ≤ off ∧ off < 0x10140 then
    (setBits (s.reg off) 35 1 (if s.warmQuads.contains ((off - 0x10100) / 8) then 1 else 0)).toNat
  else
    -- write-only fields read 0
    (regFields off).foldl (fun v f => if f.acc = .wo then (setBits (BitVec.ofNat 64 v) f.lo f.len 0).toNat else v) (s.reg off).toNat

/-! ### Reads (R431, R611, R612, R616) -/

/-- Clear the read-clear fields of a register that a read has returned; `low` and `high` say which halves, a low half counting for
all (R612). -/
def State.readClear (s : State) (off : Nat) (low : Bool) : State :=
  let lockv := match blockOf off with | some (_, base, size) => decide (off = lockvOf base size) | none => false
  if off = 0x48008 then s.setField off 53 1 0
  else if off = rPWR_STATUS ∧ low then s.setField off 28 12 (s.getField off 16 12)
  else if off = 0xB0060 ∧ low then s.setField off 0 16 0
  else if lockv then { s.setField off 48 16 0 with lockvSeen := s.lockvSeen.filter (· != off) }
  else s

def blockIx (off : Nat) : Nat := match blockOf off with | some (n, _, _) => n | none => 12

/-- An access of a requester to a block ends a latched upper half there (R611). -/
def State.unlatch (s : State) (req off : Nat) : State := { s with halfRd := SMap.erase s.halfRd (16 * req + blockIx off) }

/-- Read 4 or 8 bytes at an aligned offset (R610 to R612). Requesters: 0 host link, 1 REG_ACCESS, 2 management. -/
def State.regRead (s : State) (req off n : Nat) : Nat × State :=
  let o := off / 8 * 8
  let v := s.regView o
  let k := 16 * req + blockIx off
  if n = 8 then (v, (s.unlatch req off).readClear o true)
  else if off % 8 = 0 then (v % 2 ^ 32, ({ s with halfRd := SMap.set s.halfRd k (o, v / 2 ^ 32, s.now) } : State).readClear o true)
  else match SMap.find? s.halfRd k with
    | some (o1, hi, t) => if o1 = o ∧ s.now ≤ t + 10000 then (hi, s.unlatch req off) else (v / 2 ^ 32, (s.unlatch req off).readClear o false)
    | none => (v / 2 ^ 32, (s.unlatch req off).readClear o false)

/-! ### Tenants (R436 to R438, R621) -/

/-- A window whose last byte would lie at or beyond 2^64. -/
def State.winBad (s : State) (t : Nat) : Bool :=
  (List.range 16).any (fun w =>
    let base := bits (s.reg (tenOff t (0x100 + 16 * w))).toNat 12 52 * 4096
    let size := bits (s.reg (tenOff t (0x108 + 16 * w))).toNat 0 52 * 4096
    decide (size ≠ 0 ∧ 2 ^ 64 < base + size))

/-- The head copies a tenant's registers to every member (R436). -/
def State.copyTenant (s : State) (t : Nat) : State :=
  if s.isHead then s.others.foldl (fun s m => s.send ⟨8, 1, 64 * s.rack + m, 0, 0, s.tenBody t⟩) s else s

/-- A tenant is enabled now. -/
def State.tenEnable (s : State) (t : Nat) : State :=
  ((({ s with tenWant := s.tenWant.filter (· != t) } : State).setField (tenOff t 0) 0 1 1).setField (tenOff t 8) 46 1 (if s.winBad t then 1 else 0)).copyTenant t

/-- A tenant is disabled: its granules are released; images, streams, expert slots and event ring go (R438). -/
def State.tenDisable (s : State) (t : Nat) : State :=
  let gs := (s.mem.owner.filter (fun kv => kv.2 == t)).map (·.1)
  let s1 := gs.foldl State.releaseGranule (s.setField (tenOff t 0) 0 1 0)
  let s2 : State := { s1 with
    images := s1.images.filter (fun kv => kv.2.tenant != t), streams := s1.streams.filter (fun kv => kv.1 / 1024 != t),
    slots := s1.slots.filter (fun kv => kv.2.tenant != t), rings := SMap.erase s1.rings t,
    tenGone := if gs.isEmpty then s1.tenGone else SMap.set s1.tenGone t gs }
  s2.copyTenant t

/-- A tenant with an open channel on some member. -/
def State.tenBusy (s : State) (t : Nat) : Bool := s.chans.any (fun kv => kv.2.tenant == t) || s.watch.any (fun kv => kv.2.tenant == t)

/-- TEN_CTRL.EN of a tenant is written (R438, R557, R621). -/
def State.tenEn (s : State) (t : Nat) (v : Bool) : State :=
  if s.getField rRAS_STATUS 8 1 = 1 then s
  else if v then
    (if s.tenantEnabled t then s
     else if (SMap.find? s.tenGone t).isSome then { s with tenWant := if s.tenWant.contains t then s.tenWant else s.tenWant ++ [t] }
     else s.tenEnable t)
  else if !s.tenantEnabled t then { s with tenWant := s.tenWant.filter (· != t) }
  else if s.tenBusy t then s
  else s.tenDisable t

/-! ### Writes (R16 to R18, R611 to R616, R629, R630) -/

/-- The LOCK field of a block is set (R615). -/
def State.locked (s : State) (off : Nat) : Bool :=
  let n := blockIx off
  (n == 1 && decide (s.getField bPWR 0 1 = 1)) || (n == 5 && decide (s.getField bFAB 0 1 = 1)) || (n == 7 && decide (s.getField bQDR 0 1 = 1))
    || (n == 8 && decide (s.getField bSRV 0 1 = 1)) || (n == 9 && decide (s.getField bRAS 0 1 = 1))

/-- A refused write is counted in its block's register, and reported once until that is read (R616). -/
def State.lockViolation (s : State) (off : Nat) : State :=
  match blockOf off with
  | none => s
  | some (n, base, size) =>
    let r := lockvOf base size
    let ix := (off - base) / 8
    let s1 := (s.setField r 0 48 (s.getField r 0 48 + 1)).setField r 48 16 ix
    if s1.lockvSeen.contains r then s1
    else ({ s1 with lockvSeen := r :: s1.lockvSeen } : State).raise 0x7003 0 none [(1, n), (2, ix)]

/-- Offset in a tenant's register window, with the tenant. -/
def tenWindow (off : Nat) : Option (Nat × Nat) :=
  if 0x31000 ≤ off ∧ off < 0x39000 then some ((off - 0x31000) / 0x200, (off - 0x31000) % 0x200) else none

/-- A write to a register is refused whole, and counted: TEN_CTRL.EN over windows, R614, or no test grant (R437, R614, R629). -/
def State.refuses (s : State) (off : Nat) : Bool :=
  let n := blockIx off
  (n == 3 && (s.subMember || (match tenWindow off with | some (t, w) => decide (0x100 ≤ w) && s.tenantEnabled t | none => false)))
    || (n == 2 && s.subMember) || (n == 11 && decide (s.getField rRAS_STATUS 9 1 = 0))

/-- A write is ignored and not counted: the admin channel's setup while it is not off (R435). -/
def State.ignores (s : State) (off : Nat) : Bool := decide (0x20008 ≤ off ∧ off ≤ 0x20020) && decide (s.getField rADMIN_STATUS 0 2 ≠ 0)

def clampN (v lo hi : Nat) : Nat := min (max v lo) hi

/-- The nearest values in range of PWR_CTRL (R586), and of QDR_CTRL.TC0_INSTANCES. -/
def clampReg (off v : Nat) : Nat :=
  if off = rPWR_CTRL then
    let f := fun (v lo len a b : Nat) => (setBits (BitVec.ofNat 64 v) lo len (clampN (bits v lo len) a b)).toNat
    f (f (f (f v 1 11 800 2000) 12 8 85 95) 20 12 1 4095) 32 12 1 4095
  else if off = 0xA0000 then (setBits (BitVec.ofNat 64 v) 8 8 (min (bits v 8 8) 128)).toNat
  else v

/-- Messages that reordering holds go on in their order once injection is off (R630). -/
def State.releaseHeld (s : State) (p : Nat) : State :=
  let x := s.port p
  if s.injOn ∨ x.held.isEmpty then s else { s.setPort p { x with held := [] } with rxMsgs := s.rxMsgs ++ x.held.map (fun h => (p, h.1, h.2)) }

/-- A new value with its effects: `val` is the value written, `fs` the fields written. -/
def State.regEffect (s : State) (off new val : Nat) (fs : List RField) : State :=
  let has := fun (lo : Nat) => fs.any (fun f => f.lo == lo)
  let put := fun (s : State) => s.setReg off (BitVec.ofNat 64 new)
  let p := (off - 0x61000) / 0x100
  let q := (off - 0x10100) / 8
  if fs.isEmpty then s
  else if off = 0x20000 then (if has 0 then s.adminEn (bit new 0) else s)
  else if (match tenWindow off with | some (_, w) => w == 0 | none => false) then (if has 0 then s.tenEn ((off - 0x31000) / 0x200) (bit new 0) else s)
  else if off = 0x60010 then (if has 0 then s.bypCtrl (bit new 0) else s)
  else if off = 0x60020 then (put s).pavCtrl
  else if 0x61000 ≤ off ∧ off < 0x62000 ∧ off % 0x100 = 0 then
    let s1 := (s.setField off 1 1 (new / 2)).portEn p (bit new 0)
    if has 2 ∧ bit val 2 then s1.portRetrain p else s1
  else if 0x10100 ≤ off ∧ off < 0x10140 then
    let s1 := s.setField off 36 1 (bits new 36 1)
    if has 0 then s1.qclkReq q (bits new 0 8) else s1
  else if 0x81000 ≤ off ∧ off < 0x99000 ∧ (off - 0x81000) % 0x200 = 0x180 then
    (if bit (s.reg off).toNat 24 ∧ !bit new 24 then (put s).poolLimit else put s)
  else if off = 0xE0000 then (List.range 16).foldl State.releaseHeld (put s).injEvents
  else if 0xE0100 ≤ off ∧ off < 0xE0300 then
    let k := (off - 0xE0100) / 0x20
    let s1 := put s
    let x := s1.port k
    let s2 := if off % 0x20 = 0 ∧ has 0 then s1.setPort k { x with dropCnt := 0 }
      else if off % 0x20 = 8 ∧ has 0 then s1.setPort k { x with flipCnt := 0 } else s1
    s2.injEvents
  else put s

/-- Carry out a write of fields with their bits in `val` (R16, R17, R616). -/
def State.regApply (s : State) (off val : Nat) (fs : List RField) : State :=
  let wr := fs.filter (fun f => f.acc != .ro)
  if wr.isEmpty then s
  else if s.refuses off then s.lockViolation off
  else if s.ignores off then s
  else
    let lk := s.locked off && wr.any (fun f => f.acc == .rwl)
    let live := wr.filter (fun f => !(s.locked off) || f.acc != .rwl)
    let new := live.foldl (fun v f => match f.acc with
      | .rw | .rwl => (setBits (BitVec.ofNat 64 v) f.lo f.len (bits val f.lo f.len)).toNat
      | .rw1c => (setBits (BitVec.ofNat 64 v) f.lo f.len (bits v f.lo f.len - (bits v f.lo f.len &&& bits val f.lo f.len))).toNat
      | _ => v) (s.reg off).toNat
    let s1 := s.regEffect off (clampReg off new) val live
    if lk then s1.lockViolation off else s1

/-- Write 4 or 8 bytes at an aligned offset (R611): a field over both halves changes with its upper half. -/
def State.regWrite (s : State) (req off n val : Nat) : State :=
  let o := off / 8 * 8
  let s0 := s.unlatch req off
  let k := 2 ^ 24 * req + o
  let fs := regFields o
  if n = 8 then ({ s0 with halfWr := SMap.erase s0.halfWr k } : State).regApply o (val % 2 ^ 64) fs
  else if off % 8 = 0 then
    ({ s0 with halfWr := SMap.set s0.halfWr k (val % 2 ^ 32) } : State).regApply o (val % 2 ^ 32) (fs.filter (fun f => decide (f.lo + f.len ≤ 32)))
  else
    let low := SMap.get s0.halfWr k ((s0.reg o).toNat % 2 ^ 32)
    ({ s0 with halfWr := SMap.erase s0.halfWr k } : State).regApply o (low + 2 ^ 32 * (val % 2 ^ 32)) (fs.filter (fun f => decide (32 < f.lo + f.len)))

/-! ### Accesses -/

/-- A width and alignment that BAR0 takes (R431). -/
def barOk (off n : Nat) : Bool := decide ((n = 4 ∨ n = 8) ∧ off % n = 0 ∧ off + n ≤ 2 ^ 24)

/-- Registers can be reached by a requester: BAR0 is served (R595). -/
def State.barUp (s : State) : Bool := s.boot.bar0 && !s.inReset

/-- A write by a requester; any other access than R431 names is an Unsupported Request on the link. -/
def State.access (s : State) (req off n val : Nat) : Host.Outcome State Fault Refusal :=
  if !s.barUp then .next s
  else if !barOk off n then .next (if req = 0 then s.emit (.unsupported off n) else s)
  else .next (s.regWrite req off n val)

/-- A read by a requester, answered with its value. -/
def State.accessRd (s : State) (req off n : Nat) : Host.Outcome State Fault Refusal :=
  if !s.barUp then .next s
  else if !barOk off n then .next (if req = 0 then s.emit (.unsupported off n) else s)
  else
    let (v, s1) := s.regRead req off n
    .next (s1.emit (.regData req off n v))

/-- REGISTER_WRITE (R16, R610, R611): a write of any register by the host link (0), REG_ACCESS (1) or management (2). -/
def execRegisterWrite (req : Fin 3) (off n val : Nat) (s : State) : Host.Outcome State Fault Refusal := s.access req off n val

/-- RW1C_WRITE (R16, R18): ones clear bits of a status field. -/
def execRw1cWrite (req : Fin 3) (off val : Nat) (s : State) : Host.Outcome State Fault Refusal :=
  if (regFields off).any (fun f => f.acc == .rw1c) then s.access req off 8 val else .next s

/-- LOCK_SET (R615): LOCK of block PWR, FAB, QDR, SRV or RAS goes to 1; the block's other fields keep their values. -/
def execLockSet (req : Fin 3) (block : Fin 5) (s : State) : Host.Outcome State Fault Refusal :=
  let off := [bPWR, bFAB, bQDR, bSRV, bRAS].getD block bPWR
  s.access req off 8 ((s.reg off).toNat ||| 1)

/-- TEN_CTRL_EN_WRITE (R438, R621). -/
def execTenCtrlEnWrite (req : Fin 3) (t : Fin 64) (v : Bool) (s : State) : Host.Outcome State Fault Refusal :=
  s.access req (tenOff t 0) 8 (toNatB v 0)

/-- FAB_BYP_CTRL_WRITE (R408). -/
def execFabBypCtrlWrite (req : Fin 3) (v : Bool) (s : State) : Host.Outcome State Fault Refusal := s.access req 0x60010 8 (toNatB v 0)

/-- FAB_PORT_EN_WRITE (R384, R399, R427): EN and ENC of a port. -/
def execFabPortEnWrite (req : Fin 3) (p : PortId) (en enc : Bool) (s : State) : Host.Outcome State Fault Refusal :=
  s.access req (portOff p.toNat 0) 8 (toNatB en 0 + toNatB enc 1)

/-- FAB_PORT_RETRAIN (R427): RETRAIN is written with 1, EN and ENC with the values they have. -/
def execFabPortRetrain (req : Fin 3) (p : PortId) (s : State) : Host.Outcome State Fault Refusal :=
  s.access req (portOff p.toNat 0) 8 (s.getField (portOff p.toNat 0) 0 2 + 4)

/-- ENG_STORE_CTRL_EN_WRITE (R291, R497, R500): EN and CE_LIMIT of an engine. -/
def execEngStoreCtrlEnWrite (req : Fin 3) (e : EngId) (en : Bool) (ceLimit : BitVec 8) (s : State) : Host.Outcome State Fault Refusal :=
  s.access req (engOff e oSTORE_CTRL) 8 (2 ^ 16 * ceLimit.toNat + toNatB en 24)

/-- PWR_QCLK_REQ_WRITE (R2, R567, R586). -/
def execPwrQclkReqWrite (req : Fin 3) (q : QuadId) (val : BitVec 8) (s : State) : Host.Outcome State Fault Refusal :=
  s.access req (qclkOff q) 8 val.toNat

/-- TLM_FREEZE_WRITE (R627). -/
def execTlmFreezeWrite (req : Fin 3) (v : Bool) (s : State) : Host.Outcome State Fault Refusal := s.access req 0xD0000 8 (toNatB v 0)

/-- TST_INJ_ENABLE_WRITE (R423, R629, R630). -/
def execTstInjEnableWrite (req : Fin 3) (v : Bool) (s : State) : Host.Outcome State Fault Refusal := s.access req 0xE0000 8 (toNatB v 0)

/-- TST_INJ_DROP_WRITE (R424, R630). -/
def execTstInjDropWrite (req : Fin 3) (p : PortId) (n : BitVec 24) (s : State) : Host.Outcome State Fault Refusal :=
  s.access req (injOff p.toNat 0) 8 n.toNat

/-- TST_INJ_FLIP_WRITE (R424, R630): N, BYTE and MASK. -/
def execTstInjFlipWrite (req : Fin 3) (p : PortId) (n : BitVec 24) (byte mask : BitVec 8) (s : State) : Host.Outcome State Fault Refusal :=
  s.access req (injOff p.toNat 8) 8 (n.toNat + 2 ^ 24 * byte.toNat + 2 ^ 32 * mask.toNat)

/-- TST_INJ_REORDER_WRITE (R424, R630). -/
def execTstInjReorderWrite (req : Fin 3) (p : PortId) (w : BitVec 6) (s : State) : Host.Outcome State Fault Refusal :=
  s.access req (injOff p.toNat 0x10) 8 w.toNat

/-- MEM_ERRLOG_READ (R332, R612). -/
def execMemErrlogRead (req : Fin 3) (s : State) : Host.Outcome State Fault Refusal := s.accessRd req 0x48008 8

/-- LOCKV_READ (R616): the lock-violation register of one of the twelve blocks. -/
def execLockvRead (req : Fin 3) (block : Fin 12) (s : State) : Host.Outcome State Fault Refusal :=
  s.accessRd req ([0xFFF8, 0x1FFF8, 0x2FFF8, 0x3FFF8, 0x5FFF8, 0x7FFF8, 0x9FFF8, 0xAFFF8, 0xBFFF8, 0xCFFF8, 0xDFFF8, 0xFFFF8].getD block 0xFFF8) 8

/-- PWR_STATUS_READ (R586, R612). -/
def execPwrStatusRead (req : Fin 3) (s : State) : Host.Outcome State Fault Refusal := s.accessRd req rPWR_STATUS 8

/-- SRV_TC0_WORST_READ (R511, R612). -/
def execSrvTc0WorstRead (req : Fin 3) (s : State) : Host.Outcome State Fault Refusal := s.accessRd req 0xB0060 8

/-- HALF_READ_LATCH (R611): a 4-byte read of either half of any register. -/
def execHalfReadLatch (req : Fin 3) (off : Nat) (s : State) : Host.Outcome State Fault Refusal := s.accessRd req off 4

/-- REG_ACCESS (R463, R465): a register of the member is read or written; the value read is the result. -/
def execRegAccess (s : State) : Host.Outcome State Fault Refusal :=
  .next (s.admin 0x56 false [(0x08, 5), (0x10, 8)] (fun s d =>
    let off := field d.bytes 8 4
    let op := field d.bytes 0x0C 1
    if 1 < op ∨ !barOk off 8 then .bad s
    else if op = 0 then let (v, s1) := s.regRead 1 off 8; .ok s1 v
    else .ok (s.regWrite 1 off 8 (field d.bytes 0x10 8))))

/-- TENANT_ENABLE_EFFECT (R436, R621): an enable that waited takes effect once the earlier disable has removed the tenant's resources; a
member takes over what its head has copied. -/
def execTenantEnableEffect (t : Fin 64) (s : State) : Host.Outcome State Fault Refusal :=
  match s.takeMsg (fun m => m.isMgmt 0xF4 && decide (field m.body 1 1 = t.val)) with
  | some (m, s1) =>
    let s2 := (List.range 32).foldl (fun s i => s.setReg (tenOff t (0x100 + 8 * i)) (BitVec.ofNat 64 (field m.body (8 + 8 * i) 8))) s1
    let en := decide (field m.body 2 1 = 1)
    .next (if en = s2.tenantEnabled t then s2
      else if !en then s2.tenDisable t
      else if (SMap.find? s2.tenGone t).isSome then { s2 with tenWant := if s2.tenWant.contains t.val then s2.tenWant else s2.tenWant ++ [t.val] }
      else s2.tenEnable t)
  | none => .next (if s.tenWant.contains t.val && (SMap.find? s.tenGone t).isNone then s.tenEnable t else s)

end Sys2Proof.Machine
end

