-- ==== Sys2Proof/Machine/Br.lean ====
section
/-! DEFINITION. The BR slot: branches, loops and scalar arithmetic (R204 to R206). -/

namespace Sys2Proof.Machine

/-- A branch target: the bundle's own index plus the signed offset; outside the code it faults (R205). -/
def Engine.takeBranch (en : Engine) (hdr : Hdr) (off : Nat) : Except Nat Engine :=
  let t := (en.core.pc : Int) + toInt 24 off
  if t < 0 ∨ (hdr.bundles : Int) ≤ t then .error fkCONTROL
  else .ok (en.setCore { en.core with branch := en.core.branch ++ [(t.toNat, 2)] })

/-- BRC's conditions (R204). -/
def brCond (c : Nat) (v : W64) : Bool :=
  if c = 0 then decide (v = 0) else if c = 1 then decide (v ≠ 0) else if c = 2 then decide (v.toInt < 0) else decide (0 ≤ v.toInt)

/-- Conditional branch; only a branch that is taken needs a target inside the code. -/
def opBrc (w : W64) (s : State) (en : Engine) : Except Nat Engine := do
  need (onlySpans w false [(9, 2), (11, 5), (16, 24)]) fkENCODING
  if brCond (fld w 9 2) (en.core.sw (fld w 11 5)) then en.takeBranch (s.item en.item).hdr (fld w 16 24) else .ok en

/-- Branch always. -/
def opJmp (w : W64) (s : State) (en : Engine) : Except Nat Engine := do
  need (onlySpans w false [(16, 24)]) fkENCODING
  en.takeBranch (s.item en.item).hdr (fld w 16 24)

/-- Loop over the next BODY bundles; a count of 0 skips the body (R122, R206). -/
def opLoop (w : W64) (s : State) (en : Engine) : Except Nat Engine := do
  need (onlySpans w false [(11, 5), (16, 16)]) fkENCODING
  let body := fld w 16 16
  need (decide (body ≠ 0)) fkENCODING
  let c := en.core
  let last := c.pc + body
  need (decide (last < (s.item en.item).hdr.bundles)) fkCONTROL
  let n := c.s (fld w 11 5) % 2 ^ 32
  if n = 0 then .ok (en.setCore { c with skip := body })
  else
    need (decide (c.loops.length < 4)) fkCONTROL
    .ok (en.setCore { c with loops := ⟨c.pc + 1, last, n - 1⟩ :: c.loops })

/-- A scalar operation on S[SA] and S[SB] or the sign-extended immediate (R204). -/
def opScalar (f : W64 → W64 → W64) (w : W64) (_ : State) (en : Engine) : Except Nat Engine := do
  need (onlySpans w false [(9, 5), (14, 5), (19, 5), (24, 1), (25, 32)]) fkENCODING
  let i := flag w 24
  need (!i || decide (fld w 19 5 = 0)) fkENCODING
  let b : W64 := if i then BitVec.ofInt 64 (toInt 32 (fld w 25 32)) else en.core.sw (fld w 19 5)
  .ok (en.put 1 6 (.scal (fld w 9 5) (f (en.core.sw (fld w 14 5)) b)))

/-- Load the sign-extended immediate. -/
def opSli (w : W64) (_ : State) (en : Engine) : Except Nat Engine := do
  need (onlySpans w false [(9, 5), (25, 32)]) fkENCODING
  .ok (en.put 1 6 (.scal (fld w 9 5) (BitVec.ofInt 64 (toInt 32 (fld w 25 32)))))

/-- Load the immediate into the upper half. -/
def opSlih (w : W64) (_ : State) (en : Engine) : Except Nat Engine := do
  need (onlySpans w false [(9, 5), (25, 32)]) fkENCODING
  .ok (en.put 1 6 (.scal (fld w 9 5) (BitVec.ofNat 64 (en.core.s (fld w 9 5) % 2 ^ 32 + 2 ^ 32 * fld w 25 32))))

def execBrc (e : EngId) (w : W64) (s : State) : Host.Outcome State Fault Refusal := .next (s.issueSlot e (.brc e w) w (opBrc w))
def execJmp (e : EngId) (w : W64) (s : State) : Host.Outcome State Fault Refusal := .next (s.issueSlot e (.jmp e w) w (opJmp w))
def execLoop (e : EngId) (w : W64) (s : State) : Host.Outcome State Fault Refusal := .next (s.issueSlot e (.loop e w) w (opLoop w))
def execSadd (e : EngId) (w : W64) (s : State) : Host.Outcome State Fault Refusal :=
  .next (s.issueSlot e (.sadd e w) w (opScalar (fun a b => a + b) w))
def execSsub (e : EngId) (w : W64) (s : State) : Host.Outcome State Fault Refusal :=
  .next (s.issueSlot e (.ssub e w) w (opScalar (fun a b => a - b) w))
def execSand (e : EngId) (w : W64) (s : State) : Host.Outcome State Fault Refusal :=
  .next (s.issueSlot e (.sand e w) w (opScalar (fun a b => a &&& b) w))
def execSor (e : EngId) (w : W64) (s : State) : Host.Outcome State Fault Refusal :=
  .next (s.issueSlot e (.sor e w) w (opScalar (fun a b => a ||| b) w))
def execSxor (e : EngId) (w : W64) (s : State) : Host.Outcome State Fault Refusal :=
  .next (s.issueSlot e (.sxor e w) w (opScalar (fun a b => a ^^^ b) w))
def execSshl (e : EngId) (w : W64) (s : State) : Host.Outcome State Fault Refusal :=
  .next (s.issueSlot e (.sshl e w) w (opScalar (fun a b => a <<< (b.toNat % 64)) w))
def execSshr (e : EngId) (w : W64) (s : State) : Host.Outcome State Fault Refusal :=
  .next (s.issueSlot e (.sshr e w) w (opScalar (fun a b => a >>> (b.toNat % 64)) w))
def execSsra (e : EngId) (w : W64) (s : State) : Host.Outcome State Fault Refusal :=
  .next (s.issueSlot e (.ssra e w) w (opScalar (fun a b => a.sshiftRight (b.toNat % 64)) w))
def execSmin (e : EngId) (w : W64) (s : State) : Host.Outcome State Fault Refusal :=
  .next (s.issueSlot e (.smin e w) w (opScalar (fun a b => if b.toInt < a.toInt then b else a) w))
def execSmax (e : EngId) (w : W64) (s : State) : Host.Outcome State Fault Refusal :=
  .next (s.issueSlot e (.smax e w) w (opScalar (fun a b => if a.toInt < b.toInt then b else a) w))
def execSlt (e : EngId) (w : W64) (s : State) : Host.Outcome State Fault Refusal :=
  .next (s.issueSlot e (.slt e w) w (opScalar (fun a b => if a.toInt < b.toInt then 1 else 0) w))
def execSltu (e : EngId) (w : W64) (s : State) : Host.Outcome State Fault Refusal :=
  .next (s.issueSlot e (.sltu e w) w (opScalar (fun a b => if a.toNat < b.toNat then 1 else 0) w))
def execSli (e : EngId) (w : W64) (s : State) : Host.Outcome State Fault Refusal := .next (s.issueSlot e (.sli e w) w (opSli w))
def execSlih (e : EngId) (w : W64) (s : State) : Host.Outcome State Fault Refusal := .next (s.issueSlot e (.slih e w) w (opSlih w))

end Sys2Proof.Machine
end

