-- ==== Sys2Proof/Machine/Trit.lean ====
section
/-! DEFINITION. The TB slot and the two LA slots: building table sets, and looking up, adding and weighting into chains
(02; R165 to R175). -/

namespace Sys2Proof.Machine

/-! ### Weight codes -/

/-- Trit `j` of a radix-3 byte (R43). -/
def tritOf (b j : Nat) : Int :=
  -- balanced digits of b - 121: those of the plain base-3 number b, each less one
  ((b / 3 ^ j % 3 : Nat) : Int) - 1

/-- The pairs of R44 in order. -/
def pairOf (k : Nat) : Nat × Nat :=
  [(0, 1), (0, 2), (0, 3), (0, 4), (1, 2), (1, 3), (1, 4), (2, 3), (2, 4), (3, 4)].getD k (0, 0)

/-- Trit `j` of a 2:5 code (R44). -/
def tritOf25 (c j : Nat) : Int :=
  if c = 0 then 0
  else if c ≤ 10 then (if (c - 1) / 2 = j then (if (c - 1) % 2 = 1 then -1 else 1) else 0)
  else
    let m := c - 11
    let (p, q) := pairOf (m / 4)
    if p = j then (if m / 2 % 2 = 1 then -1 else 1) else if q = j then (if m % 2 = 1 then -1 else 1) else 0

/-! ### Tables -/

/-- Entry `i` of a dense table (R46): the balanced digits of `i` against five activations. -/
def denseEntry (x : List Int) (i : Nat) : Int :=
  ((List.range 5).map (fun j => tritOf (i + 121) j * x.getD j 0)).sum

/-- Entry `n` of a 2:5 table (R48). -/
def entry25 (x : List Int) (n : Nat) : Int :=
  if n = 0 then 0
  else if n ≤ 5 then x.getD (n - 1) 0
  else
    let (p, q) := pairOf ((n - 6) / 2)
    if n % 2 = 0 then x.getD p 0 + x.getD q 0 else x.getD p 0 - x.getD q 0

/-- U[p] of a bit-plane table (R64). -/
def planeSum (x : List Int) (p : Nat) : Int :=
  ((List.range 8).map (fun j => (if p.testBit j then 1 else -1) * x.getD j 0)).sum

inductive TKind where
  | dense
  | two5
  | plane
  deriving DecidableEq, Repr

def TKind.slot : TKind → Nat
  | .two5 => 64
  | _ => 256
def TKind.elems : TKind → Nat
  | .plane => 8
  | _ => 5
def TKind.setBytes : TKind → Nat
  | .two5 => 512
  | _ => 2048

/-- The bytes of one table slot (R46, R48, R64). -/
def tableBytes (k : TKind) (x : List Int) : Bytes :=
  let es := match k with
    | .dense => (List.range 122).map (denseEntry x)
    | .two5 => (List.range 26).map (entry25 x)
    | .plane => (List.range 128).map (fun n => planeSum x (128 + n))
  padTo k.slot (es.flatMap (fun v => leBytes 2 (ofInt 16 v)))

/-- Address of a set: handle base and set offset, low bits dropped (R164). -/
def setAddr (k : TKind) (base sofs : Nat) : Nat := (base * 64 + sofs * k.setBytes) / k.setBytes * k.setBytes

/-- One element of an activation row (R167). -/
def actByte (fmt base k : Nat) : Nat := if fmt = fI4 then base + k / 2 else base + k
def actVal (fmt k b : Nat) : Int := if fmt = fI4 then toInt 4 (if k % 2 = 0 then b % 16 else b / 16) else toInt 8 b

/-- Which elements of a group a TB operation reads (R55, R167): below K, on the selected side of a boundary. -/
def readsElem (k0 kk bsplit k : Nat) : Bool :=
  let b := 32 * ((k0 + 4) / 32)
  decide (k < kk) && !(decide (k0 < b) && ((decide (bsplit = 1) && decide (b ≤ k)) || (decide (bsplit = 2) && decide (k < b))))

/-- A write cycle extends the lookups in progress (R50). -/
def Core.addWrite (c : Core) (wc : Nat) : Core :=
  let ext := fun (c : Core) (h : Nat) =>
    if wc < SMap.get c.occ h 0 then { c with occ := SMap.set c.occ h (SMap.get c.occ h 0 + 1) } else c
  let c1 := ext (ext c 1) 2
  { c1 with writes := c1.writes.filter (fun w => decide (c.pos ≤ w)) ++ [wc] }

/-- Read the activations of the eight positions (R167): per position the values, or a fault; then whether some row had
another tag. -/
def Engine.readActs (free : Nat) (fmt pm k0 kk st bsplit n need_ a : Nat) :
    List Nat → Engine → Except Nat (List (List Int) × Bool × Engine)
  | [], e => .ok ([], false, e)
  | p :: t, e => do
    let base := (a + p * st) % 2 ^ 32
    let ks := if e.core.pm pm p then (List.range n).filter (fun i => readsElem k0 kk bsplit (k0 + i)) else []
    if ks.any (fun i => decide (need_ ≤ actByte fmt base (k0 + i))) then .error fkSTORE_RANGE
    else
      let rows := ks.map (fun i => actByte fmt base (k0 + i) / 256)
      let bad := rows.any (fun r => e.core.loam.tag r != fmt)
      let lo := match ks.head? with | some i => actByte fmt base (k0 + i) | none => 0
      let hi := match ks.getLast? with | some i => actByte fmt base (k0 + i) + 1 | none => lo
      let (bs, _, e1) := if bad || ks.isEmpty then ([], 0, e) else e.rd free 0 .loam lo (hi - lo)
      let xs := (List.range n).map (fun i =>
        if ks.contains i then actVal fmt (k0 + i) (bs.getD (actByte fmt base (k0 + i) - lo) 0).toNat else 0)
      let (r, bad2, e2) ← Engine.readActs free fmt pm k0 kk st bsplit n need_ a t e1
      .ok (xs :: r, bad || bad2, e2)

/-- Build a table set (R46 to R50, R64 to R68, R165 to R168). An MSRC that no member of the group has faults GROUP_OP (log 140). -/
def opTB (k : TKind) (w : W64) (s : State) (en : Engine) : Except Nat Engine := do
  let it := s.item en.item
  let fmt := fld w 39 4
  let bsplit := fld w 43 2
  let mc := flag w 45
  let msrc := fld w 46 5
  need (onlySpans w true [(9, 4), (13, 7), (20, 4), (24, 5), (29, 5), (34, 5), (39, 4), (43, 2), (45, 1), (46, 5)]) fkENCODING
  need (if k = .plane then decide (fmt = fI8 ∧ bsplit = 0) else (decide (fmt = fI8) || decide (fmt = fI4)) && decide (bsplit ≠ 3)) fkENCODING
  need (mc || decide (msrc = 0)) fkENCODING
  need (!mc || (decide (2 ≤ it.hdr.group) && decide (msrc < it.hdr.group))) fkGROUP_OP
  let c := en.core
  let base := setAddr k (c.t (fld w 9 4)) (fld w 13 7)
  need (decide (base + k.setBytes ≤ it.hdr.tNeed)) fkSTORE_RANGE
  let en1 := (en.noteAcc 3 0 true .table base k.setBytes).setCore { (c.addWrite (c.pos + 3)) with mcast := if mc then some (slotOf (.tbD 0 0) + (if k = .dense then 1 else if k = .two5 then 2 else 3), msrc, base) else none }
  if mc ∧ en.logical % it.hdr.group ≠ msrc then .ok en1
  else
    let (sc, a, c2) := en1.core.useAg (fld w 20 4)
    need (decide (sc = 0)) fkSTORE_RANGE
    let en2 := en1.setCore c2
    let k0 := c.s (fld w 24 5)
    let (xs, bad, en3) ← Engine.readActs s.freeCtr fmt (fld w 6 3) k0 (c.s (fld w 29 5)) (c.s (fld w 34 5)) bsplit k.elems
      it.hdr.lNeed a (List.range 8) en2
    if bad then .ok (en3.stageIt mismatch)
    else
      let b := xs.zipIdx.flatMap (fun (x, n) => if c.pm (fld w 6 3) n then tableBytes k x else List.replicate k.slot 0)
      if mc then .ok (en3.stageIt [.mset base b (c.pos + 4)]) else .ok (en3.put 4 0 (.set base b))

def execTbD (e : EngId) (w : W64) (s : State) : Host.Outcome State Fault Refusal :=
  .next (s.issueSlot e (.tbD e w) w (opTB .dense w))
def execTbS (e : EngId) (w : W64) (s : State) : Host.Outcome State Fault Refusal :=
  .next (s.issueSlot e (.tbS e w) w (opTB .two5 w))
def execTbP (e : EngId) (w : W64) (s : State) : Host.Outcome State Fault Refusal :=
  .next (s.issueSlot e (.tbP e w) w (opTB .plane w))

/-! ### Lookup-accumulate -/

inductive LKind where
  | d
  | s
  | c
  | cs
  | p
  deriving DecidableEq, Repr

/-- Tile tag MODE of an LA operation (R169). -/
def LKind.mode : LKind → Nat
  | .d => 0
  | .s => 1
  | .c => 2
  | .cs => 2
  | .p => 3
/-- Operand bytes (R169). -/
def LKind.bytes : LKind → Nat
  | .d => 256
  | .s => 192
  | .c => 64
  | .cs => 64
  | .p => 256
/-- LAYOUT of a block it may read (R264). -/
def LKind.layout : LKind → Nat
  | .d => 0
  | .s => 1
  | .c => 2
  | .cs => 3
  | .p => 4
def LKind.align : LKind → Nat
  | .d => 256
  | .p => 256
  | _ => 64
def LKind.tkind : LKind → TKind
  | .s => .two5
  | .p => .plane
  | _ => .dense

/-- The first cycle at or after `p` that is not a write cycle (R173). -/
def readCycle (writes : List Nat) : Nat → Nat → Nat
  | 0, p => p
  | n + 1, p => if writes.contains p then readCycle writes n (p + 1) else p

/-- End of an occupancy of two cycles extended by the write cycles it overlaps (R50). -/
def laEnd (p : Nat) : List Nat → Nat → Nat
  | [], e => e
  | w :: t, e => laEnd p t (if p ≤ w ∧ w < e then e + 1 else e)

/-- The table file as an LA that reads in cycle `r` sees it: sets written before `r`, and stores whose latency has passed by `r` (R50,
R120, R173). -/
def tableView (c : Core) (r : Nat) : Memory :=
  c.pend.foldl (fun m p => match p.res with
    | .set b bs => if p.due ≤ r then Memory.writeN m b bs else m
    | _ => m) (c.viewAt .table r).data

/-- A signed 16-bit table entry. -/
def tEntry (m : Memory) (base slot n i : Nat) : Int := toInt 16 (leNat (Memory.readN m (base + slot * n + 2 * i) 2))

/-- What a lane does for one row's code in a table mode: an invalid code, a zero code, or an entry with a sign. -/
inductive Lane where
  | invalid
  | zero
  | entry (i : Nat) (neg : Bool)
  deriving DecidableEq, Repr

/-- Dense table mode (R51, R53, R54). -/
def laneD (b : Option Nat) : Lane :=
  match b with
  | none => .invalid
  | some b => if 242 < b then .invalid else if b = 121 then .zero else if 121 < b then .entry (b - 121) false else .entry (121 - b) true

/-- 2:5 table mode (R52 to R54). -/
def laneS (c : Option Nat) : Lane :=
  match c with
  | none => .invalid
  | some c =>
    if 50 < c then .invalid
    else if c = 0 then .zero
    else if c ≤ 10 then .entry (1 + (c - 1) / 2) (decide ((c - 1) % 2 = 1))
    else
      let m := c - 11
      .entry (6 + 2 * (m / 4) + ((m / 2 % 2) ^^^ (m % 2))) (decide (m / 2 % 2 = 1))

/-- Bit-plane mode (R66). -/
def laneP (b : Nat) : Lane := if 128 ≤ b then .entry (b - 128) false else .entry (127 - b) true

/-- The trit of a row in a column word, or none for an invalid code (R57, R58). -/
def colTrit (cs : Bool) (b : Nat → Option Nat) (r : Nat) : Option Int :=
  if cs then
    let q := 3 * (r / 5 / 4)
    match b q, b (q + 1), b (q + 2) with
    | some x, some y, some z =>
      let c := bits (x + 256 * y + 65536 * z) (6 * (r / 5 % 4)) 6
      if 50 < c ∨ (r = 255 ∧ 2 < c) then none else some (tritOf25 c (r % 5))
    | _, _, _ => none
  else match b (r / 5) with
    | none => none
    | some x => if 242 < x ∨ (r = 255 ∧ ¬ (120 ≤ x ∧ x ≤ 122)) then none else some (tritOf x (r % 5))

/-- Six-bit code of a row in a 192-B operand; none where a byte of its quartet is flagged (R45). -/
def code25 (b : Nat → Option Nat) (r : Nat) : Option Nat :=
  let q := 3 * (r / 4)
  match b q, b (q + 1), b (q + 2) with
  | some x, some y, some z => some (bits (x + 256 * y + 65536 * z) (6 * (r % 4)) 6)
  | _, _, _ => none

/-- The lanes of a table-mode operation, row by row. -/
def lanesOf (k : LKind) (b : Nat → Option Nat) : List Lane :=
  (List.range 256).map (fun r => match k with
    | .s => laneS (code25 b r)
    | .p => laneP ((b r).getD 0)
    | _ => laneD (b r))

/-- Lane results for chains in key order 256·position + row. -/
def tableDeltas (m : Memory) (base slot : Nat) (wi : Int) (ofs : Bool) (ls : List Lane) : List (Option Int) :=
  (List.range 8).flatMap (fun n =>
    let off := if ofs then tEntry m base slot n 127 else 0
    ls.map (fun l => match l with
      | .entry i neg => let v := tEntry m base slot n i; some (wi * (if neg then -v else v) - off)
      | _ => none))

def colDeltas (vs : List Int) (ts : List (Option Int)) : List (Option Int) :=
  (List.range 8).flatMap (fun n => ts.map (fun t => match t with
    | some 1 => if vs.getD n 0 = 0 then none else some (vs.getD n 0)
    | some (-1) => if vs.getD n 0 = 0 then none else some (-(vs.getD n 0))
    | _ => none))

/-- The operand of an LA (R171, R263, R264): its bytes (none flagged invalid), its mark, and the engine; or an access not
carried out. -/
def Engine.laOperand (en : Engine) (s : State) (k : LKind) (slot : Nat) (w : W64) (tile : Nat) :
    Except Nat (Option ((Nat → Option Nat) × Nat) × Engine) := do
  let hdr := (s.item en.item).hdr
  if !flag w 26 then
    let (sc, a0, c) := en.core.useAg (fld w 22 4)
    let a := a0 / k.align * k.align
    need (decide (sc = 1)) fkSTORE_RANGE
    need (decide (a + k.bytes ≤ hdr.kNeed)) fkSTORE_RANGE
    let (b, m, en1) := (en.setCore c).rd s.freeCtr slot .kaolin a k.bytes
    .ok (some (fun i => some (b.getD i 0).toNat, m), en1)
  else
    let i := fld w 27 1
    let x := en.core.x i
    need (x.opened && decide (x.readyAt ≤ en.core.pos)) fkSTORE_RANGE
    if x.layout ≠ k.layout then .ok (none, en.stageIt mismatch)
    else
      need (decide (x.pos + k.bytes ≤ x.extent)) fkSTORE_RANGE
      let x1 := { x with pos := x.pos + k.bytes, tiles := if x.tiles.contains tile then x.tiles else x.tiles ++ [tile] }
      if x.failed then .ok (some (fun _ => none, x.mark), en.setCore (en.core.setX i x1))
      else
        let km := (en.core.viewAt .kaolin en.core.pos).dirty s.freeCtr
        let h := Memory.readN km x.base 512
        let rows := stoRows km h x.base x.raw x.pos k.bytes
        let en1 := en.rdExp s.freeCtr (rows.filter (fun r => !x.rows.contains r))
        let m := en1.core.kaolin.maxMark rows
        .ok (some (fun j => decodedByte km h x.base x.raw (x.pos + j), m),
          en1.setCore (en1.core.setX i { x1 with rows := x1.rows ++ rows.filter (fun r => !x.rows.contains r) }))

/-- A parity error among the entries that the lanes read (R289). -/
def parityHit (c : Core) (free base : Nat) (slot : Nat) (ls : List Lane) (ofs : Bool) : Nat :=
  (c.table.errs.filter (fun kv => decide (base ≤ kv.1 * 8 ∧ kv.1 * 8 < base + 8 * slot)
    && decide (eccClass .table (popcount 64 kv.2) (free + kv.1) = 2)
    && ls.any (fun l => match l with
      | .entry i _ => decide ((kv.1 * 8 - base) % slot / 8 = 2 * i / 8) || (ofs && decide ((kv.1 * 8 - base) % slot / 8 = 31))
      | _ => false))).length

/-- Lookup-accumulate (R37 to R41, R51 to R60, R66 to R70, R169 to R175). -/
def opLA (k : LKind) (half : Nat) (w : W64) (s : State) (en : Engine) : Except Nat Engine := do
  let c := en.core
  let tile := fld w 9 2
  let col := decide (k = .c ∨ k = .cs)
  let fmt := fld w 29 4
  let slot := 1 + half
  let common := [(9, 2), (11, 4), (15, 7), (22, 4), (26, 1), (27, 1), (28, 1), (29, 4), (33, 1)]
  need (onlySpans w false (common ++ (if col then [(34, 6), (40, 5), (45, 5)] else if k = .p then [(34, 3), (37, 1), (38, 1)] else []))) fkENCODING
  need (if flag w 26 then decide (fld w 22 4 = 0) && decide (k ≠ .p) else !flag w 27) fkENCODING
  need (!col || decide (fld w 11 4 = 0 ∧ fld w 15 7 = 0)) fkENCODING
  need (decide (fmt = fI8) || (decide (fmt = fI4) && decide (k ≠ .p))) fkENCODING
  need (k ≠ .p || flag w 37 || decide (fld w 34 3 < 4)) fkENCODING
  need (en.unitFree slot) fkENCODING
  let other := 2 - half
  need (!(decide (c.pos < SMap.get c.occ other 0) && decide (SMap.get c.laTile other 4 = tile))) fkTILE_CONFLICT
  let base := if col then 0 else setAddr k.tkind (c.t (fld w 11 4)) (fld w 15 7)
  need (col || decide (base + k.tkind.setBytes ≤ (s.item en.item).hdr.tNeed)) fkSTORE_RANGE
  let endp := laEnd c.pos c.writes (c.pos + 2)
  let en1 := en.setCore { c with occ := SMap.set c.occ slot endp, laTile := SMap.set c.laTile slot tile }
  let tag := fmt + 16 * k.mode + (if flag w 33 then 64 else 0)
  if (c.tile tile).tag.toNat ≠ tag then .ok (en1.stageIt mismatch)
  else if col ∧ c.s (fld w 45 5) ≤ c.s (fld w 40 5) then
    .ok ((en1.setCore (en1.core.poisonTile tile 1)).stageIt [.status stDECODE_ERROR 0x2003, .event 0x2003 []])
  else
    let (op, en2) ← en1.laOperand s k slot w tile
    match op with
    | none => .ok en2
    | some (b, mark) =>
      let clr := flag w 28
      let r := readCycle c.writes 8 c.pos
      let m := tableView c r
      let en2 := if col then en2 else en2.noteAcc (r - c.pos) slot false .table base k.tkind.setBytes
      if col then
        let ts := (List.range 256).map (colTrit (decide (k = .cs)) b)
        let bad := ts.any Option.isNone
        let vs := (List.range 8).map (fun n => let v := (c.v (fld w 34 6) n).toNat; if fmt = fI4 then toInt 4 v else toInt 8 v)
        let ds := colDeltas vs ts
        let en3 := en2.setCore (en2.core.poisonTile tile (max mark (if bad then 1 else 0)))
        .ok (((en3.stageIt (if bad then [.status stDECODE_ERROR 0x2002, .event 0x2002 []] else [])).stageIt
          [.count oLOOKUPS (ds.filter Option.isSome).length]).put 6 slot (.la tile half clr ds))
      else
        let ls := lanesOf k b
        let bad := ls.any (fun l => decide (l = .invalid))
        let i := fld w 34 3
        let wi : Int := if k = .p then (if i = (if flag w 37 then 7 else 3) then -((2 ^ i : Nat) : Int) else ((2 ^ i : Nat) : Int)) else 1
        let ofs := decide (k = .p) && flag w 38
        let ds := tableDeltas m base k.tkind.slot wi ofs ls
        let par := parityHit c s.freeCtr base k.tkind.slot ls ofs
        let mk := max mark (max (if bad then 1 else 0) (if 0 < par then 3 else 0))
        let en3 := en2.setCore (en2.core.poisonTile tile mk)
        .ok (((en3.stageIt ((if bad then [.status stDECODE_ERROR 0x2002, .event 0x2002 []] else [])
            ++ (if par = 0 then [] else .status stDATA_POISON 0x3100 :: eccStaged .table 0 par))).stageIt
          [.count oLOOKUPS (ds.filter Option.isSome).length,
           .count oLOOKUP_SKIP (8 * (ls.filter (fun l => decide (l = .zero))).length)]).put 6 slot (.la tile half clr ds))

def execLaD (e : EngId) (half : Fin 2) (w : W64) (s : State) : Host.Outcome State Fault Refusal :=
  .next (s.issueSlot e (.laD e half w) w (opLA .d half.val w))
def execLaS (e : EngId) (half : Fin 2) (w : W64) (s : State) : Host.Outcome State Fault Refusal :=
  .next (s.issueSlot e (.laS e half w) w (opLA .s half.val w))
def execLaC (e : EngId) (half : Fin 2) (w : W64) (s : State) : Host.Outcome State Fault Refusal :=
  .next (s.issueSlot e (.laC e half w) w (opLA .c half.val w))
def execLaCs (e : EngId) (half : Fin 2) (w : W64) (s : State) : Host.Outcome State Fault Refusal :=
  .next (s.issueSlot e (.laCs e half w) w (opLA .cs half.val w))
def execLaP (e : EngId) (half : Fin 2) (w : W64) (s : State) : Host.Outcome State Fault Refusal :=
  .next (s.issueSlot e (.laP e half w) w (opLA .p half.val w))

end Sys2Proof.Machine
end

