-- ==== Sys2Proof/Machine/Vector.lean ====
section
/-! DEFINITION. The VX slot: integer, L16, conversion, reduction and move operations over vector registers (R176 to R180). -/

namespace Sys2Proof.Machine

/-- One element's result: value, an L16 underflow, an overflow condition of R226, an integer saturation (R231). -/
structure VRes where
  v : Nat
  under : Bool := false
  ovr : Bool := false
  sat : Bool := false
  deriving DecidableEq, Repr

/-- An L16 result; OVF from operands that are not OVF raises the overflow condition (R226). -/
def ofL (r : LRes) (inOvf : Bool) : VRes := ⟨r.code, r.under, decide (r.code = lOVF) && !inOvf, false⟩

/-- Saturate an integer to 32 bits. -/
def satI32 (v : Int) : Nat × Bool :=
  if 2147483647 < v then (2147483647, true) else if v < -2147483648 then (2147483648, true) else (ofInt 32 v, false)

/-- Conversion of one element (R82, R83, R99, R177, R209). -/
def cvtElem (sf df : Nat) (v : Nat) : VRes :=
  let src : FVal :=
    if sf = fI32 then .fin (Q.ofInt (toInt 32 v))
    else if sf = fL16 then (if lIsOvf v then .nan else .fin (lToQ v))
    else floatDecode sf v
  match src with
  | .nan =>
    if df = fI32 then (if sf = fL16 then ⟨2147483647, false, true, true⟩ else ⟨0, false, true, false⟩)
    else if df = fL16 then ⟨lOVF, false, decide (sf ≠ fL16), false⟩
    else ⟨nanCode df, false, decide (sf ≠ fL16), false⟩
  | .inf neg =>
    if df = fI32 then ⟨if neg then 2147483648 else 2147483647, false, true, true⟩
    else if df = fL16 then ⟨lOVF, false, true, false⟩
    else ⟨overflowCode df neg, false, true, false⟩
  | .fin q =>
    if df = fI32 then (let (r, o) := satI32 (Q.round .rne q); ⟨r, false, o, o⟩)
    else if df = fL16 then
      (if sf = fL16 then ⟨v % 65536, false, false, false⟩ else let r := lOfQ .rne q; ofL r false)
    else if q.n = 0 ∧ sf ≠ fI32 ∧ sf ≠ fL16 ∧ bit v (signBit sf) then ⟨2 ^ signBit df, false, false, false⟩
    else let (r, o) := floatEncode df .rne q; ⟨r, false, o, false⟩

/-- Apply an element function under the mask and leave the results in flight (R160, R116). -/
def Engine.vecResult (en : Engine) (lat vd : Nat) (pm : Nat) (f : Nat → VRes) : Engine :=
  let es := (List.range 64).filter (en.core.pm pm)
  let rs := es.map (fun e => (e, f e))
  let u := (rs.filter (fun p => p.2.under)).length
  let o := rs.any (fun p => p.2.ovr)
  let sat := rs.any (fun p => p.2.sat)
  (en.stageIt ((if u = 0 then [] else [.count oL16_UFL u]) ++ (if o then [.ovr 255] else [])
      ++ (if sat then [.event 0x1005 []] else []))).put lat 3
    (.vec vd (rs.map (fun p => (p.1, BitVec.ofNat 32 p.2.v))))

/-- A two-source element operation. -/
def opVV (lat : Nat) (f : Nat → Nat → VRes) (w : W64) (_ : State) (en : Engine) : Except Nat Engine := do
  need (onlySpans w true [(9, 6), (15, 6), (21, 6)]) fkENCODING
  let c := en.core
  .ok (en.vecResult lat (fld w 9 6) (fld w 6 3) (fun e => f (c.v (fld w 15 6) e).toNat (c.v (fld w 21 6) e).toNat))

/-- A one-source element operation. -/
def opV (lat : Nat) (f : Nat → VRes) (w : W64) (_ : State) (en : Engine) : Except Nat Engine := do
  need (onlySpans w true [(9, 6), (15, 6)]) fkENCODING
  let c := en.core
  .ok (en.vecResult lat (fld w 9 6) (fld w 6 3) (fun e => f (c.v (fld w 15 6) e).toNat))

def plain (n : Nat) : VRes := ⟨n % 2 ^ 32, false, false, false⟩
def iop (f : Int → Int → Int) (a b : Nat) : VRes := ⟨ofInt 32 (f (toInt 32 a) (toInt 32 b)), false, false, false⟩
def lop (f : Nat → Nat → LRes) (a b : Nat) : VRes :=
  let x := a % 65536; let y := b % 65536
  ofL (f x y) (lIsOvf x || lIsOvf y)
def lop1 (f : Nat → LRes) (a : Nat) : VRes := ofL (f (a % 65536)) (lIsOvf a)

/-- Shifts: by SH, or by bits [4:0] of VB's element (R176, R177). -/
def opShift (f : Nat → Nat → Nat) (w : W64) (_ : State) (en : Engine) : Except Nat Engine := do
  need (onlySpans w true [(9, 6), (15, 6), (21, 6), (27, 1), (28, 5)]) fkENCODING
  need (if flag w 27 then decide (fld w 21 6 = 0) else decide (fld w 28 5 = 0)) fkENCODING
  let c := en.core
  .ok (en.vecResult 3 (fld w 9 6) (fld w 6 3) (fun e =>
    plain (f (c.v (fld w 15 6) e).toNat (if flag w 27 then fld w 28 5 else (c.v (fld w 21 6) e).toNat % 32))))

/-- A comparison into a predicate; masked elements are written as 0 (R177). -/
def opCmp (f : Nat → Nat → Nat → Bool) (w : W64) (_ : State) (en : Engine) : Except Nat Engine := do
  need (onlySpans w true [(15, 6), (21, 6), (28, 3), (31, 3)]) fkENCODING
  need (decide (fld w 28 3 ≤ 5) && decide (fld w 31 3 ≠ 0)) fkENCODING
  let c := en.core
  let b := (List.range 64).foldl (fun acc e =>
    if c.pm (fld w 6 3) e && f (fld w 28 3) (c.v (fld w 15 6) e).toNat (c.v (fld w 21 6) e).toNat then acc + 2 ^ e else acc) 0
  .ok (en.put 3 3 (.pred (fld w 31 3) (BitVec.ofNat 64 b)))

/-- Select by the mask's bits over all elements (R176). -/
def opSel (w : W64) (_ : State) (en : Engine) : Except Nat Engine := do
  need (onlySpans w true [(9, 6), (15, 6), (21, 6)]) fkENCODING
  let c := en.core
  .ok (en.vecResult 3 (fld w 9 6) 0 (fun e =>
    plain (c.v (if c.pm (fld w 6 3) e then fld w 15 6 else fld w 21 6) e).toNat))

def cvtFmtOk (f : Nat) : Bool := [fI32, fBF16, fE4M3, fE5M2, fFP32, fL16].contains f

def opCvt (w : W64) (_ : State) (en : Engine) : Except Nat Engine := do
  need (onlySpans w true [(9, 6), (15, 6), (27, 4), (31, 4)]) fkENCODING
  let sf := fld w 27 4
  let df := fld w 31 4
  need (cvtFmtOk sf && cvtFmtOk df) fkENCODING
  let c := en.core
  .ok (en.vecResult 5 (fld w 9 6) (fld w 6 3) (fun e => cvtElem sf df ((c.v (fld w 15 6) e).toNat % 2 ^ fmtBits sf)))

/-- One level of a pairwise tree: neighbours meet, a last one without partner passes up (R179, R216). -/
def pairUp {α : Type} (f : α → α → α) : List α → List α
  | a :: b :: t => f a b :: pairUp f t
  | l => l

/-- `n` levels of a pairwise tree. -/
def treeLevels {α : Type} (f : α → α → α) : Nat → List α → List α
  | 0, l => l
  | n + 1, l => treeLevels f n (pairUp f l)

/-- Reductions write all 64 elements (R179). -/
def opReduce (lat : Nat) (isMax : Bool) (w : W64) (_ : State) (en : Engine) : Except Nat Engine := do
  need (onlySpans w true [(9, 6), (15, 6), (27, 4)]) fkENCODING
  let sf := fld w 27 4
  need (decide (sf = fI32) || decide (sf = fL16)) fkENCODING
  let c := en.core
  let val := fun e => (c.v (fld w 15 6) e).toNat % 2 ^ fmtBits sf
  let es := (List.range 64).filter (c.pm (fld w 6 3))
  let inOvf := decide (sf = fL16) && es.any (fun e => lIsOvf (val e))
  let r : VRes × Nat :=
    if isMax then
      (match es with
       | [] => (⟨if sf = fL16 then lZERO else 0, false, false, false⟩, 0)
       | e :: t => (plain (t.foldl (fun m x => if sf = fL16 then lMax m (val x)
           else if toInt 32 m < toInt 32 (val x) then val x else m) (val e)), 0))
    else
      let z : Nat := if sf = fL16 then lZERO else 0
      let lv : List (Nat × Nat) := (List.range 64).map (fun e => (if c.pm (fld w 6 3) e then val e else z, 0))
      -- a sum and the number of underflows on the way
      let add := fun (a b : Nat × Nat) => if sf = fL16
        then (let x := lAdd a.1 b.1; (x.code, a.2 + b.2 + (if x.under then 1 else 0)))
        else (ofInt 32 (toInt 32 a.1 + toInt 32 b.1), 0)
      let q := (treeLevels add 6 lv).headD (z, 0)
      (plain q.1, q.2)
  let res := r.1
  let res' : VRes := { res with ovr := decide (sf = fL16) && decide (res.v = lOVF) && !inOvf, under := false }
  .ok ((en.stageIt (if r.2 = 0 then [] else [.count oL16_UFL r.2])).vecResult lat (fld w 9 6) 0 (fun _ => res'))

def opMov (w : W64) (_ : State) (en : Engine) : Except Nat Engine := do
  need (onlySpans w true [(9, 6), (15, 6)]) fkENCODING
  let c := en.core
  .ok (en.vecResult 3 (fld w 9 6) (fld w 6 3) (fun e => plain (c.v (fld w 15 6) e).toNat))

def opBcast (w : W64) (_ : State) (en : Engine) : Except Nat Engine := do
  need (onlySpans w true [(9, 6), (15, 5)]) fkENCODING
  let c := en.core
  .ok (en.vecResult 3 (fld w 9 6) (fld w 6 3) (fun _ => plain (c.s (fld w 15 5))))

def opTos (w : W64) (_ : State) (en : Engine) : Except Nat Engine := do
  need (onlySpans w false [(9, 5), (15, 6), (21, 6)]) fkENCODING
  let c := en.core
  .ok (en.put 3 3 (.scal (fld w 9 5) ((c.v (fld w 15 6) (fld w 21 6)).signExtend 64)))

/-- Exchange within a lockstep group (R136, R180). -/
def opXchg (w : W64) (s : State) (en : Engine) : Except Nat Engine := do
  need (onlySpans w true [(9, 6), (15, 6), (27, 5)]) fkENCODING
  let it := s.item en.item
  let m := fld w 27 5
  need (decide (2 ≤ it.hdr.group) && decide (m < it.hdr.group)) fkGROUP_OP
  let p := it.engines.getD (en.logical / it.hdr.group * it.hdr.group + m) 0
  let c := (s.engine p).snap
  .ok (en.vecResult 3 (fld w 9 6) (fld w 6 3) (fun e => plain (c.v (fld w 15 6) e).toNat))

def opPlogic (w : W64) (_ : State) (en : Engine) : Except Nat Engine := do
  need (onlySpans w false [(31, 3), (34, 3), (37, 3), (40, 2)]) fkENCODING
  need (decide (fld w 31 3 ≠ 0)) fkENCODING
  let a := en.core.p (fld w 34 3)
  let b := en.core.p (fld w 37 3)
  let o := fld w 40 2
  .ok (en.put 3 3 (.pred (fld w 31 3) (if o = 0 then a &&& b else if o = 1 then a ||| b else if o = 2 then a ^^^ b else a &&& ~~~b)))

def opIota (w : W64) (_ : State) (en : Engine) : Except Nat Engine := do
  need (onlySpans w true [(9, 6)]) fkENCODING
  .ok (en.vecResult 3 (fld w 9 6) (fld w 6 3) plain)

def shra (a n : Nat) : Nat := ofInt 32 (toInt 32 a / ((2 ^ n : Nat) : Int))

/-- VX I32 addition modulo 2³² (R176). -/
def execIadd (e : EngId) (w : W64) (s : State) : Host.Outcome State Fault Refusal :=
  .next (s.issueSlot e (.iadd e w) w (opVV 3 (iop (fun a b => a + b)) w))
/-- VX I32 subtraction modulo 2³² (R176). -/
def execIsub (e : EngId) (w : W64) (s : State) : Host.Outcome State Fault Refusal :=
  .next (s.issueSlot e (.isub e w) w (opVV 3 (iop (fun a b => a - b)) w))
/-- VX signed minimum (R176). -/
def execImin (e : EngId) (w : W64) (s : State) : Host.Outcome State Fault Refusal :=
  .next (s.issueSlot e (.imin e w) w (opVV 3 (iop min) w))
/-- VX signed maximum (R176). -/
def execImax (e : EngId) (w : W64) (s : State) : Host.Outcome State Fault Refusal :=
  .next (s.issueSlot e (.imax e w) w (opVV 3 (iop max) w))
/-- VX bitwise and (R176). -/
def execVxAnd (e : EngId) (w : W64) (s : State) : Host.Outcome State Fault Refusal :=
  .next (s.issueSlot e (.vxAnd e w) w (opVV 3 (fun a b => plain (a &&& b)) w))
/-- VX bitwise or (R176). -/
def execVxOr (e : EngId) (w : W64) (s : State) : Host.Outcome State Fault Refusal :=
  .next (s.issueSlot e (.vxOr e w) w (opVV 3 (fun a b => plain (a ||| b)) w))
/-- VX bitwise exclusive or (R176). -/
def execVxXor (e : EngId) (w : W64) (s : State) : Host.Outcome State Fault Refusal :=
  .next (s.issueSlot e (.vxXor e w) w (opVV 3 (fun a b => plain (a ^^^ b)) w))
/-- VX shift left (R176). -/
def execShl (e : EngId) (w : W64) (s : State) : Host.Outcome State Fault Refusal :=
  .next (s.issueSlot e (.shl e w) w (opShift (fun a n => a * 2 ^ n) w))
/-- VX arithmetic shift right (R176). -/
def execShra (e : EngId) (w : W64) (s : State) : Host.Outcome State Fault Refusal :=
  .next (s.issueSlot e (.shra e w) w (opShift shra w))
/-- VX logical shift right (R176). -/
def execShrl (e : EngId) (w : W64) (s : State) : Host.Outcome State Fault Refusal :=
  .next (s.issueSlot e (.shrl e w) w (opShift (fun a n => a / 2 ^ n) w))
/-- VX signed compare (R176). -/
def execIcmp (e : EngId) (w : W64) (s : State) : Host.Outcome State Fault Refusal :=
  .next (s.issueSlot e (.icmp e w) w (opCmp (fun c a b => condHolds c (toInt 32 a) (toInt 32 b)) w))
/-- VX select (R176). -/
def execSel (e : EngId) (w : W64) (s : State) : Host.Outcome State Fault Refusal :=
  .next (s.issueSlot e (.sel e w) w (opSel w))
/-- VX L16 multiply (R176). -/
def execLmul (e : EngId) (w : W64) (s : State) : Host.Outcome State Fault Refusal :=
  .next (s.issueSlot e (.lmul e w) w (opVV 3 (lop lMul) w))
/-- VX L16 divide (R176). -/
def execLdiv (e : EngId) (w : W64) (s : State) : Host.Outcome State Fault Refusal :=
  .next (s.issueSlot e (.ldiv e w) w (opVV 3 (lop lDiv) w))
/-- VX L16 add (R176). -/
def execLadd (e : EngId) (w : W64) (s : State) : Host.Outcome State Fault Refusal :=
  .next (s.issueSlot e (.ladd e w) w (opVV 5 (lop lAdd) w))
/-- VX L16 subtract (R176). -/
def execLsub (e : EngId) (w : W64) (s : State) : Host.Outcome State Fault Refusal :=
  .next (s.issueSlot e (.lsub e w) w (opVV 5 (lop lSub) w))
/-- VX L16 square (R176). -/
def execLsqr (e : EngId) (w : W64) (s : State) : Host.Outcome State Fault Refusal :=
  .next (s.issueSlot e (.lsqr e w) w (opV 3 (lop1 lSqr) w))
/-- VX L16 square root (R176). -/
def execLsqrt (e : EngId) (w : W64) (s : State) : Host.Outcome State Fault Refusal :=
  .next (s.issueSlot e (.lsqrt e w) w (opV 3 (lop1 lSqrt) w))
/-- VX L16 power of two (R176). -/
def execLexp2 (e : EngId) (w : W64) (s : State) : Host.Outcome State Fault Refusal :=
  .next (s.issueSlot e (.lexp2 e w) w (opV 5 (lop1 lExp2) w))
/-- VX L16 logarithm (R176). -/
def execLlog2 (e : EngId) (w : W64) (s : State) : Host.Outcome State Fault Refusal :=
  .next (s.issueSlot e (.llog2 e w) w (opV 5 (lop1 lLog2) w))
/-- VX L16 compare by value (R176). -/
def execLcmp (e : EngId) (w : W64) (s : State) : Host.Outcome State Fault Refusal :=
  .next (s.issueSlot e (.lcmp e w) w (opCmp (fun c a b => lCmp c (a % 65536) (b % 65536)) w))
/-- VX L16 maximum (R176). -/
def execLmax (e : EngId) (w : W64) (s : State) : Host.Outcome State Fault Refusal :=
  .next (s.issueSlot e (.lmax e w) w (opVV 3 (fun a b => plain (lMax (a % 65536) (b % 65536))) w))
/-- VX L16 minimum (R176). -/
def execLmin (e : EngId) (w : W64) (s : State) : Host.Outcome State Fault Refusal :=
  .next (s.issueSlot e (.lmin e w) w (opVV 3 (fun a b => plain (lMin (a % 65536) (b % 65536))) w))
/-- VX L16 negation (R176). -/
def execLneg (e : EngId) (w : W64) (s : State) : Host.Outcome State Fault Refusal :=
  .next (s.issueSlot e (.lneg e w) w (opV 3 (fun a => plain (lNeg (a % 65536))) w))
/-- VX format conversion (R176). -/
def execVxCvt (e : EngId) (w : W64) (s : State) : Host.Outcome State Fault Refusal :=
  .next (s.issueSlot e (.vxCvt e w) w (opCvt w))
/-- VX maximum over elements (R176). -/
def execRmax (e : EngId) (w : W64) (s : State) : Host.Outcome State Fault Refusal :=
  .next (s.issueSlot e (.rmax e w) w (opReduce 8 true w))
/-- VX sum over elements (R176). -/
def execRsum (e : EngId) (w : W64) (s : State) : Host.Outcome State Fault Refusal :=
  .next (s.issueSlot e (.rsum e w) w (opReduce 14 false w))
/-- VX move (R176). -/
def execVxMov (e : EngId) (w : W64) (s : State) : Host.Outcome State Fault Refusal :=
  .next (s.issueSlot e (.vxMov e w) w (opMov w))
/-- VX broadcast of a scalar (R176). -/
def execBcast (e : EngId) (w : W64) (s : State) : Host.Outcome State Fault Refusal :=
  .next (s.issueSlot e (.bcast e w) w (opBcast w))
/-- VX element to scalar (R176). -/
def execTos (e : EngId) (w : W64) (s : State) : Host.Outcome State Fault Refusal :=
  .next (s.issueSlot e (.tos e w) w (opTos w))
/-- VX exchange within the group (R176). -/
def execXchg (e : EngId) (w : W64) (s : State) : Host.Outcome State Fault Refusal :=
  .next (s.issueSlot e (.xchg e w) w (opXchg w))
/-- VX predicate logic (R176). -/
def execPlogic (e : EngId) (w : W64) (s : State) : Host.Outcome State Fault Refusal :=
  .next (s.issueSlot e (.plogic e w) w (opPlogic w))
/-- VX element numbers (R176). -/
def execIota (e : EngId) (w : W64) (s : State) : Host.Outcome State Fault Refusal :=
  .next (s.issueSlot e (.iota e w) w (opIota w))

end Sys2Proof.Machine
end

