-- ==== Sys2Proof/Machine/Busy.lean ====
section
/-! DEFINITION. Repeats of engine-port accesses that received BUSY (R124, R126, R276). -/

namespace Sys2Proof.Machine

/-- The state a meaning goes on with. -/
def nextOr (s : State) : Host.Outcome State Fault Refusal → State
  | .next t => t
  | _ => s

/-- Run a slot operation again. -/
def State.runSlot (s : State) (i : Instr) : State :=
  match i with
  | .tbD e w => nextOr s (execTbD e w s)
  | .tbS e w => nextOr s (execTbS e w s)
  | .tbP e w => nextOr s (execTbP e w s)
  | .laD e half w => nextOr s (execLaD e half w s)
  | .laS e half w => nextOr s (execLaS e half w s)
  | .laC e half w => nextOr s (execLaC e half w s)
  | .laCs e half w => nextOr s (execLaCs e half w s)
  | .laP e half w => nextOr s (execLaP e half w s)
  | .iadd e w => nextOr s (execIadd e w s)
  | .isub e w => nextOr s (execIsub e w s)
  | .imin e w => nextOr s (execImin e w s)
  | .imax e w => nextOr s (execImax e w s)
  | .vxAnd e w => nextOr s (execVxAnd e w s)
  | .vxOr e w => nextOr s (execVxOr e w s)
  | .vxXor e w => nextOr s (execVxXor e w s)
  | .shl e w => nextOr s (execShl e w s)
  | .shra e w => nextOr s (execShra e w s)
  | .shrl e w => nextOr s (execShrl e w s)
  | .icmp e w => nextOr s (execIcmp e w s)
  | .sel e w => nextOr s (execSel e w s)
  | .lmul e w => nextOr s (execLmul e w s)
  | .ldiv e w => nextOr s (execLdiv e w s)
  | .ladd e w => nextOr s (execLadd e w s)
  | .lsub e w => nextOr s (execLsub e w s)
  | .lsqr e w => nextOr s (execLsqr e w s)
  | .lsqrt e w => nextOr s (execLsqrt e w s)
  | .lexp2 e w => nextOr s (execLexp2 e w s)
  | .llog2 e w => nextOr s (execLlog2 e w s)
  | .lcmp e w => nextOr s (execLcmp e w s)
  | .lmax e w => nextOr s (execLmax e w s)
  | .lmin e w => nextOr s (execLmin e w s)
  | .lneg e w => nextOr s (execLneg e w s)
  | .vxCvt e w => nextOr s (execVxCvt e w s)
  | .rmax e w => nextOr s (execRmax e w s)
  | .rsum e w => nextOr s (execRsum e w s)
  | .vxMov e w => nextOr s (execVxMov e w s)
  | .bcast e w => nextOr s (execBcast e w s)
  | .tos e w => nextOr s (execTos e w s)
  | .xchg e w => nextOr s (execXchg e w s)
  | .plogic e w => nextOr s (execPlogic e w s)
  | .iota e w => nextOr s (execIota e w s)
  | .fold e w => nextOr s (execFold e w s)
  | .rqCvt e w => nextOr s (execRqCvt e w s)
  | .merge e w => nextOr s (execMerge e w s)
  | .anp e w => nextOr s (execAnp e w s)
  | .anpMeasurement e w => nextOr s (execAnpMeasurement e w s)
  | .rqClr e w => nextOr s (execRqClr e w s)
  | .mvLd e w => nextOr s (execMvLd e w s)
  | .mvSt e w => nextOr s (execMvSt e w s)
  | .mvStr e w => nextOr s (execMvStr e w s)
  | .mvAcw e w => nextOr s (execMvAcw e w s)
  | .mvAgset e w => nextOr s (execMvAgset e w s)
  | .mvThset e w => nextOr s (execMvThset e w s)
  | .mvThadd e w => nextOr s (execMvThadd e w s)
  | .xopen e w => nextOr s (execXopen e w s)
  | .mvSld e w => nextOr s (execMvSld e w s)
  | .mvSst e w => nextOr s (execMvSst e w s)
  | .syNop e w => nextOr s (execSyNop e w s)
  | .send e w => nextOr s (execSend e w s)
  | .wait e w => nextOr s (execWait e w s)
  | .stackLoad e w => nextOr s (execStackLoad e w s)
  | .stackStore e w => nextOr s (execStackStore e w s)
  | .hostLoad e w => nextOr s (execHostLoad e w s)
  | .hostStore e w => nextOr s (execHostStore e w s)
  | .planeGather e w => nextOr s (execPlaneGather e w s)
  | .marlGather e w => nextOr s (execMarlGather e w s)
  | .peer e w => nextOr s (execPeer e w s)
  | .stackCopy e w => nextOr s (execStackCopy e w s)
  | .fmtFence e w => nextOr s (execFmtFence e w s)
  | .qsend e w => nextOr s (execQsend e w s)
  | .svsend e w => nextOr s (execSvsend e w s)
  | .endOp e w => nextOr s (execEndOp e w s)
  | .brc e w => nextOr s (execBrc e w s)
  | .jmp e w => nextOr s (execJmp e w s)
  | .loop e w => nextOr s (execLoop e w s)
  | .sadd e w => nextOr s (execSadd e w s)
  | .ssub e w => nextOr s (execSsub e w s)
  | .sand e w => nextOr s (execSand e w s)
  | .sor e w => nextOr s (execSor e w s)
  | .sxor e w => nextOr s (execSxor e w s)
  | .sshl e w => nextOr s (execSshl e w s)
  | .sshr e w => nextOr s (execSshr e w s)
  | .ssra e w => nextOr s (execSsra e w s)
  | .smin e w => nextOr s (execSmin e w s)
  | .smax e w => nextOr s (execSmax e w s)
  | .slt e w => nextOr s (execSlt e w s)
  | .sltu e w => nextOr s (execSltu e w s)
  | .sli e w => nextOr s (execSli e w s)
  | .slih e w => nextOr s (execSlih e w s)
  | _ => s

/-- One cycle in which accesses of an engine's group that received BUSY repeat after a bank conflict (R124, R126): each engine with such an
access counts it; one with none counts a cycle in which it stalls for another. -/
def State.busyCycle (s : State) (e : Nat) : State :=
  (s.group e).foldl (fun s g =>
    let en := s.engine g
    let k := en.cyc + 1
    let new := decide (en.held < k)
    let waits := en.hold.any (fun h => match h with | .wait _ _ _ y => y | _ => false)
    let s1 := if 0 < en.stall then s.count (engOff g oSTALL_BUSY) 1 else if en.hold.isEmpty && new then s.count (engOff g oSTALL_GROUP) 1 else s
    s1.setEngine g { en with stall := en.stall - 1, cyc := k, held := max en.held k, wd := if new && !waits then en.wd + 1 else en.wd }) s

/-- BUSY_REPEAT (R126): after a bank conflict the accesses that wait repeat, one a cycle; after a race the bundle's accesses are made again
on the stores as they now stand. Either way the cycle is a stall of the engine and its group. -/
def execBusyRepeat (e : EngId) (s : State) : Host.Outcome State Fault Refusal :=
  let en := s.engine e
  if s.frozen then .next s
  else if 0 < en.stall then .next ((s.busyCycle e).settle e 16)
  else if !en.redo then .next s
  else
    let others := (s.group e).filter (fun g => decide (g ≠ e.val) && (s.engine g).redo)
    let put := fun (b : Bool) (s : State) => others.foldl (fun s g => s.setEngine g { s.engine g with redo := b }) s
    let s1 := put false (s.stallFor e oSTALL_BUSY 1)
    let en1 := s1.engine e
    let s2 := s1.setEngine e { en1 with core := en1.snap, issued := [], acc := en1.acc.filter (fun a => decide (a.issued < en1.core.pos)),
                                        staged := [], closed := none, redo := false }
    .next (put true (en.issued.foldl (fun s i => s.runSlot i) s2))

end Sys2Proof.Machine
end

