-- ==== Sys2Proof/Machine/Transport.lean ====
section
/-! DEFINITION. The end-to-end transport: delivery, acknowledgements, resends, and messages that stay undelivered (R393 to R399, R411,
R413, R471). -/

namespace Sys2Proof.Machine

/-- A message failed authentication, or came without ENC (R399). -/
def State.authFail (s : State) (p : Nat) : State :=
  let x := s.port p
  let s1 := ((s.setPort p { x with auth := x.auth + 1 }).count (portOff p 0x28) 1).raise 0x400A 0 none []
  if 16 ≤ x.auth + 1 then s1.portDown p 4 else s1

/-- Open a message that came through an encrypting uplink: header without ENC, and body (R399). -/
def State.openMsg (s : State) (p : Nat) (h body : Bytes) : Option Bytes × State :=
  let n := field h 0x18 8
  let n0 := body.length - 16
  match SMap.find? s.keys p with
  | none => (none, s.authFail p)
  | some k =>
    if !bit (field h 1 1) 3 ∨ body.length < 16 then (none, s.authFail p)
    else match gcmOpen (k.take 32) ((k.drop 32).take 4 ++ leBytes 8 n) (msgAad h) (body.take n0) (body.drop n0) with
      | none => (none, s.authFail p)
      | some b => (some b, { s.setPort p { s.port p with auth := 0 } with nonces := SMap.set s.nonces (2 * p + 1) ((n + 1) % 2 ^ 64) })

/-- The acknowledgement of a message (R397): 0 delivered, 1 busy. -/
def ackMsg (src flow tc tenant mseq result : Nat) : Msg :=
  ⟨7, tc, src, flow, tenant, leBytes 2 flow ++ leBytes 4 mseq ++ leBytes 1 result ++ leBytes 1 0⟩

/-- The tenant of the resource that a message addresses (R396): the instance of a return, the channel of a proxy request, the work item
of a collective's group; none where this module knows none. The slots of a bundle are checked pair by pair (R351). -/
def State.tenantOf (s : State) (m : Msg) : Option Nat :=
  if m.kind = 2 then ((s.instByHdr m.body).bind (SMap.find? s.insts)).map (·.tenant)
  else if m.kind = 3 then (if m.flow = 0 then none else (SMap.find? s.watch (4096 * (m.peer % 64) + m.flow)).map (·.tenant))
  else if m.kind = 5 then ((SMap.find? s.colls m.flow).bind (·.item)).map (fun i => (s.item i).tenant)
  else none

/-- The tenant check before delivery (R396); a proxy request with TENANT 0xFF names none. -/
def State.tenantOk (s : State) (m : Msg) : Bool :=
  let may := match s.tenantOf m with | some t => decide (t = m.tenant) | none => true
  if m.kind = 3 then decide (field m.body 2 1 = 255) || (decide (field m.body 2 1 = m.tenant) && may) else may

/-- Deliver the messages of a flow that are next in order, each acknowledged (R394, R396, R397). -/
def State.deliverFlow (s : State) (key : Nat) : Nat → State
  | 0 => s
  | f + 1 =>
    let e := SMap.get s.rxSeq key 0
    match s.rxHeld.find? (fun h => h.1 == key && h.2.1 == e) with
    | none => s
    | some (_, q, m) =>
      let s1 : State := { s with rxHeld := s.rxHeld.filter (fun h => !(h.1 == key && h.2.1 == e)), rxSeq := SMap.set s.rxSeq key ((e + 1) % 2 ^ 32) }
      let s2 := s1.send (ackMsg m.peer m.flow m.tc m.tenant q 0)
      let s3 : State := if s.tenantOk m then { s2 with inbox := s2.inbox ++ [m] } else { s2 with tenantDrop := s2.tenantDrop + 1 }
      s3.deliverFlow key f

/-- A message for this module (R394 to R398, R413): `busy` where its destination unit has no memory for it. -/
def State.deliver (s : State) (h body : Bytes) (busy : Bool) : State :=
  let kind := field h 0 1
  let fl := field h 1 1
  let tc := bits fl 0 2
  let src := field h 2 2 % 4096
  let flow := field h 6 2
  let mseq := field h 8 4
  let tenant := field h 0x14 1 % 64
  let m : Msg := ⟨kind, tc, src, flow, tenant, body⟩
  if kind = 0 ∨ 8 < kind then s
  else if kind = 7 then { s with acksIn := s.acksIn ++ [m] }
  else
    let key := flowKey src flow tc
    let d := (mseq + 2 ^ 32 - SMap.get s.rxSeq key 0) % 2 ^ 32
    if 2 ^ 31 ≤ d then s.send (ackMsg src flow tc tenant mseq 0)
    else if 31 < d ∨ s.rxHeld.any (fun x => x.1 == key && x.2.1 == mseq) then s
    else
      let plain := if bit fl 2 then wireDecode (body.length + 1) body else some body
      match plain with
      | none => (s.raise 0x400B 0 none []).send (ackMsg src flow tc tenant mseq 1)
      | some b =>
        if b.length ≠ field h 0x10 4 then (s.raise 0x400B 0 none []).send (ackMsg src flow tc tenant mseq 1)
        else if (busy && (kind = 1 || kind = 5)) || (kind = 1 && !s.hasStack) then s.send (ackMsg src flow tc tenant mseq 1)
        else ({ s with rxHeld := s.rxHeld ++ [(key, mseq, { m with body := b })] } : State).deliverFlow key 32

/-- MESSAGE_DELIVERY (R393 to R399, R401, R411, R413): the oldest whole message received is checked and delivered here, or goes on. -/
def execMessageDelivery (busy : Bool) (s : State) : Host.Outcome State Fault Refusal :=
  match s.rxMsgs with
  | [] => .next s
  | (p, vc, raw) :: t =>
    let s0 : State := { s with rxMsgs := t }
    let h := raw.take 32
    let (ob, s1) := if s0.encrypts p then s0.openMsg p h (raw.drop 32) else (some (raw.drop 32), s0)
    match ob with
    | none => .next s1
    | some body =>
      let hops := field h 0x15 1 + 1
      let fl := field h 1 1
      let fl1 := (if s0.encrypts p then fl - 8 else fl) + (if 12 ≤ p ∧ !bit fl 5 then 32 else 0)
      if raw.length < 32 ∨ body.length ≠ field h 0x0C 4 then .next s1
      else if 32 ≤ hops then .next { s1 with hopDrop := s1.hopDrop + 1 }
      else
        let dst := field h 4 2 % 4096
        let h1 := h.take 1 ++ leBytes 1 fl1 ++ (h.drop 2).take 0x13 ++ leBytes 1 hops ++ leBytes 2 0 ++ leBytes 8 0
        if dst = s1.addr then .next (s1.deliver h1 body busy)
        else match s1.nextHop dst (field h 6 2) (some (p, bit vc 0, bit fl 4)) with
          | none => .next s1
          | some (q, date, det) =>
            let h2 := if det ∧ !bit fl1 4 then h1.take 1 ++ leBytes 1 (fl1 + 16) ++ h1.drop 2 else h1
            .next ((if det ∧ !bit fl1 4 then s1.count 0x60040 1 else s1).toPort q date (bit fl1 5) h2 body)

/-- TRANSPORT_ACK (R397): an acknowledgement releases the message it names, or restarts its timer when busy. -/
def execTransportAck (s : State) : Host.Outcome State Fault Refusal :=
  match s.acksIn with
  | [] => .next s
  | m :: t =>
    let hit := fun (u : Unacked) => decide (u.msg.peer = m.peer ∧ u.msg.flow = field m.body 0 2 ∧ u.msg.tc = m.tc ∧ u.mseq = field m.body 2 4)
    .next (if field m.body 6 1 = 0 then { s with acksIn := t, unacked := s.unacked.filter (fun u => !hit u) }
      else { s with acksIn := t, unacked := s.unacked.map (fun u => if hit u then { u with sentAt := s.now } else u) })

/-- An undelivered message is reported to its sending unit (R397, R471). -/
def State.undelivered (s : State) (m : Msg) : State :=
  let s1 := (s.count 0x60038 1).raise 0x400C 0 none []
  match m.kind % 256 with
  | 3 =>
    let tag := field m.body 4 4
    if s1.reads.any (fun kv => decide (kv.1 % 2 ^ 32 = tag)) then s1.proxyOutcome tag .undelivered
    else if m.flow ≠ 0 then s1.channelError m.flow 5 else s1
  | 5 =>
    match (SMap.get s1.colls m.flow {}).item with
    | some i => s1.stopItem i stFABRIC_UNREACHABLE 0x400C
    | none => s1
  | 8 =>
    if field m.body 0 1 = 0xAD then
      { s1 with inbox := s1.inbox ++ [⟨8, m.tc, m.peer, 0, 0, adReply (field m.body 4 4) stFABRIC_UNREACHABLE 0 0x400C⟩] }
    else if field m.body 0 1 = 0xB0 then { s1 with arrived := s1.arrived ++ [(.refill (field m.body 4 4), 0, .undelivered)] }
    else s1
  | _ => s1

/-- A resent message of class 0 takes the running TC0 work items it serves out of the degraded budget (R406, R504): a bundle or a proxied
access names the item's channel, a chunk its group's item. -/
def State.noteResend (s : State) (m : Msg) : State :=
  let mine : Nat → WorkItem → Bool := fun k w =>
    match m.kind % 256 with
    | 1 => decide (s.handleOf w.chan % 65536 = m.flow)
    | 3 => decide (w.chan = m.flow)
    | 5 => decide ((SMap.get s.colls m.flow {}).item = some k)
    | _ => false
  if m.tc ≠ 0 then s
  else { s with items := s.items.map (fun (k, w) => (k, if w.tc = 0 ∧ mine k w then { w with boundOk := false } else w)) }

/-- E2E_TIMEOUT (R397, R413): the first message unacknowledged for E2E_RTO is resent uncompressed on its current route; after the last
resend it is undelivered. -/
def execE2eTimeout (s : State) : Host.Outcome State Fault Refusal :=
  let rto := s.getField 0x60000 8 8 * 10000
  match s.unacked.findIdx? (fun u => decide (u.sentAt + rto ≤ s.now)) with
  | none => .next s
  | some i =>
    match s.unacked[i]? with
    | none => .next s
    | some u =>
      if u.tries < s.getField 0x60000 16 4 then
        .next ((({ s with unacked := s.unacked.set i { u with tries := u.tries + 1, sentAt := s.now } } : State).noteResend u.msg).launch u.msg u.mseq false)
      else .next (({ s with unacked := s.unacked.eraseIdx i } : State).undelivered u.msg)

end Sys2Proof.Machine
end

