-- ==== Sys2Proof/Machine/Coll.lean ====
section
/-! DEFINITION. Step barriers and the collective unit (R418 to R422). -/

namespace Sys2Proof.Machine

/-! ### Barriers (R418, R419) -/

/-- Take the first barrier message with an operation (1 ARRIVE, 2 RELEASE, 3 ABORT). -/
def State.takeBar (s : State) (op : Nat) : Option (Msg × State) := s.takeMsg (fun m => m.kind == 6 && decide (field m.body 0 1 = op))

/-- Items that wait at a barrier. -/
def State.atBarrier (s : State) (g q : Nat) : List Nat :=
  (s.items.filter (fun kv => kv.2.barrier == some (g, q) && kv.2.barWait && kv.2.phase == .waiting)).map (·.1)

/-- Send a barrier message to every member of a group that can be reached. -/
def State.barAll (s : State) (g q tc tenant op r : Nat) : State :=
  (SMap.get s.groups g []).foldl (fun s a =>
    if a = s.addr ∨ s.routeTo a g then s.sendTo ⟨6, tc, a, g, tenant, barBody op g q r⟩ else s) s

/-- BARRIER_ARRIVE (R418, R419): the root takes an arrival; with the last one it sends RELEASE with the release time. An arrival older than
the group's current barrier is discarded. -/
def execBarrierArrive (s : State) : Host.Outcome State Fault Refusal :=
  match s.takeBar 1 with
  | none => .next s
  | some (m, s0) =>
    let g := field m.body 2 2
    let q := field m.body 4 4
    let b : Barrier := match SMap.find? s0.bars g with
      | some b => if b.seq < q then ⟨q, [], false⟩ else b
      | none => ⟨q, [], false⟩
    if q < b.seq ∨ b.ovr then .next s0
    else
      let arr := if b.arrived.contains m.peer then b.arrived else b.arrived ++ [m.peer]
      let mem := SMap.get s0.groups g []
      let all := !mem.isEmpty && mem.all (fun a => arr.contains a)
      let s1 : State := { s0 with bars := SMap.set s0.bars g ⟨q, arr, all⟩ }
      .next (if all then s1.barAll g q m.tc m.tenant 2 (s1.pav + s1.getField 0x60000 20 12 * 100) else s1)

/-- BARRIER_RELEASE (R418): a member notes the release time; a release that comes late is counted. One for a barrier at which nothing
waits is discarded. -/
def execBarrierRelease (s : State) : Host.Outcome State Fault Refusal :=
  match s.takeBar 2 with
  | none => .next s
  | some (m, s0) =>
    let g := field m.body 2 2
    let q := field m.body 4 4
    let r := field m.body 8 8
    if (s0.atBarrier g q).isEmpty then .next s0
    else .next { s0 with releases := s0.releases ++ [(g, q, r)], lateRel := if r < s0.pav then s0.lateRel + 1 else s0.lateRel }

/-- BARRIER_START (R418): the counter has reached a release time; the items that wait there may start. -/
def execBarrierStart (s : State) : Host.Outcome State Fault Refusal :=
  match s.releases.find? (fun x => decide (x.2.2 ≤ s.pav)) with
  | none => .next s
  | some (g, q, r) =>
    let s1 : State := { s with releases := s.releases.filter (· != (g, q, r)) }
    .next ((s1.atBarrier g q).foldl (fun s i => s.setItem i { s.item i with barWait := false, barDeadline := r }) s1)

/-- BARRIER_TIMEOUT (R419): at the root, a member cannot be reached, or the deadline named by a work item has passed. -/
def execBarrierTimeout (g : BitVec 16) (s : State) : Host.Outcome State Fault Refusal :=
  let k := g.toNat
  match SMap.find? s.bars k with
  | none => .next s
  | some b =>
    let mem := SMap.get s.groups k []
    let mine := s.atBarrier k b.seq
    let lost := mem.any (fun a => a != s.addr && !s.routeTo a k)
    let late := mine.any (fun i => decide ((s.item i).barDeadline ≤ s.pav))
    if b.ovr ∨ mem.isEmpty ∨ !(lost || late) then .next s
    else
      let w := s.item (mine.headD 0)
      .next (({ s with bars := SMap.set s.bars k { b with ovr := true } } : State).barAll k b.seq (if mine.isEmpty then 1 else w.tc) w.tenant 3 0)

/-- BARRIER_ABORT (R419): the items that wait complete with FABRIC_UNREACHABLE. -/
def execBarrierAbort (s : State) : Host.Outcome State Fault Refusal :=
  match s.takeBar 3 with
  | none => .next s
  | some (m, s0) =>
    let l := s0.atBarrier (field m.body 2 2) (field m.body 4 4)
    .next ((l.foldl (fun s i => s.stopItem i stFABRIC_UNREACHABLE 0x400D) s0).raise 0x400D 0 none [])

/-! ### Collectives (R420 to R422) -/

/-- Bytes of an element (R74, R90). -/
def collBytes (f : Nat) : Nat :=
  if f = fI32 then 4 else if f = fI64 then 8 else if f = fLACC then 16 else if f = fFP32 then 4 else if f = fBF16 then 2 else if f = fL16 then 2 else 1

/-- Elements of a chunk. -/
def collEls (n : Nat) : Nat → Bytes → List Bytes
  | 0, _ => []
  | f + 1, b => if b.isEmpty then [] else padTo n (b.take n) :: collEls n f (b.drop n)

/-- The value of an element, for maximum and minimum; none for a NaN or OVF. -/
def collVal (f : Nat) (b : Bytes) : Option Q :=
  if f = fI32 then some (Q.ofInt (toInt 32 (leNat b)))
  else if f = fI64 then some (Q.ofInt (toInt 64 (leNat b)))
  else if f = fLACC then (let r := LRec.ofBytes b; if r.lovf then none else some (if r.empty then Q.ofInt 0 else Q.dy r.w r.l))
  else if f = fL16 then (if lIsOvf (leNat b) then none else some (lToQ (leNat b)))
  else match floatDecode f (leNat b) with
    | .fin q => some q
    | .inf neg => some (Q.ofInt (if neg then -(2 ^ 200) else 2 ^ 200))
    | .nan => none

/-- The larger or smaller of two by value; among equal values the first, of the lower rank (R421). -/
def collPick (f : Nat) (isMax : Bool) (a b : Bytes) : Bytes :=
  match collVal f a, collVal f b with
  | some x, some y => if isMax then (if x.lt y then b else a) else (if y.lt x then b else a)
  | _, _ => leBytes (collBytes f) (Config.collOpen f (leNat a) (leNat b))

/-- Reduce one element over the parts, in the order given: by the canonical tree in Fixed-Order mode, else one after another (R216, R221,
R421). The flag says that a malformed record was met. -/
def collReduce (f op : Nat) (tree : Bool) (els : List Bytes) : Bytes × Bool :=
  if op = 1 ∨ op = 2 then
    (match els with
     | [] => ([], false)
     | a :: t => (t.foldl (collPick f (decide (op = 1))) a, false))
  else if f = fI32 ∨ f = fI64 then (leBytes (collBytes f) (els.foldl (fun n b => n + leNat b) 0), false)
  else if f = fLACC then
    let recs := els.map LRec.ofBytes
    let x := recs.foldl (fun x r => if r.bad then x else x.merge r) LEl.clear
    (x.toBytes, recs.any LRec.bad)
  else
    let add := fun a b => if f = fL16 then (lAdd a b).code else fAdd f a b
    let codes := els.map leNat
    let v := if tree then treeOf add 0 64 (numbered codes) else match codes with
      | [] => 0
      | a :: t => t.foldl add a
    (leBytes (collBytes f) v, false)

/-- Parts by ascending rank. -/
def insPart (p : Nat × Bytes) : List (Nat × Bytes) → List (Nat × Bytes)
  | [] => [p]
  | q :: t => if p.1 ≤ q.1 then p :: q :: t else q :: insPart p t

/-- Fixed-Order mode is that of the channel whose work item waits (R212, R421); with none waiting, the default of ORDER. -/
def State.fixedOrder (s : State) (item : Option Nat) : Bool :=
  match item with
  | some i => !bit (s.chan (s.item i).chan).attr 0
  | none => true

/-- COLLECTIVE_DATA (R420 to R422): a chunk part reaches the collective unit; with the last part the owner reduces the chunk, and for
all-reduce sends the result to every rank. The channel's ORDER decides between the fixed order and the order of arrival (R221). A maximum or minimum goes by rank, whatever the order of arrival. -/
def execCollectiveData (c : CollPart) (s : State) : Host.Outcome State Fault Refusal :=
  match s.takeMsg (fun m => m.kind == 5 && decide (some m.peer = c.ranks[c.rank]?) && decide (m.flow = c.coll)) with
  | none => .next s
  | some (m, s0) =>
    let x := SMap.get s0.colls c.coll {}
    if x.parts.any (fun p => p.1 == c.rank) ∨ x.result.isSome then .next s0
    else
      let x1 := { x with parts := x.parts ++ [(c.rank, m.body)], item := c.item }
      if c.op = 3 ∨ x1.parts.length < c.ranks.length then .next { s0 with colls := SMap.set s0.colls c.coll x1 }
      else
        let fixed := s0.fixedOrder c.item
        let ps := if fixed ∨ c.op ≠ 0 then x1.parts.foldr insPart [] else x1.parts
        let n := collBytes c.fmt
        let els := ps.map (fun p => collEls n (p.2.length + 1) p.2)
        let len := els.foldl (fun k l => max k l.length) 0
        let out := (List.range len).map (fun i => collReduce c.fmt c.op fixed (els.filterMap (fun l => l[i]?)))
        let b := out.flatMap (·.1)
        let mark := if out.any (·.2) then 3 else 0
        let s2 : State := { s0 with colls := SMap.set s0.colls c.coll { x1 with result := some b, mark := mark } }
        let s3 := if mark = 0 then s2 else match c.item with
          | some i => s2.stopItem i stDATA_POISON 0
          | none => s2
        let kind := if c.compress ∧ c.fmt = fBF16 then 5 + 256 * fBF16 else 5
        let s4 := if c.all then (match c.item with | some i => c.ranks.foldl (fun s a => s.noteRoute i a c.coll) s3 | none => s3) else s3
        .next (if c.all then c.ranks.foldl (fun s a => s.sendTo ⟨kind, m.tc, a, c.coll, m.tenant, b⟩) s4 else s4)

end Sys2Proof.Machine
end

