-- ==== Sys2Proof/Machine/Mgmt.lean ====
section
/-! DEFINITION. The management target, unlocks and boundary scan (R554 to R557, R636, R639 to R643). -/

namespace Sys2Proof.Machine

def State.mg (s : State) (f : Mgmt → Mgmt) : State := { s with mgmt := f s.mgmt }

/-- Alert causes that hold (R636); ALERT_N is asserted while there is one. -/
def State.alertCauses (s : State) : Nat :=
  let th := s.getField rPWR_STATUS 3 2
  toNatB (!s.readyBit && decide (s.phase ≠ 6)) 0 + toNatB s.boot.failed 1 + toNatB s.fatal 2 + toNatB (decide (th = 2)) 3
    + toNatB (decide (th = 3) || s.supply.tripPin) 4 + toNatB s.supply.pwrEvent 5

/-! ### Frames (R640) -/

def crc8Bit : Nat → Nat → Nat
  | 0, c => c
  | n + 1, c => crc8Bit n (if 128 ≤ c % 256 then (2 * c % 256) ^^^ 7 else 2 * c % 256)

/-- The packet error check: CRC-8 with x^8 + x^2 + x + 1. -/
def pec (b : Bytes) : Nat := b.foldl (fun c x => crc8Bit 8 (c ^^^ x.toNat)) 0

/-- The target's address: 0x4A, or the one assigned (R639). -/
def State.busAddr (s : State) : Nat := s.mgmt.dyn.getD 0x4A

/-- A response: STATUS, LEN, data and PEC. -/
def State.answer (s : State) (st : Nat) (data : Bytes) : State :=
  let b := leBytes 1 st ++ leBytes 1 data.length ++ data
  s.emit (.mgmt (b ++ leBytes 1 (pec (leBytes 1 (2 * s.busAddr + 1) ++ b))))

/-- The commands: code, bytes of data, and from when each is allowed: 0 always, 1 phase FIRMWARE, 2 BAR0 served (R641). -/
def mgmtTable : List (Nat × Nat × Nat) := [(1, 0, 0), (2, 4, 2), (3, 12, 2), (4, 0, 1), (5, 32, 1), (6, 1, 1), (7, 193, 1), (8, 0, 1)]

/-- Firmware runs, or has run to a halt that is no boot failure. -/
def State.fwUp (s : State) : Bool :=
  !s.inReset && decide (s.phase ≠ 0) && !s.boot.failed && (decide (s.phase ≠ 6) || s.boot.bar0 || s.fatal)

/-- The first check of R640 that a frame fails before its operands are looked at; 0 where none does. -/
def State.frameCheck (s : State) (f : Bytes) : Nat :=
  let n := f.length - 1
  if f.length < 3 ∨ pec (leBytes 1 (2 * s.busAddr) ++ f.take n) ≠ field f n 1 then 5
  else match mgmtTable.find? (fun r => r.1 == field f 0 1) with
    | none => 3
    | some (_, len, lv) =>
      if field f 1 1 ≠ len ∨ f.length ≠ len + 3 then 4
      else if s.mgmt.writing.isSome then 1
      else if (lv = 1 ∧ !s.fwUp) ∨ (lv = 2 ∧ !s.barUp) then 2
      else 0

/-- Carry out a frame as the command of a code: a failed check is answered; a good frame of another command is not this command's. -/
def State.command (s : State) (code : Nat) (f : Bytes) (act : State → Bytes → State) : State :=
  if !s.boot.sb then s
  else
    let k := s.frameCheck f
    if k ≠ 0 then s.answer k []
    else if field f 0 1 ≠ code then s
    else act s ((f.drop 2).take (f.length - 3))

/-! ### Commands (R641, R642) -/

/-- The sixteen bytes of GET_STATUS. -/
def State.statusBytes (s : State) : Bytes :=
  leBytes 1 s.phase ++ leBytes 1 (s.getField rPHASE 3 4) ++ leBytes 1 s.alertCauses ++ leBytes 1 (s.getField rPWR_STATUS 3 2)
    ++ leBytes 2 (s.getField rPWR_STATUS 16 12) ++ leBytes 1 (s.getField 0x10020 0 8) ++ leBytes 1 s.boot.checkA ++ leBytes 1 s.boot.checkB
    ++ leBytes 2 s.supply.lastEvent ++ leBytes 5 0

/-- GET_STATUS (R636, R642): the latched cause clears. -/
def execGetStatus (f : Bytes) (s : State) : Host.Outcome State Fault Refusal :=
  .next (s.command 1 f (fun s _ => (s.answer 0 s.statusBytes).supp (fun u => { u with pwrEvent := false })))

/-- REG_READ (R641). -/
def execRegRead (f : Bytes) (s : State) : Host.Outcome State Fault Refusal :=
  .next (s.command 2 f (fun s d =>
    let off := field d 0 4
    if !barOk off 8 then s.answer 6 []
    else let (v, s1) := s.regRead 2 off 8; s1.answer 0 (leBytes 8 v)))

/-- A write that R616 counts. -/
def State.wouldRefuse (s : State) (off : Nat) : Bool :=
  let wr := (regFields off).filter (fun x => x.acc != .ro)
  !wr.isEmpty && (s.refuses off || (s.locked off && wr.any (fun x => x.acc == .rwl)))

/-- REG_WRITE (R616, R640, R641): one that a lock or R614 refuses is counted and answered REFUSED. -/
def execRegWrite (f : Bytes) (s : State) : Host.Outcome State Fault Refusal :=
  .next (s.command 3 f (fun s d =>
    let off := field d 0 4
    if !barOk off 8 then s.answer 6 []
    else if s.wouldRefuse off then ((s.unlatch 2 off).lockViolation off).answer 6 []
    else (s.regWrite 2 off 8 (field d 4 8)).answer 0 []))

/-- DOMAIN_READ (R641). -/
def execDomainRead (f : Bytes) (s : State) : Host.Outcome State Fault Refusal :=
  .next (s.command 4 f (fun s _ => s.answer 0 (padTo 32 s.record)))

/-- DOMAIN_WRITE (R641): the bytes go to flash unchecked; the target is busy until the write is done. -/
def execDomainWrite (f : Bytes) (s : State) : Host.Outcome State Fault Refusal :=
  .next (s.command 5 f (fun s d => (s.answer 0 []).mg (fun m => { m with writing := some d })))

/-- DOMAIN_WRITE_DONE (R641). -/
def execDomainWriteDone (s : State) : Host.Outcome State Fault Refusal :=
  match s.mgmt.writing with
  | none => .next s
  | some d => .next ((s.dm (fun x => { x with sector := some d })).mg (fun m => { m with writing := none }))

/-- GET_IDENTITY (R550, R641). -/
def execGetIdentity (f : Bytes) (s : State) : Host.Outcome State Fault Refusal :=
  .next (s.command 8 f (fun s _ =>
    s.answer 0 (leBytes 4 (s.reg 0).toNat ++ leBytes 8 Config.serial ++ leBytes 1 (s.getField 0x10 0 1) ++ leBytes 2 (s.getField 0x30 0 16))))

/-! ### Unlocks (R555 to R557) -/

/-- Answer a requester on JTAG or on the management bus. -/
def State.reply (s : State) (jtag : Bool) (st : Nat) (b : Bytes) : State := if jtag then s.emit (.jtag (st == 0) b) else s.answer st b

/-- A command that JTAG offers too: there the bytes are its data (R554, R555). -/
def State.either (s : State) (jtag : Bool) (code : Nat) (f : Bytes) (act : State → Bytes → State) : State :=
  if !jtag then s.command code f act
  else if s.fwUp ∧ (mgmtTable.any (fun r => r.1 == code && r.2.1 == f.length)) then act s f
  else s.emit (.jtag false [])

/-- UNLOCK_CHALLENGE (R555): a nonce for scope 1, a test grant, or 2, a debug unlock. -/
def execUnlockChallenge (jtag : Bool) (f : Bytes) (s : State) : Host.Outcome State Fault Refusal :=
  .next (s.either jtag 6 f (fun s d =>
    let sc := field d 0 1
    if (sc ≠ 1 ∧ sc ≠ 2) ∨ s.now < s.mgmt.blocked then s.reply jtag 6 []
    else
      let (k, s1) := s.fresh
      let n := leBytes 32 (Config.random k)
      (s1.mg (fun m => { m with nonce := some (sc, n, s1.now) })).reply jtag 0 n))

/-- A response verifies (R555). -/
def State.unlockOk (s : State) (sc : Nat) (pub sig : Bytes) : Bool :=
  match s.mgmt.nonce with
  | none => false
  | some (sc0, n, t) =>
    decide (sc0 = sc) && decide (s.now ≤ t + 10000000000) && (sha384 pub == Config.debugKeyHash)
      && ecVerify pub (sha384 (n ++ leBytes 8 Config.serial ++ leBytes 1 sc)) sig

/-- An accepted debug unlock (R557): tenants, work, keys and memory are gone, the by-pass is commanded, and the module is open. -/
def State.debugUnlock (s : State) : State :=
  let s1 := ((s.raise 0x7000 0 none []).bypCtrl true).hifClear
  s1.setField rRAS_STATUS 8 1 1

/-- UNLOCK_RESPONSE (R555 to R557). -/
def execUnlockResponse (jtag : Bool) (f : Bytes) (s : State) : Host.Outcome State Fault Refusal :=
  .next (s.either jtag 7 f (fun s d =>
    let sc := field d 0 1
    if sc ≠ 1 ∧ sc ≠ 2 then s.reply jtag 6 []
    else
      let ok := s.unlockOk sc ((d.drop 1).take 96) ((d.drop 97).take 96)
      let s1 := s.mg (fun m => { m with nonce := none })
      if !ok then ((s1.mg (fun m => { m with blocked := s.now + 1000000000 })).raise 0x7001 0 none []).reply jtag 6 []
      else if sc = 1 then ((s1.setField rRAS_STATUS 9 1 1).raise 0x7002 0 none []).reply jtag 0 []
      else s1.debugUnlock.reply jtag 0 []))

/-- NONCE_EXPIRY (R555): a nonce ends 10 s after it was drawn. -/
def execNonceExpiry (s : State) : Host.Outcome State Fault Refusal :=
  match s.mgmt.nonce with
  | some (_, _, t) => .next (if s.now ≤ t + 10000000000 then s else s.mg (fun m => { m with nonce := none }))
  | none => .next s

/-! ### The bus and JTAG (R554, R639, R640, R643) -/

/-- DYNAMIC_ADDRESS_ASSIGN (R639): I3C mode; causes that hold already are not signalled again. -/
def execDynamicAddressAssign (addr : BitVec 7) (s : State) : Host.Outcome State Fault Refusal :=
  .next (if s.boot.sb then s.mg (fun m => { m with dyn := some addr.toNat, seen := s.alertCauses }) else s)

/-- RSTDAA (R639). -/
def execRstdaa (s : State) : Host.Outcome State Fault Refusal := .next (s.mg (fun m => { m with dyn := none }))

/-- MANAGEMENT_CLOCK_TIMEOUT (R640): the transfer is abandoned without effect. -/
def execManagementClockTimeout (s : State) : Host.Outcome State Fault Refusal := .next s

/-- BOUNDARY_SCAN (R554, R643): refused while any tenant is enabled. -/
def execBoundaryScan (s : State) : Host.Outcome State Fault Refusal :=
  .next (if s.boot.sb then s.emit (.jtag (!(List.range 64).any s.tenantEnabled) []) else s)

/-- The in-band interrupt of I3C mode when a cause sets (R639). -/
def State.inBandTick (s : State) : State :=
  match s.mgmt.dyn with
  | none => s
  | some _ =>
    let c := s.alertCauses
    let s1 := s.mg (fun m => { m with seen := c })
    if c = s.mgmt.seen then s
    else if (List.range 6).any (fun i => bit c i && !bit s.mgmt.seen i) then s1.emit (.inBand c) else s1

end Sys2Proof.Machine
end

