-- ==== Sys2Proof/Machine/Dispatch.lean ====
section
/-! DEFINITION. One arm per command, each a direct call of its meaning. -/

namespace Sys2Proof.Machine

def exec (i : Instr) (s : State) : Host.Outcome State Fault Refusal :=
  match i with
  | .tbD e w => Sys2Proof.Machine.execTbD e w s
  | .tbS e w => Sys2Proof.Machine.execTbS e w s
  | .tbP e w => Sys2Proof.Machine.execTbP e w s
  | .laD e half w => Sys2Proof.Machine.execLaD e half w s
  | .laS e half w => Sys2Proof.Machine.execLaS e half w s
  | .laC e half w => Sys2Proof.Machine.execLaC e half w s
  | .laCs e half w => Sys2Proof.Machine.execLaCs e half w s
  | .laP e half w => Sys2Proof.Machine.execLaP e half w s
  | .iadd e w => Sys2Proof.Machine.execIadd e w s
  | .isub e w => Sys2Proof.Machine.execIsub e w s
  | .imin e w => Sys2Proof.Machine.execImin e w s
  | .imax e w => Sys2Proof.Machine.execImax e w s
  | .vxAnd e w => Sys2Proof.Machine.execVxAnd e w s
  | .vxOr e w => Sys2Proof.Machine.execVxOr e w s
  | .vxXor e w => Sys2Proof.Machine.execVxXor e w s
  | .shl e w => Sys2Proof.Machine.execShl e w s
  | .shra e w => Sys2Proof.Machine.execShra e w s
  | .shrl e w => Sys2Proof.Machine.execShrl e w s
  | .icmp e w => Sys2Proof.Machine.execIcmp e w s
  | .sel e w => Sys2Proof.Machine.execSel e w s
  | .lmul e w => Sys2Proof.Machine.execLmul e w s
  | .ldiv e w => Sys2Proof.Machine.execLdiv e w s
  | .ladd e w => Sys2Proof.Machine.execLadd e w s
  | .lsub e w => Sys2Proof.Machine.execLsub e w s
  | .lsqr e w => Sys2Proof.Machine.execLsqr e w s
  | .lsqrt e w => Sys2Proof.Machine.execLsqrt e w s
  | .lexp2 e w => Sys2Proof.Machine.execLexp2 e w s
  | .llog2 e w => Sys2Proof.Machine.execLlog2 e w s
  | .lcmp e w => Sys2Proof.Machine.execLcmp e w s
  | .lmax e w => Sys2Proof.Machine.execLmax e w s
  | .lmin e w => Sys2Proof.Machine.execLmin e w s
  | .lneg e w => Sys2Proof.Machine.execLneg e w s
  | .vxCvt e w => Sys2Proof.Machine.execVxCvt e w s
  | .rmax e w => Sys2Proof.Machine.execRmax e w s
  | .rsum e w => Sys2Proof.Machine.execRsum e w s
  | .vxMov e w => Sys2Proof.Machine.execVxMov e w s
  | .bcast e w => Sys2Proof.Machine.execBcast e w s
  | .tos e w => Sys2Proof.Machine.execTos e w s
  | .xchg e w => Sys2Proof.Machine.execXchg e w s
  | .plogic e w => Sys2Proof.Machine.execPlogic e w s
  | .iota e w => Sys2Proof.Machine.execIota e w s
  | .fold e w => Sys2Proof.Machine.execFold e w s
  | .rqCvt e w => Sys2Proof.Machine.execRqCvt e w s
  | .merge e w => Sys2Proof.Machine.execMerge e w s
  | .anp e w => Sys2Proof.Machine.execAnp e w s
  | .anpMeasurement e w => Sys2Proof.Machine.execAnpMeasurement e w s
  | .rqClr e w => Sys2Proof.Machine.execRqClr e w s
  | .mvLd e w => Sys2Proof.Machine.execMvLd e w s
  | .mvSt e w => Sys2Proof.Machine.execMvSt e w s
  | .mvStr e w => Sys2Proof.Machine.execMvStr e w s
  | .mvAcw e w => Sys2Proof.Machine.execMvAcw e w s
  | .mvAgset e w => Sys2Proof.Machine.execMvAgset e w s
  | .mvThset e w => Sys2Proof.Machine.execMvThset e w s
  | .mvThadd e w => Sys2Proof.Machine.execMvThadd e w s
  | .xopen e w => Sys2Proof.Machine.execXopen e w s
  | .mvSld e w => Sys2Proof.Machine.execMvSld e w s
  | .mvSst e w => Sys2Proof.Machine.execMvSst e w s
  | .syNop e w => Sys2Proof.Machine.execSyNop e w s
  | .send e w => Sys2Proof.Machine.execSend e w s
  | .wait e w => Sys2Proof.Machine.execWait e w s
  | .stackLoad e w => Sys2Proof.Machine.execStackLoad e w s
  | .stackStore e w => Sys2Proof.Machine.execStackStore e w s
  | .hostLoad e w => Sys2Proof.Machine.execHostLoad e w s
  | .hostStore e w => Sys2Proof.Machine.execHostStore e w s
  | .planeGather e w => Sys2Proof.Machine.execPlaneGather e w s
  | .marlGather e w => Sys2Proof.Machine.execMarlGather e w s
  | .peer e w => Sys2Proof.Machine.execPeer e w s
  | .stackCopy e w => Sys2Proof.Machine.execStackCopy e w s
  | .fmtFence e w => Sys2Proof.Machine.execFmtFence e w s
  | .qsend e w => Sys2Proof.Machine.execQsend e w s
  | .svsend e w => Sys2Proof.Machine.execSvsend e w s
  | .endOp e w => Sys2Proof.Machine.execEndOp e w s
  | .brc e w => Sys2Proof.Machine.execBrc e w s
  | .jmp e w => Sys2Proof.Machine.execJmp e w s
  | .loop e w => Sys2Proof.Machine.execLoop e w s
  | .sadd e w => Sys2Proof.Machine.execSadd e w s
  | .ssub e w => Sys2Proof.Machine.execSsub e w s
  | .sand e w => Sys2Proof.Machine.execSand e w s
  | .sor e w => Sys2Proof.Machine.execSor e w s
  | .sxor e w => Sys2Proof.Machine.execSxor e w s
  | .sshl e w => Sys2Proof.Machine.execSshl e w s
  | .sshr e w => Sys2Proof.Machine.execSshr e w s
  | .ssra e w => Sys2Proof.Machine.execSsra e w s
  | .smin e w => Sys2Proof.Machine.execSmin e w s
  | .smax e w => Sys2Proof.Machine.execSmax e w s
  | .slt e w => Sys2Proof.Machine.execSlt e w s
  | .sltu e w => Sys2Proof.Machine.execSltu e w s
  | .sli e w => Sys2Proof.Machine.execSli e w s
  | .slih e w => Sys2Proof.Machine.execSlih e w s
  | .busyRepeat e => Sys2Proof.Machine.execBusyRepeat e s
  | .tokenRelease e cycles => Sys2Proof.Machine.execTokenRelease e cycles s
  | .tokenArrival src dst tk => Sys2Proof.Machine.execTokenArrival src dst tk s
  | .waitSatisfied e cycles => Sys2Proof.Machine.execWaitSatisfied e cycles s
  | .storeAck e cycles => Sys2Proof.Machine.execStoreAck e cycles s
  | .dmaCompletion e n rd => Sys2Proof.Machine.execDmaCompletion e n rd s
  | .dmaFailure e n rd => Sys2Proof.Machine.execDmaFailure e n rd s
  | .networkWriteArrival src dst => Sys2Proof.Machine.execNetworkWriteArrival src dst s
  | .kaolinWriteback e loam word => Sys2Proof.Machine.execKaolinWriteback e loam word s
  | .checkerDone e xc cycles => Sys2Proof.Machine.execCheckerDone e xc cycles s
  | .kaolinScrub e => Sys2Proof.Machine.execKaolinScrub e s
  | .yieldOverrun e cycles => Sys2Proof.Machine.execYieldOverrun e cycles s
  | .suspendRequest item => Sys2Proof.Machine.execSuspendRequest item s
  | .suspend item => Sys2Proof.Machine.execSuspend item s
  | .resume item engines => Sys2Proof.Machine.execResume item engines s
  | .workItemStart item engines => Sys2Proof.Machine.execWorkItemStart item engines s
  | .tc0Start item engines => Sys2Proof.Machine.execTc0Start item engines s
  | .programCopy e image => Sys2Proof.Machine.execProgramCopy e image s
  | .enginePartEnd e => Sys2Proof.Machine.execEnginePartEnd e s
  | .workItemStop item => Sys2Proof.Machine.execWorkItemStop item s
  | .workItemComplete item outs => Sys2Proof.Machine.execWorkItemComplete item outs s
  | .engineClear e => Sys2Proof.Machine.execEngineClear e s
  | .clearingDone e => Sys2Proof.Machine.execClearingDone e s
  | .clearFail e => Sys2Proof.Machine.execClearFail e s
  | .enginePoolMove e => Sys2Proof.Machine.execEnginePoolMove e s
  | .reelBalancerEvaluation => Sys2Proof.Machine.execReelBalancerEvaluation s
  | .instanceOpen => Sys2Proof.Machine.execInstanceOpen s
  | .admission inst => Sys2Proof.Machine.execAdmission inst s
  | .bundleSend inst dest => Sys2Proof.Machine.execBundleSend inst dest s
  | .bundleArrival => Sys2Proof.Machine.execBundleArrival s
  | .expertWorkStart job engines => Sys2Proof.Machine.execExpertWorkStart job engines s
  | .returnArrival => Sys2Proof.Machine.execReturnArrival s
  | .mergeRows inst tok => Sys2Proof.Machine.execMergeRows inst tok s
  | .expertTimeout inst => Sys2Proof.Machine.execExpertTimeout inst s
  | .qsendIncomplete inst => Sys2Proof.Machine.execQsendIncomplete inst s
  | .predictorEvaluation item p => Sys2Proof.Machine.execPredictorEvaluation item p s
  | .normWatchDecision item idx => Sys2Proof.Machine.execNormWatchDecision item idx s
  | .commitPoint item => Sys2Proof.Machine.execCommitPoint item s
  | .slotSample => Sys2Proof.Machine.execSlotSample s
  | .doorbellPoll key => Sys2Proof.Machine.execDoorbellPoll key s
  | .doorbellRead key rd cis => Sys2Proof.Machine.execDoorbellRead key rd cis s
  | .notify cis => Sys2Proof.Machine.execNotify cis s
  | .wakeWrite off len val => Sys2Proof.Machine.execWakeWrite off len val s
  | .descriptorArrival ch rd ra => Sys2Proof.Machine.execDescriptorArrival ch rd ra s
  | .hostReadTimeout tag => Sys2Proof.Machine.execHostReadTimeout tag s
  | .work ch grp => Sys2Proof.Machine.execWork ch grp s
  | .cancel ch => Sys2Proof.Machine.execCancel ch s
  | .nop ch => Sys2Proof.Machine.execNop ch s
  | .createChannel => Sys2Proof.Machine.execCreateChannel s
  | .destroyChannel => Sys2Proof.Machine.execDestroyChannel s
  | .channelDestroyComplete ch => Sys2Proof.Machine.execChannelDestroyComplete ch s
  | .haltChannel => Sys2Proof.Machine.execHaltChannel s
  | .resumeChannel => Sys2Proof.Machine.execResumeChannel s
  | .loadProgram rd => Sys2Proof.Machine.execLoadProgram rd s
  | .unloadProgram => Sys2Proof.Machine.execUnloadProgram s
  | .regStream => Sys2Proof.Machine.execRegStream s
  | .deregStream => Sys2Proof.Machine.execDeregStream s
  | .streamRemoval t h => Sys2Proof.Machine.execStreamRemoval t h s
  | .assignGranules => Sys2Proof.Machine.execAssignGranules s
  | .releaseGranules => Sys2Proof.Machine.execReleaseGranules s
  | .granuleZeroingComplete g => Sys2Proof.Machine.execGranuleZeroingComplete g s
  | .copy => Sys2Proof.Machine.execCopy s
  | .copyComplete id rd => Sys2Proof.Machine.execCopyComplete id rd s
  | .memFence => Sys2Proof.Machine.execMemFence s
  | .loadNormwatch rd => Sys2Proof.Machine.execLoadNormwatch rd s
  | .queryNormwatch => Sys2Proof.Machine.execQueryNormwatch s
  | .loadPredictor rd => Sys2Proof.Machine.execLoadPredictor rd s
  | .loadExpertSlot => Sys2Proof.Machine.execLoadExpertSlot s
  | .setEventRing => Sys2Proof.Machine.execSetEventRing s
  | .loadUplinkKey rd selfTest => Sys2Proof.Machine.execLoadUplinkKey rd selfTest s
  | .loadCircuits rd => Sys2Proof.Machine.execLoadCircuits rd s
  | .repairEdit => Sys2Proof.Machine.execRepairEdit s
  | .declareReloadable => Sys2Proof.Machine.execDeclareReloadable s
  | .setPools => Sys2Proof.Machine.execSetPools s
  | .regAccess => Sys2Proof.Machine.execRegAccess s
  | .completionRecordWrite ch => Sys2Proof.Machine.execCompletionRecordWrite ch s
  | .cqStall ch => Sys2Proof.Machine.execCqStall ch s
  | .interruptSignal v => Sys2Proof.Machine.execInterruptSignal v s
  | .aspmL1Entry => Sys2Proof.Machine.execAspmL1Entry s
  | .d3hotEntry => Sys2Proof.Machine.execD3hotEntry s
  | .functionLevelReset => Sys2Proof.Machine.execFunctionLevelReset s
  | .proxyRead => Sys2Proof.Machine.execProxyRead s
  | .proxyWrite => Sys2Proof.Machine.execProxyWrite s
  | .proxyInterrupt => Sys2Proof.Machine.execProxyInterrupt s
  | .proxyResponse => Sys2Proof.Machine.execProxyResponse s
  | .adminEnWrite v => Sys2Proof.Machine.execAdminEnWrite v s
  | .adminStopComplete => Sys2Proof.Machine.execAdminStopComplete s
  | .tenCtrlEnWrite req t v => Sys2Proof.Machine.execTenCtrlEnWrite req t v s
  | .tenantEnableEffect t => Sys2Proof.Machine.execTenantEnableEffect t s
  | .fabBypCtrlWrite req v => Sys2Proof.Machine.execFabBypCtrlWrite req v s
  | .fabPortEnWrite req p en enc => Sys2Proof.Machine.execFabPortEnWrite req p en enc s
  | .fabPortRetrain req p => Sys2Proof.Machine.execFabPortRetrain req p s
  | .engStoreCtrlEnWrite req e en ceLimit => Sys2Proof.Machine.execEngStoreCtrlEnWrite req e en ceLimit s
  | .pwrQclkReqWrite req q val => Sys2Proof.Machine.execPwrQclkReqWrite req q val s
  | .lockSet req block => Sys2Proof.Machine.execLockSet req block s
  | .tlmFreezeWrite req v => Sys2Proof.Machine.execTlmFreezeWrite req v s
  | .tstInjEnableWrite req v => Sys2Proof.Machine.execTstInjEnableWrite req v s
  | .tstInjDropWrite req p n => Sys2Proof.Machine.execTstInjDropWrite req p n s
  | .tstInjFlipWrite req p n byte mask => Sys2Proof.Machine.execTstInjFlipWrite req p n byte mask s
  | .tstInjReorderWrite req p w => Sys2Proof.Machine.execTstInjReorderWrite req p w s
  | .rw1cWrite req off val => Sys2Proof.Machine.execRw1cWrite req off val s
  | .memErrlogRead req => Sys2Proof.Machine.execMemErrlogRead req s
  | .lockvRead req block => Sys2Proof.Machine.execLockvRead req block s
  | .pwrStatusRead req => Sys2Proof.Machine.execPwrStatusRead req s
  | .srvTc0WorstRead req => Sys2Proof.Machine.execSrvTc0WorstRead req s
  | .halfReadLatch req off => Sys2Proof.Machine.execHalfReadLatch req off s
  | .registerWrite req off n val => Sys2Proof.Machine.execRegisterWrite req off n val s
  | .getStatus f => Sys2Proof.Machine.execGetStatus f s
  | .regRead f => Sys2Proof.Machine.execRegRead f s
  | .regWrite f => Sys2Proof.Machine.execRegWrite f s
  | .domainRead f => Sys2Proof.Machine.execDomainRead f s
  | .domainWrite f => Sys2Proof.Machine.execDomainWrite f s
  | .unlockChallenge jtag f => Sys2Proof.Machine.execUnlockChallenge jtag f s
  | .unlockResponse jtag f => Sys2Proof.Machine.execUnlockResponse jtag f s
  | .nonceExpiry => Sys2Proof.Machine.execNonceExpiry s
  | .getIdentity f => Sys2Proof.Machine.execGetIdentity f s
  | .flitReceive p flit ue corr => Sys2Proof.Machine.execFlitReceive p flit ue corr s
  | .nackReceive p => Sys2Proof.Machine.execNackReceive p s
  | .replayTimeout p => Sys2Proof.Machine.execReplayTimeout p s
  | .portRetrainTimer p => Sys2Proof.Machine.execPortRetrainTimer p s
  | .portTrainingComplete p lanes peerMod peerRack peerPort rtt => Sys2Proof.Machine.execPortTrainingComplete p lanes peerMod peerRack peerPort rtt s
  | .laneLockLoss p lane => Sys2Proof.Machine.execLaneLockLoss p lane s
  | .laneReturn p lane => Sys2Proof.Machine.execLaneReturn p lane s
  | .laserCheck p powers => Sys2Proof.Machine.execLaserCheck p powers s
  | .ringTuning p lane => Sys2Proof.Machine.execRingTuning p lane s
  | .messageDelivery busy => Sys2Proof.Machine.execMessageDelivery busy s
  | .transportAck => Sys2Proof.Machine.execTransportAck s
  | .e2eTimeout => Sys2Proof.Machine.execE2eTimeout s
  | .stateFlood => Sys2Proof.Machine.execStateFlood s
  | .routeRecompute => Sys2Proof.Machine.execRouteRecompute s
  | .pavaneReq p => Sys2Proof.Machine.execPavaneReq p s
  | .pavaneExchange p => Sys2Proof.Machine.execPavaneExchange p s
  | .pavaneResp p => Sys2Proof.Machine.execPavaneResp p s
  | .pavaneParentLoss => Sys2Proof.Machine.execPavaneParentLoss s
  | .barrierArrive => Sys2Proof.Machine.execBarrierArrive s
  | .barrierRelease => Sys2Proof.Machine.execBarrierRelease s
  | .barrierStart => Sys2Proof.Machine.execBarrierStart s
  | .barrierTimeout g => Sys2Proof.Machine.execBarrierTimeout g s
  | .barrierAbort => Sys2Proof.Machine.execBarrierAbort s
  | .collectiveData c => Sys2Proof.Machine.execCollectiveData c s
  | .bypChange => Sys2Proof.Machine.execBypChange s
  | .bypFault mask => Sys2Proof.Machine.execBypFault mask s
  | .internalFlitReplay l n => Sys2Proof.Machine.execInternalFlitReplay l n s
  | .wcbFlushTimer => Sys2Proof.Machine.execWcbFlushTimer s
  | .patrolScrubRead st => Sys2Proof.Machine.execPatrolScrubRead st s
  | .refresh st => Sys2Proof.Machine.execRefresh st s
  | .mchCalibration st c bad ca restored => Sys2Proof.Machine.execMchCalibration st c bad ca restored s
  | .stackTempRead st temp => Sys2Proof.Machine.execStackTempRead st temp s
  | .selfRefreshEntry st => Sys2Proof.Machine.execSelfRefreshEntry st s
  | .selfRefreshExit st => Sys2Proof.Machine.execSelfRefreshExit st s
  | .refillStart g => Sys2Proof.Machine.execRefillStart g s
  | .refillCheck g rd flips => Sys2Proof.Machine.execRefillCheck g rd flips s
  | .refillRetry g => Sys2Proof.Machine.execRefillRetry g s
  | .peerRefillRead => Sys2Proof.Machine.execPeerRefillRead s
  | .stalledReadTimeout e => Sys2Proof.Machine.execStalledReadTimeout e s
  | .bgSlice activity unit => Sys2Proof.Machine.execBgSlice activity unit s
  | .telemetrySample => Sys2Proof.Machine.execTelemetrySample s
  | .powerSample mv amps ceils => Sys2Proof.Machine.execPowerSample mv amps ceils s
  | .supplyWarn mv => Sys2Proof.Machine.execSupplyWarn mv s
  | .warnRelease => Sys2Proof.Machine.execWarnRelease s
  | .supplyRecover => Sys2Proof.Machine.execSupplyRecover s
  | .powerReset mv => Sys2Proof.Machine.execPowerReset mv s
  | .powerResetRelease slot ga mv => Sys2Proof.Machine.execPowerResetRelease slot ga mv s
  | .standbyReset => Sys2Proof.Machine.execStandbyReset s
  | .moduleReset => Sys2Proof.Machine.execModuleReset s
  | .perstAssert => Sys2Proof.Machine.execPerstAssert s
  | .perstDeassert => Sys2Proof.Machine.execPerstDeassert s
  | .fastOff => Sys2Proof.Machine.execFastOff s
  | .fastOffRelease => Sys2Proof.Machine.execFastOffRelease s
  | .thermalSample temps inlet outlet flow => Sys2Proof.Machine.execThermalSample temps inlet outlet flow s
  | .hwThermalTrip => Sys2Proof.Machine.execHwThermalTrip s
  | .quadrantRetention q => Sys2Proof.Machine.execQuadrantRetention q s
  | .quadrantPllOff q => Sys2Proof.Machine.execQuadrantPllOff q s
  | .quadrantOff q => Sys2Proof.Machine.execQuadrantOff q s
  | .quadrantWake q => Sys2Proof.Machine.execQuadrantWake q s
  | .clockRampDone q => Sys2Proof.Machine.execClockRampDone q s
  | .quadPllUnlock q => Sys2Proof.Machine.execQuadPllUnlock q s
  | .controlCoreWatchdog => Sys2Proof.Machine.execControlCoreWatchdog s
  | .quadrantReset q => Sys2Proof.Machine.execQuadrantReset q s
  | .firmwareAccept a b => Sys2Proof.Machine.execFirmwareAccept a b s
  | .firmwarePhaseComplete selfTest repairBad => Sys2Proof.Machine.execFirmwarePhaseComplete selfTest repairBad s
  | .memoryPhaseComplete res => Sys2Proof.Machine.execMemoryPhaseComplete res s
  | .fabricPhaseComplete => Sys2Proof.Machine.execFabricPhaseComplete s
  | .coolantRestored => Sys2Proof.Machine.execCoolantRestored s
  | .domainMessage => Sys2Proof.Machine.execDomainMessage s
  | .domainElection => Sys2Proof.Machine.execDomainElection s
  | .domainRetry => Sys2Proof.Machine.execDomainRetry s
  | .domainFormed => Sys2Proof.Machine.execDomainFormed s
  | .memberJoin m => Sys2Proof.Machine.execMemberJoin m s
  | .memberLeave m cause => Sys2Proof.Machine.execMemberLeave m cause s
  | .headLoss headReset => Sys2Proof.Machine.execHeadLoss headReset s
  | .standbyRailUp => Sys2Proof.Machine.execStandbyRailUp s
  | .holdupCharged => Sys2Proof.Machine.execHoldupCharged s
  | .modRstRelease slot ga => Sys2Proof.Machine.execModRstRelease slot ga s
  | .hostLinkUp => Sys2Proof.Machine.execHostLinkUp s
  | .d3hotExit => Sys2Proof.Machine.execD3hotExit s
  | .lightReturn p => Sys2Proof.Machine.execLightReturn p s
  | .lightLoss p => Sys2Proof.Machine.execLightLoss p s
  | .flitTransmit p => Sys2Proof.Machine.execFlitTransmit p s
  | .proxyReadReturn tag rd => Sys2Proof.Machine.execProxyReadReturn tag rd s
  | .returnBundleArrival => Sys2Proof.Machine.execReturnBundleArrival s
  | .hubPllUnlock => Sys2Proof.Machine.execHubPllUnlock s
  | .controlCoreMemoryUe => Sys2Proof.Machine.execControlCoreMemoryUe s
  | .dynamicAddressAssign addr => Sys2Proof.Machine.execDynamicAddressAssign addr s
  | .rstdaa => Sys2Proof.Machine.execRstdaa s
  | .managementClockTimeout => Sys2Proof.Machine.execManagementClockTimeout s
  | .domainWriteDone => Sys2Proof.Machine.execDomainWriteDone s
  | .boundaryScan => Sys2Proof.Machine.execBoundaryScan s

end Sys2Proof.Machine
end

