-- ==== Sys2Proof/Machine/Tick.lean ====
section
/-! DEFINITION. What happens in one nanosecond without a command (log 1): the time, the Pavane counter, the counts of throttled,
frozen and held time, and in-band alerts. -/

namespace Sys2Proof.Machine

def rTHROTTLED : Nat := 0x10030
def rHOLD_TIME : Nat := 0x10038

/-- Pavane runs while the hub is out of reset (R414, R590). -/
def State.pavNs (s : State) : State := if s.inReset then s else s.pavTick

/-- Throttled time, and its register in units of 100 ns (R574, R585). -/
def State.thrNs (s : State) : State :=
  if s.throttling then
    (let s1 : State := { s with thr := s.thr + 1 }
     if s1.thr % 100 = 0 then s1.count rTHROTTLED 1 else s1)
  else s

/-- Frozen time (R575, R577). -/
def State.frzNs (s : State) : State :=
  if bit (s.reg rPWR_STATUS).toNat 2 then { s with frz := s.frz + 1 } else s

/-- Time with starts held, and its register in microseconds (R565, R579, R585). -/
def State.holdTick (s : State) : State :=
  if bit (s.reg rPWR_STATUS).toNat 6 then
    (if s.supply.holdNs = 999 then ({ s with supply := { s.supply with holdNs := 0 } } : State).count rHOLD_TIME 1
     else { s with supply := { s.supply with holdNs := s.supply.holdNs + 1 } })
  else s

/-- The end of a calibration, which quiesces its MCH for 1 µs (R327, R330; log 153). -/
def State.calTick (s : State) : State :=
  (s.mem.calAt.filter (fun kv => decide (kv.2 + 1000 ≤ s.now))).foldl (fun s kv =>
    ({ s with mem := { s.mem with calAt := SMap.erase s.mem.calAt kv.1 } } : State).setField (memOff kv.1 0x10) 10 1 0) s

/-- One nanosecond. -/
def State.tick (s : State) : State :=
  (({ s with now := s.now + 1 } : State).pavNs.thrNs.frzNs.holdTick.calTick).inBandTick

end Sys2Proof.Machine
end

