-- ==== Sys2Proof/WellFormed.lean ====
section
/-! DEFINITION. Which commands are well formed: a slot word carries the OP of its row (R157, R165 to R204), a command of the management
bus its code (R640), and lists and numbers from outside have the sizes that their rules give. -/

namespace Sys2Proof

/-- OP, bits [5:0] of a slot word (R157), is a row's own; or it is 0, a no-operation, or a reserved value, which no row names and any
row of the slot may carry (R158, R159; log 138). -/
def opIs (slot : Nat) (w : W64) (op : Nat) : Bool :=
  let o := w.toNat % 64
  o == op || o == 0 || !opListed slot o

/-- KIND of a DMA operation, bits [13:10] (R197), is a row's own or a reserved one (R159). -/
def kindIs (w : W64) (k : Nat) : Bool :=
  let n := w.toNat / 1024 % 16
  w.toNat % 64 != 3 || n == k || decide (8 ≤ n)

/-- The first byte of a management frame is its command code; LEN allows 255 bytes of data (R640). -/
def frameIs (f : Bytes) (c : Nat) : Bool :=
  (match f with
   | b :: _ => b.toNat == c
   | [] => false) && f.length ≤ 258

/-- No engine is named twice. -/
def noRepeat : List EngId → Bool
  | [] => true
  | e :: t => !t.contains e && noRepeat t

/-- Background activities and their units (R544). -/
def bgUnit (activity unit : Nat) : Bool :=
  match activity with
  | 0 => unit < 192
  | 1 => unit < 8
  | 2 => unit < 256
  | 3 => unit < 128
  | 4 => unit < 1
  | _ => false

/-- A repaired MCH replaces at least one lane: data lanes are 0 to 67, and command/address lanes lie below 31, the value for none (R313,
R331). -/
def Trained.lanesOk : Trained → Bool
  | .repaired a b ca => a.all (· < 68) && b.all (· < 68) && ca.all (· < 31) && (a.isSome || b.isSome || ca.isSome) && (a.isNone || a != b)
  | _ => true

/-- Whether a command is well formed. -/
def Instr.wf : Instr → Bool
  | .tbD _ w => opIs 0 w 0x01
  | .tbS _ w => opIs 0 w 0x02
  | .tbP _ w => opIs 0 w 0x03
  | .laD _ _ w => opIs 1 w 0x01
  | .laS _ _ w => opIs 1 w 0x02
  | .laC _ _ w => opIs 1 w 0x03
  | .laCs _ _ w => opIs 1 w 0x04
  | .laP _ _ w => opIs 1 w 0x05
  | .iadd _ w => opIs 3 w 0x01
  | .isub _ w => opIs 3 w 0x02
  | .imin _ w => opIs 3 w 0x03
  | .imax _ w => opIs 3 w 0x04
  | .vxAnd _ w => opIs 3 w 0x05
  | .vxOr _ w => opIs 3 w 0x06
  | .vxXor _ w => opIs 3 w 0x07
  | .shl _ w => opIs 3 w 0x08
  | .shra _ w => opIs 3 w 0x09
  | .shrl _ w => opIs 3 w 0x0A
  | .icmp _ w => opIs 3 w 0x0B
  | .sel _ w => opIs 3 w 0x0C
  | .lmul _ w => opIs 3 w 0x10
  | .ldiv _ w => opIs 3 w 0x11
  | .ladd _ w => opIs 3 w 0x12
  | .lsub _ w => opIs 3 w 0x13
  | .lsqr _ w => opIs 3 w 0x14
  | .lsqrt _ w => opIs 3 w 0x15
  | .lexp2 _ w => opIs 3 w 0x16
  | .llog2 _ w => opIs 3 w 0x17
  | .lcmp _ w => opIs 3 w 0x18
  | .lmax _ w => opIs 3 w 0x19
  | .lmin _ w => opIs 3 w 0x1A
  | .lneg _ w => opIs 3 w 0x1B
  | .vxCvt _ w => opIs 3 w 0x20
  | .rmax _ w => opIs 3 w 0x28
  | .rsum _ w => opIs 3 w 0x29
  | .vxMov _ w => opIs 3 w 0x30
  | .bcast _ w => opIs 3 w 0x31
  | .tos _ w => opIs 3 w 0x32
  | .xchg _ w => opIs 3 w 0x33
  | .plogic _ w => opIs 3 w 0x34
  | .iota _ w => opIs 3 w 0x35
  | .fold _ w => opIs 4 w 0x01
  | .rqCvt _ w => opIs 4 w 0x02
  | .merge _ w => opIs 4 w 0x03
  | .anp _ w => opIs 4 w 0x04
  | .anpMeasurement _ w => opIs 4 w 0x04
  | .rqClr _ w => opIs 4 w 0x05
  | .mvLd _ w => opIs 5 w 0x01
  | .mvSt _ w => opIs 5 w 0x02
  | .mvStr _ w => opIs 5 w 0x03
  | .mvAcw _ w => opIs 5 w 0x04
  | .mvAgset _ w => opIs 5 w 0x05
  | .mvThset _ w => opIs 5 w 0x06
  | .mvThadd _ w => opIs 5 w 0x07
  | .xopen _ w => opIs 5 w 0x08
  | .mvSld _ w => opIs 5 w 0x09
  | .mvSst _ w => opIs 5 w 0x0A
  | .syNop _ w => opIs 7 w 0x00
  | .send _ w => opIs 7 w 0x01
  | .wait _ w => opIs 7 w 0x02
  | .stackLoad _ w => opIs 7 w 0x03 && kindIs w 0
  | .stackStore _ w => opIs 7 w 0x03 && kindIs w 1
  | .hostLoad _ w => opIs 7 w 0x03 && kindIs w 2
  | .hostStore _ w => opIs 7 w 0x03 && kindIs w 3
  | .planeGather _ w => opIs 7 w 0x03 && kindIs w 4
  | .marlGather _ w => opIs 7 w 0x03 && kindIs w 5
  | .peer _ w => opIs 7 w 0x03 && kindIs w 6
  | .stackCopy _ w => opIs 7 w 0x03 && kindIs w 7
  | .fmtFence _ w => opIs 7 w 0x04
  | .qsend _ w => opIs 7 w 0x05
  | .svsend _ w => opIs 7 w 0x06
  | .endOp _ w => opIs 7 w 0x07
  | .brc _ w => opIs 6 w 0x01
  | .jmp _ w => opIs 6 w 0x02
  | .loop _ w => opIs 6 w 0x03
  | .sadd _ w => opIs 6 w 0x10
  | .ssub _ w => opIs 6 w 0x11
  | .sand _ w => opIs 6 w 0x12
  | .sor _ w => opIs 6 w 0x13
  | .sxor _ w => opIs 6 w 0x14
  | .sshl _ w => opIs 6 w 0x15
  | .sshr _ w => opIs 6 w 0x16
  | .ssra _ w => opIs 6 w 0x17
  | .smin _ w => opIs 6 w 0x18
  | .smax _ w => opIs 6 w 0x19
  | .slt _ w => opIs 6 w 0x1A
  | .sltu _ w => opIs 6 w 0x1B
  | .sli _ w => opIs 6 w 0x1C
  | .slih _ w => opIs 6 w 0x1D
  | .busyRepeat _ => true
  | .tokenRelease _ _ => true
  | .tokenArrival _ _ _ => true
  | .waitSatisfied _ _ => true
  | .storeAck _ _ => true
  | .dmaCompletion _ _ _ => true
  | .dmaFailure _ _ _ => true
  | .networkWriteArrival _ _ => true
  | .kaolinWriteback _ _ _ => true
  | .checkerDone _ _ _ => true
  | .kaolinScrub _ => true
  | .yieldOverrun _ _ => true
  | .suspendRequest _ => true
  | .suspend _ => true
  | .resume _ engines => noRepeat engines
  | .workItemStart _ engines => noRepeat engines
  | .tc0Start _ engines => noRepeat engines
  | .programCopy _ _ => true
  | .enginePartEnd _ => true
  | .workItemStop _ => true
  | .workItemComplete _ _ => true
  | .engineClear _ => true
  | .clearingDone _ => true
  | .clearFail _ => true
  | .enginePoolMove _ => true
  | .reelBalancerEvaluation => true
  | .instanceOpen => true
  | .admission _ => true
  | .bundleSend _ _ => true
  | .bundleArrival => true
  | .expertWorkStart _ engines => noRepeat engines
  | .returnArrival => true
  | .mergeRows _ _ => true
  | .expertTimeout _ => true
  | .qsendIncomplete _ => true
  | .predictorEvaluation _ _ => true
  | .normWatchDecision _ _ => true
  | .commitPoint _ => true
  | .slotSample => true
  | .doorbellPoll _ => true
  | .doorbellRead _ _ _ => true
  | .notify _ => true
  | .wakeWrite _ len val => (len == 4 || len == 8) && val < 2 ^ (8 * len)
  | .descriptorArrival _ _ _ => true
  | .hostReadTimeout _ => true
  | .work _ grp => grp.all (fun m => m < 64 * 64)
  | .cancel _ => true
  | .nop _ => true
  | .createChannel => true
  | .destroyChannel => true
  | .channelDestroyComplete _ => true
  | .haltChannel => true
  | .resumeChannel => true
  | .loadProgram _ => true
  | .unloadProgram => true
  | .regStream => true
  | .deregStream => true
  | .streamRemoval _ _ => true
  | .assignGranules => true
  | .releaseGranules => true
  | .granuleZeroingComplete _ => true
  | .copy => true
  | .copyComplete _ _ => true
  | .memFence => true
  | .loadNormwatch _ => true
  | .queryNormwatch => true
  | .loadPredictor _ => true
  | .loadExpertSlot => true
  | .setEventRing => true
  | .loadUplinkKey _ _ => true
  | .loadCircuits _ => true
  | .repairEdit => true
  | .declareReloadable => true
  | .setPools => true
  | .regAccess => true
  | .completionRecordWrite _ => true
  | .cqStall _ => true
  | .interruptSignal _ => true
  | .aspmL1Entry => true
  | .d3hotEntry => true
  | .functionLevelReset => true
  | .proxyRead => true
  | .proxyWrite => true
  | .proxyInterrupt => true
  | .proxyResponse => true
  | .adminEnWrite _ => true
  | .adminStopComplete => true
  | .tenCtrlEnWrite _ _ _ => true
  | .tenantEnableEffect _ => true
  | .fabBypCtrlWrite _ _ => true
  | .fabPortEnWrite _ _ _ _ => true
  | .fabPortRetrain _ _ => true
  | .engStoreCtrlEnWrite _ _ _ _ => true
  | .pwrQclkReqWrite _ _ _ => true
  | .lockSet _ _ => true
  | .tlmFreezeWrite _ _ => true
  | .tstInjEnableWrite _ _ => true
  | .tstInjDropWrite _ _ _ => true
  | .tstInjFlipWrite _ _ _ _ _ => true
  | .tstInjReorderWrite _ _ _ => true
  | .rw1cWrite _ _ _ => true
  | .memErrlogRead _ => true
  | .lockvRead _ _ => true
  | .pwrStatusRead _ => true
  | .srvTc0WorstRead _ => true
  | .halfReadLatch _ _ => true
  | .registerWrite _ _ n val => (n == 4 || n == 8) && val < 2 ^ (8 * n)
  | .getStatus f => frameIs f 1
  | .regRead f => frameIs f 2
  | .regWrite f => frameIs f 3
  | .domainRead f => frameIs f 4
  | .domainWrite f => frameIs f 5
  | .unlockChallenge _ f => frameIs f 6
  | .unlockResponse _ f => frameIs f 7
  | .nonceExpiry => true
  | .getIdentity f => frameIs f 8
  | .flitReceive _ flit _ _ => flit.length == 256
  | .nackReceive _ => true
  | .replayTimeout _ => true
  | .portRetrainTimer _ => true
  | .portTrainingComplete _ _ peerMod peerRack peerPort _ => peerMod < 64 && peerRack < 64 && peerPort < 16
  | .laneLockLoss _ _ => true
  | .laneReturn _ _ => true
  | .laserCheck _ powers => powers.length == 8
  | .ringTuning _ _ => true
  | .messageDelivery _ => true
  | .transportAck => true
  | .e2eTimeout => true
  | .stateFlood => true
  | .routeRecompute => true
  | .pavaneReq _ => true
  | .pavaneExchange _ => true
  | .pavaneResp _ => true
  | .pavaneParentLoss => true
  | .barrierArrive => true
  | .barrierRelease => true
  | .barrierStart => true
  | .barrierTimeout _ => true
  | .barrierAbort => true
  | .collectiveData _ => true
  | .bypChange => true
  | .bypFault _ => true
  | .internalFlitReplay _ _ => true
  | .wcbFlushTimer => true
  | .patrolScrubRead _ => true
  | .refresh _ => true
  | .mchCalibration _ _ bad _ _ => bad.all (fun l => l < 68)
  | .stackTempRead _ _ => true
  | .selfRefreshEntry _ => true
  | .selfRefreshExit _ => true
  | .refillStart _ => true
  | .refillCheck _ _ _ => true
  | .refillRetry _ => true
  | .peerRefillRead => true
  | .stalledReadTimeout _ => true
  | .bgSlice activity unit => bgUnit activity unit
  | .telemetrySample => true
  | .powerSample _ _ ceils => ceils.length == 8
  | .supplyWarn _ => true
  | .warnRelease => true
  | .supplyRecover => true
  | .powerReset _ => true
  | .powerResetRelease slot ga _ => slot < 64 && ga < 64
  | .standbyReset => true
  | .moduleReset => true
  | .perstAssert => true
  | .perstDeassert => true
  | .fastOff => true
  | .fastOffRelease => true
  | .thermalSample temps _ _ _ => temps.length == 40
  | .hwThermalTrip => true
  | .quadrantRetention _ => true
  | .quadrantPllOff _ => true
  | .quadrantOff _ => true
  | .quadrantWake _ => true
  | .clockRampDone _ => true
  | .quadPllUnlock _ => true
  | .controlCoreWatchdog => true
  | .quadrantReset _ => true
  | .firmwareAccept _ _ => true
  | .firmwarePhaseComplete _ _ => true
  | .memoryPhaseComplete res => res.length == 256 && res.all Trained.lanesOk
  | .fabricPhaseComplete => true
  | .coolantRestored => true
  | .domainMessage => true
  | .domainElection => true
  | .domainRetry => true
  | .domainFormed => true
  | .memberJoin _ => true
  | .memberLeave _ cause => 1 ≤ cause && cause ≤ 4
  | .headLoss _ => true
  | .standbyRailUp => true
  | .holdupCharged => true
  | .modRstRelease slot ga => slot < 64 && ga < 64
  | .hostLinkUp => true
  | .d3hotExit => true
  | .lightReturn _ => true
  | .lightLoss _ => true
  | .flitTransmit _ => true
  | .proxyReadReturn _ _ => true
  | .returnBundleArrival => true
  | .hubPllUnlock => true
  | .controlCoreMemoryUe => true
  | .dynamicAddressAssign _ => true
  | .rstdaa => true
  | .managementClockTimeout => true
  | .domainWriteDone => true
  | .boundaryScan => true

end Sys2Proof
end

