-- ==== Sys2Proof/Safety.lean ====
section
/-! DEFINITION. The terms that statements use: the canonical form every step keeps, when an engine takes a slot operation, and what
an operation leaves behind. -/

namespace Sys2Proof.Machine

/-- The stacks' bytes and the register file are in canonical form: keys strictly rising, no byte listed that reads 0 anyway. -/
def State.canonical (s : State) : Prop := Memory.wf s.mem.data = true ∧ SMap.wf s.regs = true

/-- Field `lo … lo + len - 1` of a slot word, as a number (R157). -/
def slotField (w : W64) (lo len : Nat) : Nat := (w.extractLsb' lo len).toNat

/-- Engine `e` takes a word of slot `k` now (R112, R113, R124, R205): it can issue, every operation of its open bundle stands
in an earlier slot, and the bundle lies in the code. -/
def State.slotFree (s : State) (e k : Nat) : Prop :=
  s.canIssue e = true ∧ (∀ j ∈ (s.engine e).issued, slotOf j < k) ∧
    (s.engine e).snap.pc < (s.item (s.engine e).item).hdr.bundles

/-- It takes the word `w`, whose OP is one that the slot's table lists, other than the no-operation's (R157 to R159). -/
def State.slotOpen (s : State) (e k : Nat) (w : W64) : Prop :=
  s.slotFree e k ∧ opListed k (slotField w 0 6) = true ∧ slotField w 0 6 ≠ 0

/-- The state after operation `i` of the open bundle of engine `e` has made the engine `x`. -/
def State.issuedAs (s : State) (e : Nat) (i : Instr) (x : Engine) : State :=
  s.setEngine e { x with issued := x.issued ++ [i] }

/-- An engine with one more result in flight: visible `lat` schedule positions from now (R120). -/
def Engine.plus (en : Engine) (lat slot : Nat) (r : Res) : Engine :=
  { en with core := { en.core with pend := en.core.pend ++ [⟨en.core.pos + lat, en.core.pos, slot, r, en.core.pos⟩] } }

/-- The elements that mask register `m` selects, with a value for each (R160). -/
def Core.masked (c : Core) (m : Nat) (f : Nat → W32) : List (Nat × W32) :=
  ((List.range 64).filter (c.pm m)).map (fun k => (k, f k))

/-- COND of a signed comparison (R177). -/
def signedCmp (c : Nat) (a b : W32) : Bool :=
  match c with
  | 0 => a == b
  | 1 => a != b
  | 2 => a.slt b
  | 3 => a.sle b
  | 4 => b.slt a
  | _ => b.sle a

/-- What L16 results leave to be noted, each with whether an operand was OVF already: the underflows are counted, and a new OVF is an
overflow condition (R98, R226). -/
def l16Notes (rs : List (LRes × Bool)) : List Staged :=
  (if (rs.filter (fun r => r.1.under)).length = 0 then [] else [.count oL16_UFL (rs.filter (fun r => r.1.under)).length])
    ++ (if rs.any (fun r => decide (r.1.code = lOVF) && !r.2) then [.ovr 255] else [])

/-- The pairwise tree of R179 over 64 values. -/
def treeOf64 {α : Type} (f : α → α → α) (l : List α) : Option α :=
  (pairUp f (pairUp f (pairUp f (pairUp f (pairUp f (pairUp f l)))))).head?

/-- Engine `e` issues its bundles alone, no instruction word of its open bundle is in error, and the operations of that bundle have left
nothing to do outside the engine; no fence is under way (R120, R134, R289). -/
def State.quiet (s : State) (e : Nat) : Prop :=
  s.group e = [e] ∧ (s.engine e).core.fence = none ∧ (∀ kv ∈ (s.engine e).istoreErr, kv.1 / 8 ≠ (s.engine e).snap.pc) ∧ (s.engine e).staged = []

/-- Engine `e` issues its bundles alone, its bundle is open, and no fence holds it: no schedule position is due to end (R124, R134, R655). -/
def State.bundleOpen (s : State) (e : Nat) : Prop :=
  s.group e = [e] ∧ (s.engine e).closed = none ∧ (s.engine e).bubbles = 0

/-- The bundle of engine `e` has issued: the next one is open, `n` schedule positions later, and every other engine is as it was (R120,
R121). -/
def State.bundleDone (s : State) (e n : Nat) (t : State) : Prop :=
  (t.engine e).issued = [] ∧ (t.engine e).staged = [] ∧ (t.engine e).closed = none ∧ (t.engine e).snap = (t.engine e).core ∧
  (t.engine e).core.pos = (s.engine e).core.pos + n ∧
  ((s.engine e).core.branch = [] → (s.engine e).core.loops = [] → (s.engine e).core.skip = 0 →
    (t.engine e).core.pc = (s.engine e).core.pc + 1) ∧
  ∀ d, d ≠ e → t.engine d = s.engine d

/-- No ring takes device events, and one more is held until the driver sets one up (R605). -/
def State.holdsEvents (s : State) : Prop := SMap.find? s.rings 255 = none ∧ s.evHeld.length < 256

/-- An event is the first that a command raised; the module holds it for the device ring (R467, R605). -/
def State.told (s t : State) (code handle : Nat) (tenant : Option Nat) (det : List (Nat × Nat)) : Prop :=
  s.evHeld ++ [⟨code, handle, tenant, s.pav, detailBytes det []⟩] <+: t.evHeld

/-- A counter has gone up (R156, R295). -/
def State.counted (s t : State) (off n : Nat) : Prop := (t.reg off).toNat = ((s.reg off).toNat + n) % 2 ^ 48

/-- A work item has been told to stop, with this status and the event behind it (R154, R536). -/
def State.stopping (s t : State) (item st ev : Nat) : Prop :=
  (t.item item).phase = .stopping ∧ (t.item item).stopped = true ∧ (t.item item).statuses = (s.item item).statuses ++ [(st, ev)]

/-- It has been told to stop; its statuses hold this one, among those that what it closes still brings. -/
def State.stoppingWith (t : State) (item st ev : Nat) : Prop :=
  (t.item item).phase = .stopping ∧ (t.item item).stopped = true ∧ (st, ev) ∈ (t.item item).statuses

/-- A work item stands where it still can be stopped. -/
def State.alive (s : State) (item : Nat) : Prop :=
  ∃ w, SMap.find? s.items item = some w ∧ w.phase ≠ .ended ∧ w.phase ≠ .complete

/-- The stacks, granules, regions, images and keys of the module are as they were. -/
def State.keepsData (s t : State) : Prop :=
  t.mem = s.mem ∧ t.grans = s.grans ∧ t.regions = s.regions ∧ t.images = s.images ∧ t.keys = s.keys

/-- A work item runs on these engines, in logical order, from its entry (R118, R153). -/
def State.startedOn (t : State) (item : Nat) (w : WorkItem) (l : List Nat) : Prop :=
  (t.item item).phase = .running ∧ (t.item item).engines = l ∧ ∀ p ∈ l.zipIdx,
    (t.engine p.1).st = .running ∧ (t.engine p.1).item = item ∧ (t.engine p.1).logical = p.2 ∧ (t.engine p.1).bound = some w.tenant ∧
    (t.engine p.1).core.pc = w.hdr.entry ∧ (t.engine p.1).core.pend = [] ∧ (t.engine p.1).core.loops = []

/-- The head carries out admin descriptor `d` of a kind and for itself next: it stands first in the ring, the admin channel is active, and no
COPY holds it back (R463, R464). -/
def State.adminTurn (s : State) (d : Desc) (kind : Nat) : Prop :=
  s.fatal = false ∧ s.isHead = true ∧ s.copies = [] ∧ field d.bytes 0 1 = kind ∧ adMember d.bytes = s.self ∧
    ∃ c rest, SMap.find? s.chans 0 = some c ∧ c.st = .active ∧ c.fetched = d :: rest

/-- That descriptor has completed: it has left the ring, and its record, with status OK unless said otherwise and this RESULT, is the last of
those that wait to be written (R457, R463). -/
def State.adminAnswered (s t : State) (d : Desc) (result : Nat) (st : Nat := stOK) (ev : Nat := 0) : Prop :=
  (t.chan 0).fetched = (s.chan 0).fetched.drop 1 ∧
  (t.chan 0).recs = (s.chan 0).recs ++ [⟨recBytes d.seq st fDONE 0 2 result 0 0 0 0 0 ev, bit (adFlags d.bytes) 0⟩]

/-- A port is DOWN with a cause, and holds neither a flit nor a message any more (R384, R391). -/
def State.portIsDown (t : State) (p cause : Nat) : Prop :=
  t.portSt p = 4 ∧ t.lanes p = 0 ∧ t.getField (portOff p 8) 11 4 = cause ∧ (t.port p).replay = [] ∧ (t.port p).txq = []

/-- Nothing that the hub, the engines, channels or tenants held is left (R589, R590). -/
def State.emptied (t : State) : Prop :=
  t.items = [] ∧ t.chans = [] ∧ t.images = [] ∧ t.streams = [] ∧ t.keys = [] ∧ t.regions = [] ∧ t.grans = [] ∧ t.insts = [] ∧ t.seqs = [] ∧
  t.rings = [] ∧ t.reads = []

/-- A host read of this waiter is under way on the head, and nothing of it has come through the proxy (R462). -/
def State.readOut (s : State) (who : ReadWho) : Prop := s.isHead = true ∧ s.arrived = [] ∧ s.awaiting who = true

/-- A store as an engine's own reads see it now: without its writes whose latency has not passed (R120). -/
def Engine.sees (en : Engine) (id : StoreId) : Store := en.core.viewAt id en.core.pos

/-- Where the operand of a lookup-accumulate of slot `1 + half` is read whole from the Kaolin store without errors or marks: the generator names
that store, the operand lies inside what the program declared, the unit is free, the other half is not at the same tile, and the tile
carries the operation's tag (R37, R41, R107, R169 to R171). -/
def laReads (s : State) (en : Engine) (k : LKind) (half : Nat) (w : W64) : Prop :=
  w.getLsbD 26 = false ∧ w.getLsbD 27 = false ∧ en.unitFree (1 + half) = true ∧
  (en.core.pos < SMap.get en.core.occ (2 - half) 0 → SMap.get en.core.laTile (2 - half) 4 ≠ slotField w 9 2) ∧
  (en.core.g (slotField w 22 4)).store = 1 ∧
  (en.core.g (slotField w 22 4)).cur.toNat / k.align * k.align + k.bytes ≤ (s.item en.item).hdr.kNeed ∧
  (en.sees .kaolin).errs = [] ∧ (en.sees .kaolin).marks = [] ∧ en.core.table.errs = [] ∧
  (en.core.tile (slotField w 9 2)).tag.toNat = slotField w 29 4 + 16 * k.mode + (if w.getLsbD 33 then 64 else 0)

/-- Byte `i` of such an operand. -/
def laByte (en : Engine) (k : LKind) (w : W64) (i : Nat) : Nat :=
  (Memory.read (en.sees .kaolin).data ((en.core.g (slotField w 22 4)).cur.toNat / k.align * k.align + i)).toNat

/-- Signed entry `i` of the table of token position `n` in the set that a table-mode operation names, as its first cycle sees the table file
(R46, R49, R50, R164). -/
def laTable (en : Engine) (k : LKind) (w : W64) (n i : Nat) : Int :=
  tEntry (tableView en.core (readCycle en.core.writes 8 en.core.pos))
    (setAddr k.tkind (en.core.t (slotField w 11 4)) (slotField w 15 7)) k.tkind.slot n i

/-- Element `j` of token position `n` that a TB operation reads: 0 beyond K or on the other side of a boundary, else the signed value in the Loam
store (R55, R167). -/
def tbElem (en : Engine) (w : W64) (n j : Nat) : Int :=
  let fmt := slotField w 39 4
  let k := (en.core.sw (slotField w 24 5)).toNat + j
  let base := ((en.core.g (slotField w 20 4)).cur.toNat + n * (en.core.sw (slotField w 34 5)).toNat) % 2 ^ 32
  if readsElem (en.core.sw (slotField w 24 5)).toNat (en.core.sw (slotField w 29 5)).toNat (slotField w 43 2) k then
    actVal fmt k (Memory.read (en.sees .loam).data (actByte fmt base k)).toNat
  else 0

end Sys2Proof.Machine
end

