-- ==== Sys2Proof/Certificates/Slice0/Obligations.lean ====
section
/-! DEFINITION. Statements about the module, for the provers. Each names the rule it states or rests on. -/

open Sys2Proof Sys2Proof.Machine

/-! ### The module as a whole -/

/-- The step rule (the model's own; log 1): with a command at the front of the queue, a step is exactly `exec` of it on the state whose queue is the
rest. -/
def Obligations.StepRunsFrontCommand : Prop :=
  ∀ (s : State) (c : Instr) (rest : List Instr), s.pending = c :: rest → step s = exec c { s with pending := rest }

/-- Every command completes in every state, so that nothing the module is told stops it; no command puts commands into the queue or takes them
out, and none lets time pass: only the step itself removes its own command, and only an empty queue advances the time (the model's choice; log 1). -/
def Obligations.CommandsLeaveQueueAndTime : Prop :=
  (∀ (c : Instr) (s : State), ∃ t, exec c s = .next t ∧ t.pending = s.pending ∧ t.now = s.now) ∧
  (∀ s : State, ∃ t, step s = .next t ∧ t.pending = s.pending.tail ∧ t.now = s.now + (if s.pending = [] then 1 else 0))

/-- The bytes of the stacks and the register file stay in canonical form whatever the module does: every step from a state that
has it leads to one that has it. -/
def Obligations.StepKeepsCanonicalForm : Prop :=
  ∀ s t : State, s.canonical → step s = .next t → t.canonical

/-- The state after a standby reset has the canonical form. -/
def Obligations.ResetIsCanonical : Prop := State.reset.canonical

/-- R16, R589, R590: after the reset every register reads its reset value, memory reads zero, no engine runs, nothing waits; the module stands
in reset. That unwritten memory reads as zero is the model's choice (log 4). -/
def Obligations.ResetLeavesResetValues : Prop :=
  (∀ off, State.reset.reg off = resetVal off) ∧ (∀ a, Memory.read State.reset.mem.data a = 0) ∧
  (∀ e, (State.reset.engine e).st = .idle) ∧ State.reset.pending = [] ∧ State.reset.chans = [] ∧ State.reset.inReset = true

/-- With no command waiting a nanosecond passes (the model's choice; log 1): the time goes on by one; the Pavane counter, out of reset and not
steered, by one tick modulo 2⁶⁴, in reset not at all; memory, engines, channels and queues of messages stay. A calibration under way ends a
microsecond after it began (R327, R330; that it lasts a microsecond is the model's choice, log 153). -/
def Obligations.IdleStepPassesOneNanosecond : Prop :=
  ∀ s : State, s.pending = [] → ∃ t, step s = .next t ∧ t.now = s.now + 1 ∧ t.pending = [] ∧ t.mem = { s.mem with calAt := t.mem.calAt } ∧
    (∀ k t0, s.mem.calAt = [(k, t0)] → s.canonical →
      t.mem.calAt = (if t0 + 1000 ≤ s.now + 1 then [] else [(k, t0)]) ∧ (t0 + 1000 ≤ s.now + 1 → t.getField (memOff k 0x10) 10 1 = 0)) ∧
    t.eng = s.eng ∧ t.chans = s.chans ∧ t.items = s.items ∧ t.inbox = s.inbox ∧ t.outbox = s.outbox ∧
    (s.inReset = true → t.pav = s.pav) ∧ (s.inReset = false → s.pavane.steer = 0 → t.pav = (s.pav + 1) % 2 ^ 64)

/-! ### Slot operations: TB and LA -/

/-- R43, R44, R46, R48, R51 to R54, R64, R66: what a lane looks up in a table built from activations x is the dot product of x with the trits of its
code (or the ±1 digits of its plane byte); codes 243 to 255 and 51 to 63 are invalid and look nothing up. -/
def Obligations.LookupIsDotProduct : Prop :=
  let looked (entry : Nat → Int) (l : Lane) : Option Int := match l with
    | .entry i neg => some (if neg then -entry i else entry i)
    | .zero => some 0
    | .invalid => none
  (∀ x0 x1 x2 x3 x4 t0 t1 t2 t3 t4 : Int, (∀ t ∈ [t0, t1, t2, t3, t4], t = -1 ∨ t = 0 ∨ t = 1) →
    looked (denseEntry [x0, x1, x2, x3, x4]) (laneD (some (121 + t0 + 3 * t1 + 9 * t2 + 27 * t3 + 81 * t4).toNat)) =
      some (t0 * x0 + t1 * x1 + t2 * x2 + t3 * x3 + t4 * x4)) ∧
  (∀ (x0 x1 x2 x3 x4 : Int) (p s : Nat), p < 5 → s < 2 →
    looked (entry25 [x0, x1, x2, x3, x4]) (laneS (some (1 + 2 * p + s))) = some ((-1) ^ s * [x0, x1, x2, x3, x4].getD p 0)) ∧
  (∀ (x0 x1 x2 x3 x4 : Int) (k p q sp sq : Nat), (p, q) = pairOf k → k < 10 → sp < 2 → sq < 2 →
    looked (entry25 [x0, x1, x2, x3, x4]) (laneS (some (11 + 4 * k + 2 * sp + sq))) =
      some ((-1) ^ sp * [x0, x1, x2, x3, x4].getD p 0 + (-1) ^ sq * [x0, x1, x2, x3, x4].getD q 0)) ∧
  (∀ (x : List Int) (b : Nat), x.length = 8 → b < 256 →
    looked (fun n => planeSum x (128 + n)) (laneP b) =
      some ((List.range 8).map (fun j => (if b.testBit j then 1 else -1) * x.getD j 0)).sum) ∧
  (∀ x, looked (entry25 x) (laneS (some 0)) = some 0) ∧
  (∀ b, 242 < b → laneD (some b) = .invalid) ∧ (∀ c, 50 < c → laneS (some c) = .invalid)

/-- R51 to R53, R66, R67, R120, R169 to R175: a lookup-accumulate leaves, six positions later, one addition per row and token position into its tile: the
table entry that the row's code selects, signed, and for LA.P weighted by the plane and less the offset entry; a zero or invalid code
adds nothing; an LA.C adds the position's value by the trit of the row's code. -/
def Obligations.LookupAccumulateResults : Prop :=
  ∀ (s : State) (e : EngId) (half : Fin 2) (w : W64), s.slotOpen e (1 + half.val) w →
    let en := s.engine e
    let tile := slotField w 9 2
    let leaves (i : Instr) (ds : List (Option Int)) : Prop := ∃ t, exec i s = .next t ∧
      ∃ c, (t.engine e).core.pend = en.core.pend ++ [⟨en.core.pos + 6, en.core.pos, 1 + half.val, .la tile half.val (w.getLsbD 28) ds, en.core.pos⟩] ∧
        t = s.setEngine e (t.engine e) ∧ (t.engine e).issued = en.issued ++ [i] ∧
        (t.engine e).core = { c with tiles := (t.engine e).core.tiles } ∧
        c = { en.core with pend := (t.engine e).core.pend, occ := (t.engine e).core.occ, laTile := (t.engine e).core.laTile, ag := (t.engine e).core.ag, consumed := (t.engine e).core.consumed }
    let common := [(9, 2), (11, 4), (15, 7), (22, 4), (26, 1), (27, 1), (28, 1), (29, 4), (33, 1)]
    let i8 : Prop := slotField w 29 4 = fI8
    (laReads s en .d half.val w → onlySpans w false common = true → (i8 ∨ slotField w 29 4 = fI4) →
      setAddr .dense (en.core.t (slotField w 11 4)) (slotField w 15 7) + 2048 ≤ (s.item en.item).hdr.tNeed →
      ∃ ds, leaves (.laD e half w) ds ∧ ∀ n < 8, ∀ r < 256, ds[256 * n + r]? = some (match laneD (some (laByte en .d w r)) with
        | .entry i neg => some (if neg then -(laTable en .d w n i) else laTable en .d w n i)
        | _ => none)) ∧
    (laReads s en .s half.val w → onlySpans w false common = true → (i8 ∨ slotField w 29 4 = fI4) →
      setAddr .two5 (en.core.t (slotField w 11 4)) (slotField w 15 7) + 512 ≤ (s.item en.item).hdr.tNeed →
      ∃ ds, leaves (.laS e half w) ds ∧ ∀ n < 8, ∀ r < 256, ds[256 * n + r]? = some (match laneS (code25 (fun i => some (laByte en .s w i)) r) with
        | .entry i neg => some (if neg then -(laTable en .s w n i) else laTable en .s w n i)
        | _ => none)) ∧
    (laReads s en .p half.val w → onlySpans w false (common ++ [(34, 3), (37, 1), (38, 1)]) = true → i8 →
      (w.getLsbD 37 = true ∨ slotField w 34 3 < 4) →
      setAddr .plane (en.core.t (slotField w 11 4)) (slotField w 15 7) + 2048 ≤ (s.item en.item).hdr.tNeed →
      ∃ ds, leaves (.laP e half w) ds ∧ ∀ n < 8, ∀ r < 256, ∃ v, ds[256 * n + r]? = some (some v) ∧
        v = (if slotField w 34 3 = (if w.getLsbD 37 then 7 else 3) then -(2 ^ slotField w 34 3) else 2 ^ slotField w 34 3) *
            (if 128 ≤ laByte en .p w r then laTable en .p w n (laByte en .p w r - 128) else -(laTable en .p w n (127 - laByte en .p w r)))
          - (if w.getLsbD 38 then laTable en .p w n 127 else 0)) ∧
    (slotField w 11 4 = 0 → slotField w 15 7 = 0 → (i8 ∨ slotField w 29 4 = fI4) →
      onlySpans w false (common ++ [(34, 6), (40, 5), (45, 5)]) = true →
      (en.core.sw (slotField w 40 5)).toNat < (en.core.sw (slotField w 45 5)).toNat →
      let value (n : Nat) : Int := let v := en.core.v (slotField w 34 6) n
        if slotField w 29 4 = fI4 then (v.extractLsb' 0 4).toInt else (v.extractLsb' 0 8).toInt
      let adds (ds : List (Option Int)) (trit : Nat → Option Int) : Prop := ∀ n < 8, ∀ r < 256,
        ds[256 * n + r]? = some (if value n = 0 ∨ (trit r).getD 0 = 0 then none else some ((trit r).getD 0 * value n))
      (laReads s en .c half.val w → ∃ ds, leaves (.laC e half w) ds ∧ adds ds (colTrit false (fun i => some (laByte en .c w i)))) ∧
      (laReads s en .cs half.val w → ∃ ds, leaves (.laCs e half w) ds ∧ adds ds (colTrit true (fun i => some (laByte en .cs w i)))))
/-! ### Slot operations: BR -/

/-- R204: the twelve two-operand scalar operations leave, one position later, the result of S[SA] and S[SB], or of S[SA] and the
sign-extended immediate, for S[SD]; SLI loads the sign-extended immediate; SLIH loads the immediate into the upper half and keeps the lower;
nothing else of the module changes. -/
def Obligations.ScalarOperationResults : Prop :=
  (∀ (s : State) (e : EngId) (w : W64), s.slotOpen e 6 w →
     onlySpans w false [(9, 5), (14, 5), (19, 5), (24, 1), (25, 32)] = true → (w.getLsbD 24 = true → slotField w 19 5 = 0) →
     ∀ p ∈ ([(.sadd e w, fun a b => a + b), (.ssub e w, fun a b => a - b), (.sand e w, fun a b => a &&& b), (.sor e w, fun a b => a ||| b),
         (.sxor e w, fun a b => a ^^^ b), (.sshl e w, fun a b => a <<< (b.toNat % 64)), (.sshr e w, fun a b => a >>> (b.toNat % 64)),
         (.ssra e w, fun a b => a.sshiftRight (b.toNat % 64)), (.smin e w, fun a b => if b.slt a then b else a),
         (.smax e w, fun a b => if a.slt b then b else a), (.slt e w, fun a b => if a.slt b then 1 else 0),
         (.sltu e w, fun a b => if a.ult b then 1 else 0)] : List (Instr × (W64 → W64 → W64))),
       exec p.1 s = .next (s.issuedAs e p.1 ((s.engine e).plus 1 6 (.scal (slotField w 9 5)
         (p.2 ((s.engine e).core.sw (slotField w 14 5))
           (if w.getLsbD 24 then (w.extractLsb' 25 32).signExtend 64 else (s.engine e).core.sw (slotField w 19 5))))))) ∧
  (∀ (s : State) (e : EngId) (w : W64), s.slotOpen e 6 w → onlySpans w false [(9, 5), (25, 32)] = true →
     exec (.sli e w) s = .next (s.issuedAs e (.sli e w) ((s.engine e).plus 1 6
       (.scal (slotField w 9 5) ((w.extractLsb' 25 32).signExtend 64)))) ∧
     exec (.slih e w) s = .next (s.issuedAs e (.slih e w) ((s.engine e).plus 1 6
       (.scal (slotField w 9 5) ((w.extractLsb' 25 32) ++ ((s.engine e).core.sw (slotField w 9 5)).extractLsb' 0 32)))))

/-- Whether BRC's condition holds: 0 zero, 1 nonzero, 2 negative, 3 non-negative (R204). R205: a taken branch notes its target, its own bundle plus the
signed offset, for after two delay bundles, or faults with CONTROL where the target lies outside the code; a BRC that is not taken leaves only its
issue. R204, R206: a LOOP of a body inside the code with fewer than four loops active starts a loop over the next BODY bundles; a count of 0 skips
the body; a fifth loop or a body past the code faults with CONTROL. -/
def Obligations.BranchesAndLoops : Prop :=
  (∀ (s : State) (e : EngId) (w : W64), s.slotOpen e 6 w →
     let en := s.engine e
     let target : Int := (en.core.pc : Int) + (w.extractLsb' 16 24).toInt
     let inside : Prop := 0 ≤ target ∧ target < ((s.item en.item).hdr.bundles : Int)
     let taken : Engine := { en with core := { en.core with branch := en.core.branch ++ [(target.toNat, 2)] } }
     let v := en.core.sw (slotField w 11 5)
     let cond : Bool := match slotField w 9 2 with
       | 0 => v == 0
       | 1 => v != 0
       | 2 => v.msb
       | _ => !v.msb
     (onlySpans w false [(9, 2), (11, 5), (16, 24)] = true →
       (cond = true → inside → exec (.brc e w) s = .next (s.issuedAs e (.brc e w) taken)) ∧
       (cond = true → ¬ inside → exec (.brc e w) s = .next (s.progFault e fkCONTROL)) ∧
       (cond = false → exec (.brc e w) s = .next (s.issuedAs e (.brc e w) en))) ∧
     (onlySpans w false [(16, 24)] = true →
       (inside → exec (.jmp e w) s = .next (s.issuedAs e (.jmp e w) taken)) ∧
       (¬ inside → exec (.jmp e w) s = .next (s.progFault e fkCONTROL)))) ∧
  (∀ (s : State) (e : EngId) (w : W64), s.slotOpen e 6 w → onlySpans w false [(11, 5), (16, 16)] = true → slotField w 16 16 ≠ 0 →
     let en := s.engine e
     let body := slotField w 16 16
     let count := ((en.core.sw (slotField w 11 5)).extractLsb' 0 32).toNat
     let fits : Prop := en.core.pc + body < (s.item en.item).hdr.bundles
     (fits → count ≠ 0 → en.core.loops.length < 4 → exec (.loop e w) s = .next (s.issuedAs e (.loop e w)
       { en with core := { en.core with loops := ⟨en.core.pc + 1, en.core.pc + body, count - 1⟩ :: en.core.loops } })) ∧
     (fits → count = 0 → exec (.loop e w) s = .next (s.issuedAs e (.loop e w) { en with core := { en.core with skip := body } })) ∧
     (fits → count ≠ 0 → 4 ≤ en.core.loops.length → exec (.loop e w) s = .next (s.progFault e fkCONTROL)) ∧
     (¬ fits → exec (.loop e w) s = .next (s.progFault e fkCONTROL)))

/-! ### Slot operations: VX -/

/-- R176: integer VX operations leave, three positions later, the element-wise result of VA and VB for the elements that the mask selects; vector
shifts take the amount from SH, or from bits [4:0] of VB's element; nothing else changes. -/
def Obligations.VectorIntegerResults : Prop :=
  (∀ (s : State) (e : EngId) (w : W64), s.slotOpen e 3 w → onlySpans w true [(9, 6), (15, 6), (21, 6)] = true →
     ∀ p ∈ ([(.iadd e w, fun a b => a + b), (.isub e w, fun a b => a - b), (.imin e w, fun a b => if b.slt a then b else a),
         (.imax e w, fun a b => if a.slt b then b else a), (.vxAnd e w, fun a b => a &&& b), (.vxOr e w, fun a b => a ||| b),
         (.vxXor e w, fun a b => a ^^^ b)] : List (Instr × (W32 → W32 → W32))),
       exec p.1 s = .next (s.issuedAs e p.1 ((s.engine e).plus 3 3 (.vec (slotField w 9 6) ((s.engine e).core.masked (slotField w 6 3)
         (fun k => p.2 ((s.engine e).core.v (slotField w 15 6) k) ((s.engine e).core.v (slotField w 21 6) k))))))) ∧
  (∀ (s : State) (e : EngId) (w : W64), s.slotOpen e 3 w → onlySpans w true [(9, 6), (15, 6), (21, 6), (27, 1), (28, 5)] = true →
     (w.getLsbD 27 = true → slotField w 21 6 = 0) → (w.getLsbD 27 = false → slotField w 28 5 = 0) →
     ∀ p ∈ ([(.shl e w, fun a n => a <<< n), (.shra e w, fun a n => a.sshiftRight n), (.shrl e w, fun a n => a >>> n)] :
         List (Instr × (W32 → Nat → W32))),
       exec p.1 s = .next (s.issuedAs e p.1 ((s.engine e).plus 3 3 (.vec (slotField w 9 6) ((s.engine e).core.masked (slotField w 6 3)
         (fun k => p.2 ((s.engine e).core.v (slotField w 15 6) k)
           (if w.getLsbD 27 then slotField w 28 5 else (((s.engine e).core.v (slotField w 21 6) k).extractLsb' 0 5).toNat)))))))

/-- R176, R177: comparisons write the predicate's selected bits by the condition and the others as 0; SEL picks VA where the mask's bit is
set, VB elsewhere; PLOGIC combines two predicates. -/
def Obligations.PredicateOperations : Prop :=
  ∀ (s : State) (e : EngId) (w : W64), s.slotOpen e 3 w →
    let en := s.engine e
    (onlySpans w true [(15, 6), (21, 6), (28, 3), (31, 3)] = true → slotField w 28 3 ≤ 5 → slotField w 31 3 ≠ 0 →
      (∃ v : W64, exec (.icmp e w) s = .next (s.issuedAs e (.icmp e w) (en.plus 3 3 (.pred (slotField w 31 3) v))) ∧
        ∀ k < 64, v.getLsbD k = (en.core.pm (slotField w 6 3) k &&
          signedCmp (slotField w 28 3) (en.core.v (slotField w 15 6) k) (en.core.v (slotField w 21 6) k))) ∧
      (∃ v : W64, exec (.lcmp e w) s = .next (s.issuedAs e (.lcmp e w) (en.plus 3 3 (.pred (slotField w 31 3) v))) ∧
        ∀ k < 64, v.getLsbD k = (en.core.pm (slotField w 6 3) k &&
          lCmp (slotField w 28 3) ((en.core.v (slotField w 15 6) k).toNat % 65536) ((en.core.v (slotField w 21 6) k).toNat % 65536)))) ∧
    (onlySpans w true [(9, 6), (15, 6), (21, 6)] = true →
      exec (.sel e w) s = .next (s.issuedAs e (.sel e w) (en.plus 3 3 (.vec (slotField w 9 6) ((List.range 64).map (fun k =>
        (k, if en.core.pm (slotField w 6 3) k then en.core.v (slotField w 15 6) k else en.core.v (slotField w 21 6) k))))))) ∧
    (onlySpans w false [(31, 3), (34, 3), (37, 3), (40, 2)] = true → slotField w 31 3 ≠ 0 →
      let a := en.core.p (slotField w 34 3)
      let b := en.core.p (slotField w 37 3)
      exec (.plogic e w) s = .next (s.issuedAs e (.plogic e w) (en.plus 3 3 (.pred (slotField w 31 3)
        (match slotField w 40 2 with
         | 0 => a &&& b
         | 1 => a ||| b
         | 2 => a ^^^ b
         | _ => a &&& ~~~b)))))

/-- R98, R176, R208, R209: L16 operations leave the element-wise codes after 3 positions, 5 for LADD, LSUB, LEXP2 and LLOG2; underflows are counted and a
new OVF is noted. -/
def Obligations.VectorL16Results : Prop :=
  ∀ (s : State) (e : EngId) (w : W64), s.slotOpen e 3 w →
    let en := s.engine e
    let ks := (List.range 64).filter (en.core.pm (slotField w 6 3))
    let a := fun k => (en.core.v (slotField w 15 6) k).toNat % 65536
    let b := fun k => (en.core.v (slotField w 21 6) k).toNat % 65536
    (onlySpans w true [(9, 6), (15, 6), (21, 6)] = true →
      (∀ p ∈ ([(.lmul e w, 3, lMul), (.ldiv e w, 3, lDiv), (.ladd e w, 5, lAdd), (.lsub e w, 5, lSub)] :
          List (Instr × Nat × (Nat → Nat → LRes))),
        exec p.1 s = .next (s.issuedAs e p.1 (Engine.plus
          { en with staged := en.staged ++ l16Notes (ks.map (fun k => (p.2.2 (a k) (b k), lIsOvf (a k) || lIsOvf (b k)))) } p.2.1 3
          (.vec (slotField w 9 6) (ks.map (fun k => (k, BitVec.ofNat 32 (p.2.2 (a k) (b k)).code))))))) ∧
      (∀ p ∈ ([(.lmax e w, lMax), (.lmin e w, lMin)] : List (Instr × (Nat → Nat → Nat))),
        exec p.1 s = .next (s.issuedAs e p.1 (en.plus 3 3
          (.vec (slotField w 9 6) (ks.map (fun k => (k, BitVec.ofNat 32 (p.2 (a k) (b k))))))))) ) ∧
    (onlySpans w true [(9, 6), (15, 6)] = true →
      (∀ p ∈ ([(.lsqr e w, 3, lSqr), (.lsqrt e w, 3, lSqrt), (.lexp2 e w, 5, lExp2), (.llog2 e w, 5, lLog2)] :
          List (Instr × Nat × (Nat → LRes))),
        exec p.1 s = .next (s.issuedAs e p.1 (Engine.plus
          { en with staged := en.staged ++ l16Notes (ks.map (fun k => (p.2.2 (a k), lIsOvf (a k)))) } p.2.1 3
          (.vec (slotField w 9 6) (ks.map (fun k => (k, BitVec.ofNat 32 (p.2.2 (a k)).code))))))) ∧
      exec (.lneg e w) s = .next (s.issuedAs e (.lneg e w) (en.plus 3 3
        (.vec (slotField w 9 6) (ks.map (fun k => (k, BitVec.ofNat 32 (lNeg (a k))))))))) 

/-- R176, R179, R180: moves between vector registers, scalars and group members, element numbers, and the reductions, whose result
goes to all 64 elements. R82, R83, R99, R177: CVT leaves, five positions later, each selected element converted from SF to DF. -/
def Obligations.VectorMovesReductionsConversions : Prop :=
  (∀ (s : State) (e : EngId) (w : W64), s.slotOpen e 3 w →
     let en := s.engine e
     let vd := slotField w 9 6
     let pm := slotField w 6 3
     let a := en.core.v (slotField w 15 6)
     (onlySpans w true [(9, 6), (15, 6)] = true →
       exec (.vxMov e w) s = .next (s.issuedAs e (.vxMov e w) (en.plus 3 3 (.vec vd (en.core.masked pm a))))) ∧
     (onlySpans w true [(9, 6), (15, 5)] = true →
       exec (.bcast e w) s = .next (s.issuedAs e (.bcast e w) (en.plus 3 3 (.vec vd (en.core.masked pm
         (fun _ => (en.core.sw (slotField w 15 5)).extractLsb' 0 32)))))) ∧
     (onlySpans w false [(9, 5), (15, 6), (21, 6)] = true →
       exec (.tos e w) s = .next (s.issuedAs e (.tos e w) (en.plus 3 3 (.scal (slotField w 9 5) ((a (slotField w 21 6)).signExtend 64))))) ∧
     (onlySpans w true [(9, 6)] = true →
       exec (.iota e w) s = .next (s.issuedAs e (.iota e w) (en.plus 3 3 (.vec vd (en.core.masked pm (BitVec.ofNat 32)))))) ∧
     (onlySpans w true [(9, 6), (15, 6), (27, 5)] = true →
       let g := (s.item en.item).hdr.group
       let m := (s.item en.item).engines.getD (en.logical / g * g + slotField w 27 5) 0
       (g < 2 ∨ g ≤ slotField w 27 5 → exec (.xchg e w) s = .next (s.progFault e fkGROUP_OP)) ∧
       (2 ≤ g → slotField w 27 5 < g →
       exec (.xchg e w) s = .next (s.issuedAs e (.xchg e w) (en.plus 3 3 (.vec vd (en.core.masked pm
         ((s.engine m).snap.v (slotField w 15 6)))))))) ∧
     (onlySpans w true [(9, 6), (15, 6), (27, 4)] = true → slotField w 27 4 = fI32 →
       exec (.rsum e w) s = .next (s.issuedAs e (.rsum e w) (en.plus 14 3 (.vec vd ((List.range 64).map (fun k =>
         (k, (((List.range 64).filter (en.core.pm pm)).map a).sum)))))) ∧
       ∃ v : W32, exec (.rmax e w) s = .next (s.issuedAs e (.rmax e w) (en.plus 8 3 (.vec vd ((List.range 64).map (fun k => (k, v)))))) ∧
         ((∀ k < 64, en.core.pm pm k = false) → v = 0) ∧
         (∀ k < 64, en.core.pm pm k = true → (a k).sle v = true ∧ ∃ j < 64, en.core.pm pm j = true ∧ v = a j)) ∧
     (onlySpans w true [(9, 6), (15, 6), (27, 4)] = true → slotField w 27 4 = fL16 →
       (∃ v notes, exec (.rsum e w) s = .next (s.issuedAs e (.rsum e w) (Engine.plus { en with staged := en.staged ++ notes } 14 3
           (.vec vd ((List.range 64).map (fun k => (k, BitVec.ofNat 32 v)))))) ∧
         treeOf64 (fun x y => (lAdd x y).code) ((List.range 64).map (fun k =>
           if en.core.pm pm k then (a k).toNat % 65536 else lZERO)) = some v) ∧
       (∃ v notes, exec (.rmax e w) s = .next (s.issuedAs e (.rmax e w) (Engine.plus { en with staged := en.staged ++ notes } 8 3
           (.vec vd ((List.range 64).map (fun k => (k, BitVec.ofNat 32 v)))))) ∧
         ((∀ k < 64, en.core.pm pm k = false) → v = lZERO)))) ∧
  (∀ (s : State) (e : EngId) (w : W64), s.slotOpen e 3 w → onlySpans w true [(9, 6), (15, 6), (27, 4), (31, 4)] = true →
     cvtFmtOk (slotField w 27 4) = true → cvtFmtOk (slotField w 31 4) = true →
     let en := s.engine e
     (∃ notes, exec (.vxCvt e w) s = .next (s.issuedAs e (.vxCvt e w) (Engine.plus { en with staged := en.staged ++ notes } 5 3
       (.vec (slotField w 9 6) (en.core.masked (slotField w 6 3) (fun k => BitVec.ofNat 32
         (cvtElem (slotField w 27 4) (slotField w 31 4)
           ((en.core.v (slotField w 15 6) k).toNat % 2 ^ fmtBits (slotField w 27 4))).v)))))) ∧
     (∀ v : W32, (cvtElem fI32 fI32 v.toNat).v = v.toNat) ∧ (∀ c < 65536, (cvtElem fL16 fL16 c).v = c))

/-! ### Slot operations: TB and RQ -/

/-- R46 to R49, R64, R120, R164 to R167: a TB operation of one engine leaves, four positions later, a set of eight tables: for each selected
position the 16-bit entries that its activations give, zeros in the rest of each slot and in the slots of other positions. -/
def Obligations.TableBuildResults : Prop :=
  ∀ (s : State) (e : EngId) (w : W64), s.slotOpen e 0 w →
    onlySpans w true [(9, 4), (13, 7), (20, 4), (24, 5), (29, 5), (34, 5), (39, 4), (43, 2), (45, 1), (46, 5)] = true →
    w.getLsbD 45 = false → slotField w 46 5 = 0 →
    let en := s.engine e
    (en.core.g (slotField w 20 4)).store = 0 → (en.sees .loam).errs = [] → (en.sees .loam).marks = [] →
    let reads (n j : Nat) : Prop := n < 8 ∧ en.core.pm (slotField w 6 3) n = true ∧ readsElem (en.core.sw (slotField w 24 5)).toNat
      (en.core.sw (slotField w 29 5)).toNat (slotField w 43 2) ((en.core.sw (slotField w 24 5)).toNat + j) = true
    let addr (n j : Nat) : Nat := actByte (slotField w 39 4) (((en.core.g (slotField w 20 4)).cur.toNat + n * (en.core.sw (slotField w 34 5)).toNat) % 2 ^ 32)
      ((en.core.sw (slotField w 24 5)).toNat + j)
    let fits (k : TKind) : Prop := setAddr k (en.core.t (slotField w 9 4)) (slotField w 13 7) + k.setBytes ≤ (s.item en.item).hdr.tNeed ∧
      ∀ n j, j < k.elems → reads n j → addr n j < (s.item en.item).hdr.lNeed ∧ en.core.loam.tag (addr n j / 256) = slotField w 39 4
    let builds (i : Instr) (k : TKind) (entries : Nat) (entry : Nat → Nat → Int) : Prop := ∃ t b, exec i s = .next t ∧
      t = s.setEngine e (t.engine e) ∧ (t.engine e).issued = en.issued ++ [i] ∧
      (t.engine e).core.pend = en.core.pend ++
        [⟨en.core.pos + 4, en.core.pos, 0, .set (setAddr k (en.core.t (slotField w 9 4)) (slotField w 13 7)) b, en.core.pos⟩] ∧
      b.length = k.setBytes ∧ ∀ n < 8, ∀ i, 2 * i + 1 < k.slot →
        field b (k.slot * n + 2 * i) 2 = if en.core.pm (slotField w 6 3) n = true ∧ i < entries then ofInt 16 (entry n i) else 0
    (((slotField w 39 4 = fI8 ∨ slotField w 39 4 = fI4) ∧ slotField w 43 2 ≠ 3) →
      (fits .dense → builds (.tbD e w) .dense 122 (fun n => denseEntry ((List.range 5).map (tbElem en w n)))) ∧
      (fits .two5 → builds (.tbS e w) .two5 26 (fun n => entry25 ((List.range 5).map (tbElem en w n))))) ∧
    (slotField w 39 4 = fI8 → slotField w 43 2 = 0 →
      fits .plane → builds (.tbP e w) .plane 128 (fun n i => planeSum ((List.range 8).map (tbElem en w n)) (128 + i)))

/-- R86, R87: adding a term to an element that is not EMPTY is exact while the highest and lowest exponents that have met lie at most 32 apart and the
sum fits the 80-bit window; L becomes the lower and H the higher exponent, and OVERSPAN stays as it was. The first term of an EMPTY element
sets W, L and H. -/
def Obligations.LongAccumulatorTermsExact : Prop :=
  (∀ (x : LEl) (t e : Int), x.empty = false → -256 ≤ e → e < 256 →
    let l := x.l.toInt
    let h := x.h.toInt
    l ≤ h → max h e - min l e ≤ 32 →
    let sum := x.w.toInt * 2 ^ (l - min l e).toNat + t * 2 ^ (e - min l e).toNat
    sum < 2 ^ 79 → -(2 ^ 79) ≤ sum →
    let y := x.addTerm t e
    y.w.toInt = sum ∧ y.l.toInt = min l e ∧ y.h.toInt = max h e ∧ y.ovr = x.ovr ∧ y.lovf = x.lovf ∧ y.empty = false) ∧
  (∀ (x : LEl) (t e : Int), x.empty = true → -256 ≤ e → e < 256 → -(2 ^ 79) ≤ t → t < 2 ^ 79 →
    let y := x.addTerm t e
    y.w.toInt = t ∧ y.l.toInt = e ∧ y.h.toInt = e ∧ y.ovr = x.ovr ∧ y.lovf = x.lovf ∧ y.empty = false)

/-- R72, R91, R182, R183, R186, R188: a FOLD leaves one term per chain, the chain times its scales' significands at the sum of their
exponents, and frees the unit after its occupancy; a MERGE leaves the 256 records that it read; a CLR leaves the clearing of its tile. A fold of a tile with
OVF set, one with BP of an odd chain, and one that meets a parity error give the tile mark 3 and the work item the status, whatever its scales are; a reserved
format in TAG is an invalid encoding. -/
def Obligations.FoldMergeClearResults : Prop :=
  ∀ (s : State) (e : EngId) (w : W64), s.slotOpen e 4 w → (s.engine e).unitFree 4 = true →
    let en := s.engine e
    let tile := en.core.tile (slotField w 9 2)
    (onlySpans w false [(9, 2), (11, 1), (12, 1), (13, 1), (14, 8), (22, 4), (26, 4), (30, 2), (32, 5)] = true →
      slotField w 30 2 ≠ 3 → fmtReserved (slotField w 14 4) = false → tile.tag.toNat = slotField w 14 8 → tile.ovf = false → tile.errs = [] →
      let chain (k : Nat) : Int := (SMap.get tile.chains k 0).toInt
      (w.getLsbD 12 = true → ∀ k < 2048, chain k % 2 = 0) →
      let term (fs : FoldScales) (k : Nat) : Int × Int :=
        ((if w.getLsbD 12 then chain k / 2 else chain k) *
            (((fs.pos.getD (k / 256) (0, 0)).1 * (fs.row.getD (k % 256) (1, 0)).1 : Nat) : Int),
          (fs.pos.getD (k / 256) (0, 0)).2 + (fs.row.getD (k % 256) (1, 0)).2)
      let folds (occ : Nat) (fs : FoldScales) : Prop := ∃ t, exec (.fold e w) s = .next t ∧ t = s.setEngine e (t.engine e) ∧
        (t.engine e).core.pend = en.core.pend ++
          [⟨en.core.pos + (occ + 2), en.core.pos, 4, .fold (slotField w 9 2) (w.getLsbD 11) ((List.range 2048).map (term fs)), en.core.pos⟩] ∧
        SMap.get (t.engine e).core.occ 4 0 = en.core.pos + occ ∧ ((t.engine e).core.tile (slotField w 9 2)).chains = tile.chains ∧
        ((t.engine e).core.tile (slotField w 9 2)).fold = some fs
      (w.getLsbD 13 = false → ∀ fs, tile.fold = some fs → folds 8 fs) ∧
      (w.getLsbD 13 = true → slotField w 30 2 = 0 → tile.tag.toNat.testBit 6 = false →
        let attr := (en.core.sw (slotField w 32 5)).toNat
        attr < 2 ^ 20 → tscaleBad (attr / 2 ^ 8 % 4) (attr % 256) = false → tscaleBad (attr / 2 ^ 18 % 4) (attr / 2 ^ 10 % 256) = false →
        let occ : Nat := if attr / 2 ^ 8 % 4 = 1 ∧ attr / 2 ^ 18 % 4 = 1 then 12 else if attr / 2 ^ 8 % 4 = 1 ∨ attr / 2 ^ 18 % 4 = 1 then 10 else 8
        ∀ pb e1, Engine.posScales s.freeCtr (s.item en.item).hdr (slotField w 22 4) 1 (List.range 8) (en.busyTill 4 occ) = .ok (pb, false, 0, e1) →
          (∀ b ∈ pb, e4m3Bad (b.headD 0).toNat = false) →
          folds occ ⟨pb.map (fun b => (e4m3Sig (b.headD 0).toNat * (scaleParts (attr / 2 ^ 8 % 4) (attr % 256)).1,
              e4m3Exp (b.headD 0).toNat + (scaleParts (attr / 2 ^ 8 % 4) (attr % 256)).2)),
            (List.range 256).map (fun _ => scaleParts (attr / 2 ^ 18 % 4) (attr / 2 ^ 10 % 256))⟩)) ∧
    (onlySpans w false [(9, 2), (11, 3), (14, 4)] = true →
      let a := (en.core.g (slotField w 14 4)).cur.toNat
      (en.core.g (slotField w 14 4)).store = 0 → a + 4096 ≤ (s.item en.item).hdr.lNeed → (en.sees .loam).errs = [] → (en.sees .loam).marks = [] →
      (∀ r ∈ rowsOf a 4096, en.core.loam.tag r = fLACC) →
      ∃ t, exec (.merge e w) s = .next t ∧ t = s.setEngine e (t.engine e) ∧
        (t.engine e).core.pend = en.core.pend ++ [⟨en.core.pos + 18, en.core.pos, 4, .merge (slotField w 9 2) (256 * slotField w 11 3)
          ((List.range 256).map (fun i => LRec.ofBytes (Memory.readN (en.sees .loam).data (a + 16 * i) 16))), en.core.pos⟩] ∧
        SMap.get (t.engine e).core.occ 4 0 = en.core.pos + 16) ∧
    (onlySpans w false [(9, 2)] = true →
      ∃ t, exec (.rqClr e w) s = .next t ∧ t = s.setEngine e (t.engine e) ∧
        (t.engine e).core.pend = en.core.pend ++ [⟨en.core.pos + 2, en.core.pos, 4, .clear (slotField w 9 2), en.core.pos⟩] ∧
        SMap.get (t.engine e).core.occ 4 0 = en.core.pos + 1) ∧
    (onlySpans w false [(9, 2), (11, 1), (12, 1), (13, 1), (14, 8), (22, 4), (26, 4), (30, 2), (32, 5)] = true →
      (fmtReserved (slotField w 14 4) = true → exec (.fold e w) s = .next (s.progFault e fkENCODING)) ∧
      (slotField w 30 2 ≠ 3 → fmtReserved (slotField w 14 4) = false → tile.tag.toNat = slotField w 14 8 → w.getLsbD 13 = false →
        let found (st ev : Nat) : Prop := ∃ t, exec (.fold e w) s = .next t ∧ t = s.setEngine e (t.engine e) ∧
          3 ≤ ((t.engine e).core.tile (slotField w 9 2)).mark ∧ Staged.status st ev ∈ (t.engine e).staged
        (tile.ovf = true → found stINTERNAL 0x1003) ∧
        (w.getLsbD 12 = true → (∃ k < 2048, (tile.chainRead k).toInt % 2 ≠ 0) → found stINTERNAL 0x1002) ∧
        (tile.parity s.freeCtr 0 2048 ≠ 0 → found stDATA_POISON 0x3100)))

/-- R92 to R96, R181, R184, R185: an uncompressed CVT leaves, twelve positions later, the converted rows of the eight positions at the addresses of the
output generator, and for block formats their scales at those of the scale generator; with COMP 1 the compressor row stays open and with
COMP 2 it is closed. -/
def Obligations.ConversionWritesRows : Prop :=
  ∀ (s : State) (e : EngId) (w : W64), s.slotOpen e 4 w → (s.engine e).unitFree 4 = true →
    onlySpans w true [(9, 2), (11, 4), (15, 1), (16, 10), (26, 5), (31, 6), (37, 4), (41, 4), (45, 4), (49, 1), (50, 2), (52, 2), (54, 8)] = true →
    let en := s.engine e
    let hdr := (s.item en.item).hdr
    let ofmt := slotField w 11 4
    let tile := en.core.tile (slotField w 9 2)
    let x := slotField w 26 5
    let S (i : Nat) : Nat := (en.core.sw (x + i)).toNat
    let ctl := S 3 / 2 ^ 32
    let blk : Prop := ofmt = fI8 ∨ ofmt = fI4
    fmtReserved ofmt = false → ofmt ≠ fNONE → ofmt ≠ fRAW → ofmt ≠ fSC8 → ofmt ≠ fLACC → x ≤ 28 →
    w.getLsbD 15 = false → w.getLsbD 49 = false → attrOk (S 3 % 2 ^ 32) = true →
    (en.core.g (slotField w 37 4)).store = 0 → (blk → (en.core.g (slotField w 41 4)).store = 0) →
    let das := (en.core.useTwo (slotField w 37 4) (slotField w 41 4) 8).1
    let sas := (en.core.useTwo (slotField w 37 4) (slotField w 41 4) 8).2.1
    (blk → ∀ a ∈ sas, a + 8 ≤ hdr.lNeed) →
    let tq : Q := scaleVal (S 3 % 2 ^ 32 / 2 ^ 4 % 4) (S 3 % 2 ^ 32 / 2 ^ 8 % 256)
    let out (n : Nat) : PosOut := cvtPos tile ofmt (slotField w 31 6) false (Nat.testBit (S 3) 6) (fun _ => ⟨1, 1⟩) tq (S 1) (S 2) n (fun _ => none)
    (slotField w 52 2 = 0 → ctl = 0 → (∀ a ∈ das, a + 256 * fmtBits ofmt / 8 ≤ hdr.lNeed) →
      ∃ t, exec (.rqCvt e w) s = .next t ∧ t = s.setEngine e (t.engine e) ∧ SMap.get (t.engine e).core.occ 4 0 = en.core.pos + 8 ∧
        ∀ n < 8, (∀ i < (out n).bytes.length, ∃ p ∈ (t.engine e).core.pend, p.due = en.core.pos + 12 ∧ ∃ sw, p.res = .store sw ∧
            sw.store = .loam ∧ sw.fmt = ofmt ∧ (das.getD n 0 + i, (out n).bytes.getD i 0) ∈ sw.bytes) ∧
          (blk → ∀ i < 8, ∃ p ∈ (t.engine e).core.pend, p.due = en.core.pos + 12 ∧ ∃ sw, p.res = .store sw ∧
            sw.store = .loam ∧ sw.fmt = fSC8 ∧ (sas.getD n 0 + i, (out n).scales.getD i 0) ∈ sw.bytes)) ∧
    (slotField w 52 2 = 1 ∨ slotField w 52 2 = 2 → blk → ctlOk ctl ofmt = true → en.core.cmp = none →
      (∀ a ∈ das, a + 320 ≤ hdr.lNeed) → ctl % 2 ^ 20 + 16 ≤ hdr.lNeed →
      ∃ t, exec (.rqCvt e w) s = .next t ∧ t = s.setEngine e (t.engine e) ∧
        (slotField w 52 2 = 2 → (t.engine e).core.cmp = none) ∧
        (slotField w 52 2 = 1 → ∃ r, (t.engine e).core.cmp = some r ∧ r.ctl = ctl ∧ r.ofmt = ofmt ∧ r.bases = das ∧ r.block = 1 ∧
          r.held = (List.range 96).map (fun i => (List.range 8).map (fun n => (out n).ints.getD (160 + i) 0))))

/-- R187, R364 to R370: a decision writes, twelve positions later, one bit per row and selected position, clear where the rule lets the row be skipped, and the
union of the eight; the measurement form reports the audited rows of each position of its tile, and those whose value exceeds the floor, and removes the mask,
writing nothing. -/
def Obligations.NeuronDecisions : Prop :=
  ∀ (s : State) (e : EngId) (w : W64), s.slotOpen e 4 w → (s.engine e).unitFree 4 = true →
    onlySpans w true [(9, 2), (11, 4), (15, 4), (19, 1), (20, 5), (25, 10), (35, 4), (39, 5)] = true →
    let en := s.engine e
    let hdr := (s.item en.item).hdr
    let tile := en.core.tile (slotField w 9 2)
    let theta := ((en.core.sw (slotField w 20 5)).extractLsb' 0 16).toNat
    let count := ((en.core.sw (slotField w 20 5)).extractLsb' 16 48).toNat
    let g (lo : Nat) : Ag := en.core.g (slotField w lo 4)
    (¬ (w.getLsbD 19 = true ∧ theta = lOVF) →
      slotField w 11 4 ≠ slotField w 15 4 → slotField w 11 4 ≠ slotField w 35 4 → slotField w 15 4 ≠ slotField w 35 4 →
      (g 11).store = 0 → (g 15).store = 0 → (g 35).store = 0 →
      (g 11).cur.toNat + 512 ≤ hdr.lNeed → (g 15).cur.toNat + 16 ≤ hdr.lNeed → (g 35).cur.toNat + 288 ≤ hdr.lNeed →
      (en.sees .loam).errs = [] → (en.sees .loam).marks = [] →
      let v : PredView := if slotField w 25 10 < 960 then ⟨0, false, 3, 1, 6, lZERO, 0, 0⟩ else s.predView (s.item en.item) (slotField w 25 10 - 960)
      let active (n r : Nat) : Bool := en.core.pm (slotField w 6 3) n && decide (rowDec (anpRule v (w.getLsbD 19)) v tile.mark (tile.el (256 * n + r))
        (leNat (Memory.readN (en.sees .loam).data ((g 11).cur.toNat + 2 * r) 2)) (leNat (Memory.readN (en.sees .loam).data ((g 15).cur.toNat + 2 * n) 2))
        theta count (256 * n + r) ≠ .skip)
      ∀ i ∈ [Instr.anp e w, .anpMeasurement e w], ∃ t, exec i s = .next t ∧ t = s.setEngine e (t.engine e) ∧
        ∀ n < 8, ∀ r < 256, ∃ p ∈ (t.engine e).core.pend, p.due = en.core.pos + 12 ∧ ∃ sw b u, p.res = .store sw ∧ sw.fmt = fRAW ∧
          (((g 35).cur.toNat + 32 * n + r / 8, b) ∈ sw.bytes ∧ b.getLsbD (r % 8) = active n r) ∧
          (∃ q ∈ (t.engine e).core.pend, q.due = en.core.pos + 12 ∧ ∃ sv, q.res = .store sv ∧ ((g 35).cur.toNat + 256 + r / 8, u) ∈ sv.bytes ∧
            u.getLsbD (r % 8) = (List.range 8).any (fun k => active k r))) ∧
    (w.getLsbD 19 = true → theta = lOVF → 960 ≤ slotField w 25 10 →
      let p := slotField w 25 10 - 960
      let v := s.predView (s.item en.item) p
      ∀ base ks, tile.audit = some (p, base, ks) → ∀ i ∈ [Instr.anp e w, .anpMeasurement e w],
        let at_ (n : Nat) : List Nat := ks.filter (fun k => decide (k / 256 = n))
        ∃ t, exec i s = .next t ∧ t = s.setEngine e (t.engine e) ∧ (t.engine e).core.pend = en.core.pend ∧
          (t.engine e).staged = en.staged ++ ((List.range 8).filter (fun n => !(at_ n).isEmpty)).map (fun n => .audit p ((base + n) % 2 ^ 64)
            (at_ n).length ((at_ n).filter (fun k => (tile.el k).empty || overFloor v (tile.el k).val)).length) ∧
          ((t.engine e).core.tile (slotField w 9 2)).audit = none)
/-! ### Slot operations: MV -/

/-- R164, R189, R190: generator and handle settings, and loads from a store without errors or marks, leave their results after their latencies (where
a run taken up in its middle started is the model's choice, log 128); a vector load rotates the bytes of the row, a scalar load takes eight bytes. -/
def Obligations.MoveLoadsAndSettings : Prop :=
  ∀ (s : State) (e : EngId) (w : W64), s.slotOpen e 5 w →
    let en := s.engine e
    let S (i : Nat) : W64 := en.core.sw (slotField w 13 5 + i)
    (onlySpans w false [(9, 4), (13, 5)] = true → slotField w 13 5 ≤ 28 →
      exec (.mvAgset e w) s = .next (s.issuedAs e (.mvAgset e w) (en.plus 2 5 (.ag (slotField w 9 4)
        { addr := (S 0).extractLsb' 0 32, stride0 := (S 0).extractLsb' 32 32, stride1 := (S 1).extractLsb' 0 32, count0 := (S 1).extractLsb' 32 16,
          idx0 := (S 1).extractLsb' 48 16, wrap := (S 2).extractLsb' 0 32, store := (S 2).extractLsb' 32 2,
          start := if (S 1).extractLsb' 48 16 = 0 then 0
            else (S 0).extractLsb' 0 32 - ((S 1).extractLsb' 48 16).setWidth 32 * (S 0).extractLsb' 32 32 })))) ∧
    (onlySpans w false [(9, 4), (13, 16)] = true →
      exec (.mvThset e w) s = .next (s.issuedAs e (.mvThset e w) (en.plus 1 5 (.th (slotField w 9 4) (BitVec.ofNat 16 (slotField w 13 10)))))) ∧
    (onlySpans w false [(9, 4), (13, 10)] = true →
      exec (.mvThadd e w) s = .next (s.issuedAs e (.mvThadd e w) (en.plus 1 5 (.th (slotField w 9 4)
        (BitVec.ofNat 16 ((en.core.t (slotField w 9 4) + slotField w 13 10) % 1024)))))) ∧
    (∀ id, onlySpans w true [(9, 6), (15, 4), (19, 2), (21, 8), (29, 1)] = true → slotField w 19 2 ≠ 3 →
      (w.getLsbD 29 = true → slotField w 21 8 = 0) → (id = StoreId.table → w.getLsbD 29 = false ∧ slotField w 21 8 = 0) →
      let g := en.core.g (slotField w 15 4)
      let row := g.cur.toNat / 256
      let rot := if w.getLsbD 29 then g.cur.toNat % 256 else slotField w 21 8
      let size := 2 ^ slotField w 19 2
      storeOf g.store.toNat = some id → 256 * row + 256 ≤ (s.item en.item).hdr.need id → (en.sees id).errs = [] → (en.sees id).marks = [] →
      ∃ t, exec (.mvLd e w) s = .next t ∧ t = s.setEngine e (t.engine e) ∧ (t.engine e).core.g (slotField w 15 4) = g.next ∧
        (t.engine e).core.pend = en.core.pend ++ [⟨en.core.pos + 4, en.core.pos, 5, .vec (slotField w 9 6) (en.core.masked (slotField w 6 3)
          (fun k => BitVec.ofNat 32 (leNat ((List.range size).map (fun b =>
            Memory.read (en.sees id).data (256 * row + (k * size + b + rot) % 256)))))), en.core.pos⟩]) ∧
    (∀ id, onlySpans w false [(9, 5), (14, 4)] = true →
      let g := en.core.g (slotField w 14 4)
      let a := g.cur.toNat / 8 * 8
      storeOf g.store.toNat = some id → a + 8 ≤ (s.item en.item).hdr.need id → (en.sees id).errs = [] → (en.sees id).marks = [] →
      ∃ t, exec (.mvSld e w) s = .next t ∧ t = s.setEngine e (t.engine e) ∧ (t.engine e).core.g (slotField w 14 4) = g.next ∧
        (t.engine e).core.pend = en.core.pend ++ [⟨en.core.pos + 4, en.core.pos, 5,
          .scal (slotField w 9 5) (BitVec.ofNat 64 (leNat (Memory.readN (en.sees id).data a 8))), en.core.pos⟩])

/-- R189, R191 to R193: a store leaves its write, two positions later; a store to another engine and a remote accumulate-on-write take the next
store number and go onto the network once the bundle has issued. Masked elements are left out, and so are bytes of the table file that a table set of the next cycle writes. -/
def Obligations.MoveStores : Prop :=
  ∀ (s : State) (e : EngId) (w : W64), s.slotOpen e 5 w →
    let en := s.engine e
    let c := en.core
    let hdr := (s.item en.item).hdr
    let g := c.g (slotField w 15 4)
    let a := g.cur.toNat
    let size := 2 ^ slotField w 19 2
    let bytes : List (Nat × Byte) := ((List.range 64).filter (c.pm (slotField w 6 3))).flatMap (fun k =>
      (List.range size).map (fun b => (a + size * k + b, (c.v (slotField w 9 6) k).extractLsb' (8 * b) 8)))
    let whole : Bool := decide (size = 4 ∧ a % 256 = 0) && (List.range 64).all (c.pm (slotField w 6 3))
    let remote (d : Nat) (k : NetKind) : Staged := .net { src := e, dst := d, item := en.item, seq := c.issuedStores, kind := k }
    let advanced (t : State) (i : Instr) : Prop := t = s.setEngine e (t.engine e) ∧ (t.engine e).issued = en.issued ++ [i] ∧
      (t.engine e).core.g (slotField w 15 4) = g.next
    (slotField w 19 2 ≠ 3 → fmtReserved (slotField w 21 4) = false → a % 256 + 64 * size ≤ 256 →
      (∀ id, storeOf g.store.toNat = some id → (id = StoreId.table → slotField w 21 4 = fRAW) →
        a + 64 * size ≤ hdr.need id →
        onlySpans w true [(9, 6), (15, 4), (19, 2), (21, 4)] = true →
        ∃ t, exec (.mvSt e w) s = .next t ∧ advanced t (.mvSt e w) ∧
          (t.engine e).core.pend = c.pend ++ [⟨c.pos + 2, c.pos, 5, .store (c.keepSets ⟨id, bytes, slotField w 21 4, 0, whole⟩), c.pos⟩]) ∧
      (∀ d, g.store = 0 → a + 64 * size ≤ hdr.lNeed → s.destOf en (c.sw (slotField w 25 5)).toNat = some d →
        onlySpans w true [(9, 6), (15, 4), (19, 2), (21, 4), (25, 5)] = true →
        ∃ t, exec (.mvStr e w) s = .next t ∧ advanced t (.mvStr e w) ∧ (t.engine e).core.issuedStores = c.issuedStores + 1 ∧
          (t.engine e).core.pend = c.pend ∧
          (t.engine e).staged = en.staged ++ [remote d (.plain ⟨.loam, bytes, slotField w 21 4, if whole then c.consumed else 0, whole⟩)])) ∧
    (onlySpans w true [(9, 6), (15, 4), (19, 1), (20, 1), (21, 5)] = true → g.store = 0 → a / 256 * 256 + 256 ≤ hdr.lNeed →
      let vals : List (Nat × Int) := if w.getLsbD 19
        then ((List.range 32).filter (fun k => c.pm (slotField w 6 3) (2 * k))).map (fun k =>
          (k, (c.v (slotField w 9 6) (2 * k + 1) ++ c.v (slotField w 9 6) (2 * k)).toInt))
        else ((List.range 64).filter (c.pm (slotField w 6 3))).map (fun k => (k, (c.v (slotField w 9 6) k).toInt))
      (w.getLsbD 20 = false → ∃ t, exec (.mvAcw e w) s = .next t ∧ advanced t (.mvAcw e w) ∧
        (t.engine e).core.pend = c.pend ++ [⟨c.pos + 2, c.pos, 5, .acw (a / 256) (w.getLsbD 19) vals 0, c.pos⟩]) ∧
      (w.getLsbD 20 = true → ∀ d, s.destOf en (c.sw (slotField w 21 5)).toNat = some d →
        ∃ t, exec (.mvAcw e w) s = .next t ∧ advanced t (.mvAcw e w) ∧ (t.engine e).core.issuedStores = c.issuedStores + 1 ∧
          (t.engine e).staged = en.staged ++ [remote d (.acw (a / 256) (w.getLsbD 19) vals 0)])) ∧
    (∀ id, onlySpans w false [(9, 5), (14, 4)] = true → storeOf (c.g (slotField w 14 4)).store.toNat = some id →
      let a8 := (c.g (slotField w 14 4)).cur.toNat / 8 * 8
      a8 + 8 ≤ hdr.need id →
      ∃ t, exec (.mvSst e w) s = .next t ∧ t = s.setEngine e (t.engine e) ∧
        (t.engine e).core.pend = c.pend ++ [⟨c.pos + 2, c.pos, 5, .store (c.keepSets ⟨id, (List.range 8).map (fun b =>
          (a8 + b, (c.sw (slotField w 9 5)).extractLsb' (8 * b) 8)), fRAW, 0, false⟩), c.pos⟩])

/-- R120, R194, R259 to R265: XOPEN of a block whose header is in order opens it in its context at the first decoded byte, with its checker at work and
for use from eight positions later, and counts it; where the context's checker still works the engine will wait, and the block opens then; a header that is
not in order leaves the context failed. -/
def Obligations.BlockOpening : Prop :=
  ∀ (s : State) (e : EngId) (w : W64), s.slotOpen e 5 w → onlySpans w false [(9, 1), (10, 4)] = true →
    let en := s.engine e
    let g := en.core.g (slotField w 10 4)
    let a := g.cur.toNat
    let xc := slotField w 9 1
    let kNeed := (s.item en.item).hdr.kNeed
    let h := Memory.readN (en.sees .kaolin).data a 512
    g.store = 1 → a + 512 ≤ kNeed → (en.sees .kaolin).errs = [] → (en.sees .kaolin).marks = [] → en.core.kaolin.marks = [] →
    ((en.core.x xc).checking = false → headerFault h = none → a + field h 8 4 ≤ kNeed →
      ∃ t, exec (.xopen e w) s = .next t ∧ t = s.setEngine e (t.engine e) ∧
        let x := (t.engine e).core.x xc
        x.opened = true ∧ x.failed = false ∧ x.checking = true ∧ x.pos = 0 ∧ x.base = a ∧ x.tiles = [] ∧ x.raw = (field h 3 1).testBit 0 ∧
          x.layout = field h 3 1 / 2 % 4 ∧ x.tensorTag = field h 12 4 ∧ x.blockIndex = field h 16 4 ∧ x.readyAt = en.core.pos + 8 ∧
          Staged.count oXP_OPEN 1 ∈ (t.engine e).staged) ∧
    ((en.core.x xc).checking = false → headerFault h ≠ none →
      ∃ t, exec (.xopen e w) s = .next t ∧ t = s.setEngine e (t.engine e) ∧
        ((t.engine e).core.x xc).failed = true ∧ Staged.count oXP_FAIL 1 ∈ (t.engine e).staged ∧
        Staged.status stDECODE_ERROR 0x2000 ∈ (t.engine e).staged) ∧
    ((en.core.x xc).checking = true → (headerFault h = none → a + field h 8 4 ≤ kNeed) →
      ∃ t x, exec (.xopen e w) s = .next t ∧ t = s.setEngine e (t.engine e) ∧ (t.engine e).core.xwait = some (xc, x) ∧ x.base = a ∧
        x.opened = true ∧ (x.failed = true ↔ headerFault h ≠ none) ∧ (t.engine e).core.x xc = en.core.x xc)

/-! ### Slot operations: SY -/

/-- R130, R138, R195, R196, R203: a SY operation ends its bundle. NOP does nothing else; SEND queues its token; a WAIT whose counter has reached the threshold
subtracts DEC, and one that has not holds the engine; END ends issue. R109, R110, R201: with no result, access or own
remote accumulate-on-write in flight a fence takes one position where no access
to its targets is in flight, 12 otherwise, and the named tiles and rows then carry the new tags. -/
def Obligations.SyncOperations : Prop :=
  (∀ (s : State) (e : EngId) (w : W64), s.slotFree e 7 → slotField w 0 6 = 0 → onlySpans w false [(9, 1)] = true → s.quiet e →
     (s.engine e).queue = [] → (s.item (s.engine e).item).phase ≠ .suspending →
     ∃ t, exec (.syNop e w) s = .next t ∧ s.bundleDone e 1 t ∧ (t.engine e).st = .running ∧ (t.engine e).queue = [] ∧
       (t.engine e).core.tk = (s.engine e).core.tk) ∧
  (∀ (s : State) (e : EngId) (w : W64), s.slotOpen e 7 w → s.quiet e → (s.engine e).queue = [] →
     (s.item (s.engine e).item).phase ≠ .suspending →
     let en := s.engine e
     (∀ d, onlySpans w false [(9, 1), (10, 1), (11, 8), (19, 5), (24, 8)] = true → slotField w 24 8 ≠ 0 → (w.getLsbD 10 = true → slotField w 16 3 = 0) →
       s.destOf en (if w.getLsbD 10 then (en.core.sw (slotField w 11 5)).toNat else slotField w 11 8) = some d →
       ∃ t, exec (.send e w) s = .next t ∧ s.bundleDone e 1 t ∧ (t.engine e).st = .running ∧
         (t.engine e).queue = [⟨en.core.issuedStores, .token d (slotField w 19 5) (slotField w 24 8)⟩]) ∧
     (onlySpans w false [(9, 1), (10, 5), (15, 16), (31, 16)] = true → slotField w 31 16 ≤ slotField w 15 16 →
       en.core.tkSat.contains (slotField w 10 5) = false →
       let v := (SMap.get en.core.tk (slotField w 10 5) 0).toNat
       (slotField w 15 16 ≤ v → ∃ t, exec (.wait e w) s = .next t ∧ s.bundleDone e 1 t ∧ (t.engine e).st = .running ∧
         (t.engine e).core.tk = SMap.put en.core.tk (slotField w 10 5) (BitVec.ofNat 16 (v - slotField w 31 16)) ∧
         ∀ h ∈ (t.engine e).hold, h = .stores ∨ ∃ x a, h = .checker x a) ∧
       (v < slotField w 15 16 → ∃ t y, exec (.wait e w) s = .next t ∧ s.bundleDone e 1 t ∧ (t.engine e).core.tk = en.core.tk ∧
         Hold.wait (slotField w 10 5) (slotField w 15 16) (slotField w 31 16) y ∈ (t.engine e).hold)) ∧
     (onlySpans w false [] = true → en.core.cmp = none →
       ∃ t, exec (.endOp e w) s = .next t ∧ s.bundleDone e 1 t ∧ (t.engine e).st = .ending)) ∧
  (∀ (s : State) (e : EngId) (w : W64), s.slotOpen e 7 w → s.quiet e → (s.engine e).queue = [] → (s.engine e).core.pend = [] →
     (s.engine e).acc = [] → (s.engine e).selfAcw = [] → (s.engine e).core.xwait = none → (s.engine e).outstanding < 64 →
     onlySpans w false [(9, 1), (10, 4), (14, 8), (22, 12), (34, 13), (47, 4)] = true →
     let en := s.engine e
     let tag := slotField w 14 8
     let first := slotField w 22 12
     let count := slotField w 34 13
     (tag = 0 ∨ tag < 128 ∧ (tag % 16 = fI8 ∨ tag % 16 = fI4 ∧ tag / 16 % 4 ≠ 3)) → count ≤ 4096 → fmtReserved (slotField w 47 4) = false →
     (count = 0 ∨ 256 * (first + count) ≤ (s.item en.item).hdr.lNeed) → SMap.wf en.core.loam.tags = true →
     ∃ t n, exec (.fmtFence e w) s = .next t ∧ s.bundleDone e n t ∧
       (n = if (slotField w 10 4 = 0 ∧ count = 0) ∨ en.fenceBusy e (slotField w 10 4) first count = false then 1 else 12) ∧
       (∀ i < 4, ((t.engine e).core.tile i).tag = if (slotField w 10 4).testBit i then BitVec.ofNat 8 tag else (en.core.tile i).tag) ∧
       (∀ r, (t.engine e).core.loam.tag r = if first ≤ r ∧ r < first + count then slotField w 47 4 else en.core.loam.tag r) ∧
       (t.engine e).core.loam.data = en.core.loam.data)

/-- R131, R195, R197, R198, R202: a transfer that passes its checks, a QSEND and an SVSEND take a place in the send queue with the four scalars as they are at issue, behind
the token at its head; a transfer of another KIND or that fails a check faults, and so does a QSEND or SVSEND of rows outside LOAM_NEED (R159, R163). -/
def Obligations.QueuedOperations : Prop :=
  ∀ (s : State) (e : EngId) (w : W64), s.slotOpen e 7 w → s.quiet e → slotField w 14 5 ≤ 28 →
    let en := s.engine e
    let x := slotField w 14 5
    let S (i : Nat) : W64 := en.core.sw (x + i)
    let queued (i : Instr) (k : SqKind) : Prop := ∀ q rest, en.queue = q :: rest → q.kind.isToken = true → en.queue.length < 16 →
      ∃ t, exec i s = .next t ∧ s.bundleDone e 1 t ∧ (t.engine e).queue = en.queue ++ [⟨en.core.issuedStores, k⟩]
    (onlySpans w false [(9, 1), (10, 4), (14, 5), (19, 5), (24, 8)] = true →
      ∀ p ∈ ([(.stackLoad e w, 0), (.stackStore e w, 1), (.hostLoad e w, 2), (.hostStore e w, 3), (.planeGather e w, 4), (.marlGather e w, 5),
          (.peer e w, 6), (.stackCopy e w, 7)] : List (Instr × Nat)),
        (slotField w 10 4 ≠ p.2 → exec p.1 s = .next (s.progFault e fkENCODING)) ∧
        (slotField w 10 4 = p.2 → s.dmaCheck en p.2 (S 0) (S 1) (S 2) (S 3) = .ok () →
          queued p.1 (.dma p.2 (S 0) (S 1) (S 2) (S 3) (slotField w 19 5) (slotField w 24 8) en.core.consumed)) ∧
        (∀ k, slotField w 10 4 = p.2 → s.dmaCheck en p.2 (S 0) (S 1) (S 2) (S 3) = .error k → exec p.1 s = .next (s.progFault e k))) ∧
    (onlySpans w false [(9, 1), (14, 5), (19, 5), (24, 8)] = true →
      let it := s.item en.item
      (it.unitEnd false (S 0) (S 1) (S 2) (S 3) ≤ it.hdr.lNeed →
        queued (.qsend e w) (.qsend (S 0) (S 1) (S 2) (S 3) (slotField w 19 5) (slotField w 24 8))) ∧
      (it.unitEnd true (S 0) (S 1) (S 2) (S 3) ≤ it.hdr.lNeed →
        queued (.svsend e w) (.svsend (S 0) (S 1) (S 2) (S 3) (slotField w 19 5) (slotField w 24 8))) ∧
      (it.hdr.lNeed < it.unitEnd false (S 0) (S 1) (S 2) (S 3) → exec (.qsend e w) s = .next (s.progFault e fkSTORE_RANGE)) ∧
      (it.hdr.lNeed < it.unitEnd true (S 0) (S 1) (S 2) (S 3) → exec (.svsend e w) s = .next (s.progFault e fkSTORE_RANGE)))

/-- R154, R157 to R159: a slot operation whose word sets a bit that the operation does not have, or has a reserved OP, faults with ENCODING, whichever
operation it is of; so does a no-operation word with another bit. The word 0 issues and does nothing. The engine that faults stops where its earlier bundles
left it, and the work item stops. -/
def Obligations.EncodingFaults : Prop :=
  ∀ (s : State) (e : EngId) (w : W64),
    let op := slotField w 0 6
    let bad (k : Nat) : Prop := (s.slotOpen e k w ∧ w.getLsbD 63 = true) ∨ (s.slotFree e k ∧ (opListed k op = false ∨ op = 0 ∧ w ≠ 0))
    let rows (k : Nat) (l : List Instr) : Prop :=
      (bad k → ∀ i ∈ l, exec i s = .next (s.progFault e fkENCODING)) ∧
      (s.slotFree e k → w = 0 → ∀ i ∈ l, exec i s = .next (s.issuedAs e i (s.engine e)))
    rows 0 [.tbD e w, .tbS e w, .tbP e w] ∧
    (∀ h : Fin 2, rows (1 + h.val) [.laD e h w, .laS e h w, .laC e h w, .laCs e h w, .laP e h w]) ∧
    rows 3 [.iadd e w, .isub e w, .imin e w, .imax e w, .vxAnd e w, .vxOr e w, .vxXor e w, .shl e w, .shra e w, .shrl e w, .icmp e w, .sel e w, .lmul e w,
      .ldiv e w, .ladd e w, .lsub e w, .lsqr e w, .lsqrt e w, .lexp2 e w, .llog2 e w, .lcmp e w, .lmax e w, .lmin e w, .lneg e w, .vxCvt e w, .rmax e w,
      .rsum e w, .vxMov e w, .bcast e w, .tos e w, .xchg e w, .plogic e w, .iota e w] ∧
    rows 4 [.fold e w, .rqCvt e w, .merge e w, .anp e w, .anpMeasurement e w, .rqClr e w] ∧
    rows 5 [.mvLd e w, .mvSt e w, .mvStr e w, .mvAcw e w, .mvAgset e w, .mvThset e w, .mvThadd e w, .xopen e w, .mvSld e w, .mvSst e w] ∧
    rows 6 [.brc e w, .jmp e w, .loop e w, .sadd e w, .ssub e w, .sand e w, .sor e w, .sxor e w, .sshl e w, .sshr e w, .ssra e w, .smin e w, .smax e w,
      .slt e w, .sltu e w, .sli e w, .slih e w] ∧
    (s.quiet e → (s.slotOpen e 7 w ∧ w.getLsbD 63 = true) ∨ (s.slotFree e 7 ∧ (opListed 7 op = false ∨ op = 0 ∧ onlySpans w false [(9, 1)] = false)) →
      ∀ i ∈ [Instr.syNop e w, .send e w, .wait e w, .stackLoad e w, .stackStore e w, .hostLoad e w, .hostStore e w, .planeGather e w, .marlGather e w,
        .peer e w, .stackCopy e w, .fmtFence e w, .qsend e w, .svsend e w, .endOp e w], exec i s = .next (s.progFault e fkENCODING)) ∧
    (∀ c, s.group e.val = [e.val] → SMap.find? s.items (s.engine e).item = some c → c.phase ≠ .complete → c.phase ≠ .ended →
      ((s.progFault e fkENCODING).engine e).st = .done ∧ ((s.progFault e fkENCODING).engine e).queue = [] ∧
      ((s.progFault e fkENCODING).item (s.engine e).item).phase = .stopping)
/-! ### Engines besides issue -/

/-- R25, R124, R126, R129 to R131: a token at the head of an otherwise empty send queue goes onto the network once the stores before it are acknowledged; one
that no message of its way goes before arrives and adds its increment, up to 65,535; a satisfied wait subtracts its decrement and lets the engine issue again;
an acknowledgement frees one of the outstanding stores; after a bank conflict one access repeats in a stalled cycle. -/
def Obligations.TokensWaitsAndAcknowledgements : Prop :=
  ∀ (s : State) (e : EngId) (cycles : Nat),
    let en := s.engine e
    (∀ q d tk inc, s.bundleOpen e → en.queue = [q] → en.hold = [] → q.kind = .token d tk inc → (∀ n ∈ en.unacked, q.after ≤ n) →
      ∃ t, exec (.tokenRelease e cycles) s = .next t ∧ (t.engine e).queue = [] ∧ (t.engine e).core = en.core ∧ s.keepsData t ∧
        t.tokens = s.tokens ++ [{ src := e, dst := d, tk := tk, inc := inc, item := en.item, tc := (s.item en.item).tc, sent := s.netSent }]) ∧
    (∀ (src : EngId) (tk : Fin 32) (m : TokenMsg) rest, s.tokens = m :: rest → m.src = src.val → m.dst = e.val → m.tk = tk.val → m.item = en.item →
      s.mayArrive (netPath src e) m.wire = true →
      ∃ t, exec (.tokenArrival src e tk) s = .next t ∧ t.tokens = rest ∧ s.keepsData t ∧
        (SMap.get (t.engine e).core.tk tk 0).toNat = min 65535 ((SMap.get en.core.tk tk 0).toNat + m.inc) ∧
        (t.engine e).core.scal = en.core.scal ∧ (t.engine e).core.loam = en.core.loam) ∧
    (∀ tk th dec y, s.bundleOpen e → en.hold = [.wait tk th dec y] → en.st = .running → s.frozen = false → th ≤ (SMap.get en.core.tk tk 0).toNat → dec ≤ th →
      SMap.wf en.core.tk = true → ∃ t, exec (.waitSatisfied e cycles) s = .next t ∧ (t.engine e).hold = [] ∧ s.keepsData t ∧
        (SMap.get (t.engine e).core.tk tk 0).toNat = (SMap.get en.core.tk tk 0).toNat - dec) ∧
    (∀ a rest, s.bundleOpen e → en.acks = a :: rest → en.queue = [] →
      ∃ t, exec (.storeAck e cycles) s = .next t ∧ (t.engine e).acks = rest.filter (fun b => b.1 != a.1) ∧ (t.engine e).unacked = en.unacked.erase a.1 ∧
        (t.engine e).outstanding = en.outstanding - 1 ∧ (t.engine e).core = en.core ∧ s.keepsData t) ∧
    (s.bundleOpen e → s.frozen = false → 0 < en.stall → s.canonical →
      ∃ t, exec (.busyRepeat e) s = .next t ∧ (t.engine e).stall = en.stall - 1 ∧ (t.engine e).core = en.core ∧ s.keepsData t ∧
        s.counted t (engOff e oSTALL_BUSY) 1)

/-- R132, R198, R273, R274: a transfer whose last byte is written leaves, and its token counter goes up, that of a PEER's destination too; one that cannot complete
leaves without a token and stops its work item with the status of its failure; a row written by another engine stands in the destination's store and will be
acknowledged; a write that finds another work item is counted, not carried out, and stops the writer's. -/
def Obligations.TransfersAndRemoteWrites : Prop :=
  ∀ (s : State) (e : EngId) (n : Nat) (rd : HostRead),
    let en := s.engine e
    (∀ d, en.dma = [d] → d.id = n → d.fate = .good → s.awaiting (.dma e n) = false → (∀ w ∈ s.net, w.src = e.val → w.seq ≠ 2 ^ 40 + n) →
      (d.kind ≠ 6 →
        ∃ t, exec (.dmaCompletion e n rd) s = .next t ∧ (t.engine e).dma = [] ∧ s.keepsData t ∧
          (SMap.get (t.engine e).core.tk d.tk 0).toNat = min 65535 ((SMap.get en.core.tk d.tk 0).toNat + d.inc)) ∧
      (d.kind = 6 → let dst := (s.item en.item).engines.getD (bits d.x3.toNat 0 8) 0
        let tk := bits d.x3.toNat 8 5
        dst ≠ e.val →
        ∃ t, exec (.dmaCompletion e n rd) s = .next t ∧ (t.engine e).dma = [] ∧ s.keepsData t ∧
          (SMap.get (t.engine e).core.tk d.tk 0).toNat = min 65535 ((SMap.get en.core.tk d.tk 0).toNat + d.inc) ∧
          (SMap.get (t.engine dst).core.tk tk 0).toNat = min 65535 ((SMap.get (s.engine dst).core.tk tk 0).toNat + bits d.x3.toNat 13 8))) ∧
    (∀ d, en.dma = [d] → d.id = n → s.alive en.item →
      (∀ p ∈ ([(.tagFail, stFORMAT_MISMATCH, 0x2004), (.hostFail, stHOST_TIMEOUT, 0x5001), (.undelivered, stFABRIC_UNREACHABLE, 0)] :
          List (DmaFate × Nat × Nat)), d.fate = p.1 →
        ∃ t, exec (.dmaFailure e n rd) s = .next t ∧ (t.engine e).dma = [] ∧ (t.engine e).core = en.core ∧ s.keepsData t ∧
          s.stopping t en.item p.2.1 p.2.2) ∧
      (d.fate = .index ∨ d.fate = .hostRange → s.group e = [e.val] → en.snap.pend = [] →
        ∃ t, exec (.dmaFailure e n rd) s = .next t ∧ (t.engine e).dma = [] ∧ (t.engine e).st = .done ∧ s.keepsData t ∧
          s.stopping t en.item stTENANT_FAULT 0x5100)) ∧
    (∀ (src : EngId) (w : NetW) (sw : StoreW) rest, s.net = w :: rest → w.src = src.val → w.dst = e.val → w.item = en.item → w.kind = .plain sw → w.seq < 2 ^ 40 →
      s.mayArrive (netPath src e) w.wire = true → en.st = .running → en.issued = [] → en.redo = false →
      sw.store = .kaolin → en.core.kaolin.errs = [] → en.snap.kaolin.errs = [] →
      ∃ t, exec (.networkWriteArrival src e) s = .next t ∧ t.net = rest ∧ s.keepsData t ∧
        (t.engine e).core.kaolin.data = putBytes en.core.kaolin.data sw.bytes ∧ (t.engine e).snap.kaolin.data = putBytes en.snap.kaolin.data sw.bytes ∧
        (t.engine src).acks = (s.engine src).acks ++ [(w.seq, e.val, s.netSent)]) ∧
    (∀ (src : EngId) (w : NetW) rest, s.net = w :: rest → w.src = src.val → w.dst = e.val → en.item ≠ w.item → s.alive w.item → s.canonical →
      s.mayArrive (netPath src e) w.wire = true → en.redo = false →
      ∃ t, exec (.networkWriteArrival src e) s = .next t ∧ t.net = rest ∧ t.eng = s.eng ∧ s.keepsData t ∧
        s.counted t (engOff e oFOREIGN) 1 ∧ s.stopping t w.item stTENANT_FAULT 0x3104)

/-- R261 to R263, R285, R290: a pending write-back makes its word clean; a checker that finds no fault leaves its context's block good, and one
that finds a fault fails the block and counts it; then a block whose XOPEN waited for the checker is open; a scrub of a row goes on to the next row, and after
the last a pass is counted. -/
def Obligations.WriteBacksCheckersAndScrub : Prop :=
  ∀ (s : State) (e : EngId),
    let en := s.engine e
    let clean : Prop := en.core.kaolin.errs = [] ∧ en.snap.kaolin.errs = [] ∧ en.core.kaolin.marks = [] ∧ en.snap.kaolin.marks = []
    (∀ word, en.core.kaolin.wb.contains word = true → en.snap.kaolin.wb.contains word = true →
      ∃ t, exec (.kaolinWriteback e false word) s = .next t ∧ s.keepsData t ∧
        (t.engine e).core.kaolin = { en.core.kaolin with wb := en.core.kaolin.wb.filter (· != word), errs := SMap.erase en.core.kaolin.errs word } ∧
        (t.engine e).core.loam = en.core.loam) ∧
    (∀ (xc : Fin 2) cycles, let x := en.snap.x xc
      x.checking = true → clean →
      (x.failed = false → en.hold = [] →
        (checkBlock en.snap.kaolin.data (Memory.readN en.snap.kaolin.data x.base 512) x.base = none →
          ∃ t, exec (.checkerDone e xc cycles) s = .next t ∧ s.keepsData t ∧
            (t.engine e).snap.x xc = { x with checking := false } ∧ (t.engine e).core.kaolin = en.core.kaolin) ∧
        (∀ sub chk, checkBlock en.snap.kaolin.data (Memory.readN en.snap.kaolin.data x.base 512) x.base = some (sub, chk) → s.canonical →
          ∃ t, exec (.checkerDone e xc cycles) s = .next t ∧ s.keepsData t ∧ s.counted t (engOff e oXP_FAIL) 1 ∧
            ((t.engine e).snap.x xc).checking = false ∧ ((t.engine e).snap.x xc).failed = true)) ∧
      (∀ y, en.hold = [.checker xc y] → s.bundleOpen e →
        ∃ t, exec (.checkerDone e xc cycles) s = .next t ∧ s.keepsData t ∧ (t.engine e).snap.x xc = y ∧ (t.engine e).hold = [])) ∧
    (en.st ≠ .clearing → s.getField (0x10100 + 8 * (e.val / 24)) 32 3 ≠ 4 → en.snap.kaolin.errs = [] → en.core.kaolin.errs = [] → en.issued = [] → s.canonical →
      let row := s.getField (engOff e 0x178) 0 13
      s.extBusy e .kaolin row = false →
      ∃ t, exec (.kaolinScrub e) s = .next t ∧ s.keepsData t ∧ (t.engine e).core = en.core ∧
        (row < 8191 → t.getField (engOff e 0x178) 0 13 = row + 1 ∧ t.getField (engOff e 0x178) 16 16 = s.getField (engOff e 0x178) 16 16) ∧
        (row = 8191 → t.getField (engOff e 0x178) 0 13 = 0 ∧
          t.getField (engOff e 0x178) 16 16 = (s.getField (engOff e 0x178) 16 16 + 1) % 2 ^ 16))

/-- R140, R142, R143, R145: a watchdog beyond its limit stops the program with YIELD_OVERRUN; the first victim that warm work needs is asked to suspend; a work item whose
engines all stand at their yield points leaves them with one frame each, and goes on from its frames on other engines. -/
def Obligations.SuspensionAndWatchdog : Prop :=
  ∀ (s : State) (item : Nat),
    (∀ (e : EngId) cycles, let en := s.engine e
      en.st = .running → en.item = item → s.getField (engOff e oYWD_LIMIT) 0 24 < en.wd → s.group e = [e.val] → en.snap.pend = [] → s.alive item → s.holdsEvents →
      ∃ t, exec (.yieldOverrun e cycles) s = .next t ∧ (t.engine e).st = .done ∧ (t.engine e).issued = [] ∧ s.keepsData t ∧
        s.stopping t item (faultStatus fkYIELD_OVERRUN) 0x5101 ∧
        s.told t 0x5101 0 (some (s.item item).tenant) [(1, fkYIELD_OVERRUN), (1, en.logical), (2, en.snap.pc)]) ∧
    (∀ k w, SMap.find? s.items k = some w → w.tc = 0 → w.job = none → s.mayStart w = true → s.onWarm w = true → s.warmComing < w.hdr.logical →
      s.victims.head? = some item →
      ∃ t, exec (.suspendRequest item) s = .next t ∧ (t.item item).phase = .suspending ∧ (t.item item).engines = (s.item item).engines ∧ s.keepsData t) ∧
    (∀ w, SMap.find? s.items item = some w →
      (w.phase = .suspending → w.engines.all s.yielded = true → (∀ n ∈ s.net, n.item ≠ item) → (∀ x ∈ s.tokens, x.item ≠ item) →
        ∃ t, exec (.suspend item) s = .next t ∧ (t.item item).phase = .suspended ∧ (t.item item).engines = [] ∧
          (t.item item).frames.length = w.frames.length + w.engines.length ∧ (∀ e ∈ w.engines, (t.engine e).st = .idle ∧ (t.engine e).item = 0) ∧
          s.keepsData t) ∧
      (∀ engines : List EngId, let l := engines.map (·.val)
        w.phase = .suspended → s.mayRun = true → s.assignOk w l = true →
        (∀ e ∈ l, ((s.engine e).pool = w.decode ∨ w.job.isSome = true) ∧ s.engReady w e = true) → s.quadsReady (dedup (l.map quadOf)) (needClk w.hdr.ymax) = true →
        ∃ t, exec (.resume item engines) s = .next t ∧ (t.item item).phase = .running ∧ (t.item item).engines = l ∧ s.keepsData t ∧
          ∀ p ∈ l.zipIdx, ∀ f, w.frames.find? (fun f => f.logical == p.2) = some f →
            (t.engine p.1).st = (if f.ending then .done else .running) ∧ (t.engine p.1).item = item ∧ (t.engine p.1).logical = p.2 ∧
            (t.engine p.1).core.pc = f.core.pc ∧ (t.engine p.1).core.scal = f.core.scal ∧ (t.engine p.1).core.tiles = f.core.tiles ∧
            (t.engine p.1).hold = f.hold))

/-! ### The dispatcher -/

/-- R118, R152, R153, R351, R501 to R503: a work item that may start, stands first in its class's order and is given ready free engines of its pool in awake
quadrants starts on them at its entry; an image that waiting work wants goes into a free cleared engine where the engines that hold it do not suffice; the
pairs of an instance and slot start as expert work (in the order of R501: the model's choice, log 146). -/
def Obligations.WorkItemsStart : Prop :=
  ∀ (s : State) (item : Nat) (engines : List EngId),
    let l := engines.map (·.val)
    let awake (w : WorkItem) : Prop := s.quadsReady (dedup (l.map quadOf)) (needClk w.hdr.ymax) = true
    (∀ w, SMap.find? s.items item = some w → w.job = none → s.mayStart w = true → s.assignOk w l = true → (∀ e ∈ l, s.engReady w e = true) → awake w →
      (w.tc ≠ 0 → s.tc0Waits = false → s.fits w = true → s.isNext w = true → (∀ e ∈ l, (s.engine e).pool = w.decode) →
        ∃ t, exec (.workItemStart item engines) s = .next t ∧ t.startedOn item w l ∧ s.keepsData t) ∧
      (w.tc = 0 → (∀ p ∈ s.items, p.2.tc = 0 → p.2.job = none → s.mayStart p.2 = true → s.inShare p.2 = s.inShare w → w.announced ≤ p.2.announced) →
        s.onWarm w = false → (∀ e ∈ l, (s.engine e).pool = w.decode) →
        ∃ t, exec (.tc0Start item engines) s = .next t ∧ t.startedOn item w l ∧ s.keepsData t)) ∧
    (∀ w image (e : EngId), (s.wanting image).head? = some w → s.placeFor w e = true → s.freeEng e = true → (s.engine e).clearedOnce = true →
      ((s.engine e).bound = none ∨ (s.engine e).bound = some w.tenant) → (s.engine e).resident ≠ some image → s.qState (quadOf e) < 4 →
      canPlace w (fun x => s.freeSet.contains x && s.placeFor w x && s.engReady w x) = false →
      exec (.programCopy e image) s =
        .next (s.setEngine e { s.engine e with bound := some w.tenant, resident := some image, istoreErr := [] })) ∧
    (∀ job j, SMap.find? s.jobs job = some j → j.item = none → j.origin ≠ 64 * s.rack + s.self → let w := s.expertItem job j
      s.slotGood j = true → paramsOk (SMap.get s.images w.image ⟨0, []⟩).bytes w.params = true → s.mayStart w = true → s.assignOk w l = true →
      (∀ e ∈ l, s.engReady w e = true ∧ s.placeFor w e = true) → (w.tc ≠ 0 → s.tc0Waits = false ∧ (s.fits w = true → s.isNext w = true)) → awake w →
      ∃ t, exec (.expertWorkStart job engines) s = .next t ∧ t.startedOn s.nextItem w l ∧ s.keepsData t ∧
        SMap.find? t.jobs job = some { j with item := some s.nextItem })

/-- R154, R203, R457: an engine whose part is over waits for the others, and the last one ends the work item; a work item that stops ends at once; ended engines
are free. A work item that ended, with nothing left to decide, completes. -/
def Obligations.WorkItemsEnd : Prop :=
  ∀ (s : State) (item : Nat) (w : WorkItem), SMap.find? s.items item = some w →
    (∀ e : EngId, (s.engine e).item = item → s.partOver e = true → (s.engine e).core.pend = [] → w.phase = .running → e.val ∈ w.engines →
      ((∃ d ∈ w.engines, d ≠ e.val ∧ (s.engine d).st ≠ .done) →
        ∃ t, exec (.enginePartEnd e) s = .next t ∧ (t.engine e).st = .done ∧ t.items = s.items ∧ s.keepsData t) ∧
      ((∀ d ∈ w.engines, d ≠ e.val → (s.engine d).st = .done) →
        ∃ t, exec (.enginePartEnd e) s = .next t ∧ (t.item item).phase = .ended ∧ (t.item item).endedAt = s.now ∧
          (∀ d ∈ w.engines, (t.engine d).st = .idle ∧ (t.engine d).item = 0) ∧ s.keepsData t)) ∧
    (w.phase = .stopping → ∃ t, exec (.workItemStop item) s = .next t ∧ (t.item item).phase = .ended ∧ (t.item item).endedAt = s.now ∧
      (t.item item).frames = [] ∧ (∀ d ∈ w.engines, (t.engine d).st = .idle ∧ (t.engine d).item = 0) ∧ s.keepsData t) ∧
    (∀ outs, w.phase = .ended → s.normWaits item = false → w.srv = none → SMap.wf s.items = true →
      ∃ t, exec (.workItemComplete item outs) s = .next t ∧ ∀ w', SMap.find? t.items item = some w' → w'.phase = .complete)

/-- R292 to R294, R497 to R500: clearing an idle engine unbinds it and takes its image out; when it is done nothing of a tenant is left and the engine may take
work; where it does not end in 3 µs of unstretched time the engine leaves service. The engine that a scheduled move takes changes pool and is counted. With the
balancer off and nothing waiting, engines move only where a limit asks for it. -/
def Obligations.ClearingAndPools : Prop :=
  ∀ (s : State) (e : EngId),
    let en := s.engine e
    (en.st = .idle → en.item = 0 → en.clrFail = false → s.frozen = false → s.qState (quadOf e) = 0 → s.canonical →
      ∃ t, exec (.engineClear e) s = .next t ∧ (t.engine e).st = .clearing ∧ (t.engine e).bound = none ∧ (t.engine e).resident = none ∧
        (t.engine e).clearAt = s.eff ∧ t.getField (engOff e oSTORE_CTRL) 25 1 = 1 ∧ s.keepsData t) ∧
    (en.st = .clearing → s.frozen = false → s.qState (quadOf e) = 0 →
      ∃ t, exec (.clearingDone e) s = .next t ∧ t.engine e = { pool := en.pool, saves := en.saves, scrubCe := en.scrubCe, clearedOnce := true, clearAt := en.clearAt } ∧
        (∀ d, d ≠ e.val → t.engine d = s.engine d) ∧ s.keepsData t) ∧
    (en.st = .clearing → en.clearAt + 3000 < s.eff → s.holdsEvents → s.canonical →
      ∃ t, exec (.clearFail e) s = .next t ∧ (t.engine e).st = .idle ∧ (t.engine e).clearedOnce = false ∧ t.inService e = false ∧
        s.told t 0x3105 0 none [(1, e.val)] ∧ s.keepsData t) ∧
    (s.reserved.head? = some e.val → s.canonical →
      ∃ t, exec (.enginePoolMove e) s = .next t ∧ (t.engine e) = { en with pool := s.movesUp } ∧ t.moves = s.moves - 1 ∧ s.counted t 0xB0020 1 ∧ s.keepsData t) ∧
    (s.getField rSRV_CTRL 1 1 = 0 → (∀ k ∈ s.items, k.2.phase ≠ .waiting) → s.canonical → let l := fun (o : Nat) => s.getField rSRV_LIMITS o 8
      (l 0 + l 16 ≤ s.availCount → l 16 ≤ s.decodeSize → s.decodeSize ≤ l 24 → s.availCount ≤ s.decodeSize + l 8 → s.decodeSize + l 0 ≤ s.availCount →
        ∃ t, exec .reelBalancerEvaluation s = .next t ∧ t.moves = 0 ∧ t.eng = s.eng ∧ t.getField rSRV_POOLS 16 8 = s.decodeSize % 256 ∧ s.keepsData t) ∧
      (s.decodeSize < l 16 → l 16 ≤ l 24 → s.availCount ≤ l 16 + l 8 → l 16 + l 0 ≤ s.availCount →
        ∃ t, exec .reelBalancerEvaluation s = .next t ∧ t.moves = min 8 (l 16 - s.decodeSize) ∧ t.movesUp = true ∧ t.eng = s.eng ∧
          t.getField rSRV_POOLS 16 8 = l 16 ∧ s.keepsData t))

/-! ### Quadrille -/

/-- R334, R340 to R345: a QSEND that waited opens an instance when one is free; an instance with every token's scores is admitted: the pairs are those that
selection and capacity leave, at most CAPACITY for each expert, and the dropped ones are counted. -/
def Obligations.InstancesOpenAndAdmit : Prop :=
  ∀ s : State,
    (∀ q, s.qwait = [q] → s.instOf q.item q.x2.toNat = none → s.instFree (s.item q.item).tc = true → s.qsendGate q = .go →
      s.mayRead (s.item q.item).tenant ((s.item q.item).routing + 64 + 64 * q.x2.toNat) 64 = true →
      ∃ t, exec .instanceOpen s = .next t ∧ t.qwait = [] ∧ t.nextInst = s.nextInst + 1 ∧
        ∃ x, SMap.find? t.insts s.nextInst = some x ∧ x.item = q.item ∧ x.layer = q.x2.toNat ∧ x.tenant = (s.item q.item).tenant ∧
          x.step = (s.item q.item).step ∧ x.admitted = false ∧ x.pairs = []) ∧
    (∀ inst x, SMap.find? s.insts inst = some x → x.admitted = false → x.tokens ≤ x.scores.length → SMap.wf x.scores = true → s.canonical →
      let adm := x.choose.1
      let gids := dedup (adm.map (fun p => p.2.2))
      (∀ g ∈ gids, s.readGate (s.failFast x.item) (x.emap + 8 * g) 8 = .go ∧ s.mayRead x.tenant (x.emap + 8 * g) 8 = true) →
      (s.mapEntries x.item x.emap gids).2.1 = false →
      ∃ t, exec (.admission inst) s = .next t ∧ s.counted t 0xA0018 x.choose.2.1 ∧
        ∃ y, SMap.find? t.insts inst = some y ∧ y.admitted = true ∧ y.pairs.map (fun p => (p.score, p.tok, p.gid)) = adm ∧
          y.selected = x.choose.2.2 ∧ y.ovr = x.choose.2.1 ∧ y.selected = y.pairs.length + y.ovr ∧
          (∀ p ∈ y.pairs, p.st = .admitted) ∧ (∀ g, (y.pairs.filter (fun p => p.gid == g)).length ≤ x.capacity))

/-- R346 to R353: a pair whose location lies on another module of the rack leaves in a bundle to it, with a buffer reserved for its return; a bundle's pair for this module and a slot of its tenant
becomes expert work; a return of this module's pair is kept with its instance; a return for another origin of the rack goes on to it. -/
def Obligations.BundlesAndReturnsTravel : Prop :=
  ∀ s : State,
    (∀ inst x p d sl, SMap.find? s.insts inst = some x → x.admitted = true → x.pairs = [p] → p.st = .admitted → s.chooseLoc x.flow p.entry = some (d, sl, false) →
      d / 64 = s.rack → d ≠ 64 * s.rack + s.self → s.canonical →
      s.readGate (s.failFast x.item) (x.xdpa + p.tok * x.xrow) x.xrow = .go → s.mayRead x.tenant (x.xdpa + p.tok * x.xrow) x.xrow = true →
      (s.reserve [x.buf p.tok p.gid]).isSome = true →
      ∃ t, exec (.bundleSend inst d) s = .next t ∧ s.counted t 0xA0010 1 ∧ t.rbufs = s.rbufs ++ [x.buf p.tok p.gid] ∧
        (∃ m ∈ t.outbox, m.kind = 1 ∧ m.tc = x.tc ∧ m.peer = d ∧ m.tenant = x.tenant ∧ field m.body 0 2 = 0x5142 ∧ field m.body 2 1 = 1 ∧
          field m.body 0x20 2 = 1) ∧
        ∃ y, SMap.find? t.insts inst = some y ∧ y.pairs = [{ p with dest := d, slot := sl, st := .sent }]) ∧
    (∀ (m : Msg) hdr row tok g sl, s.inbox = [m] → m.kind = 1 → hdr.length = 64 → field hdr 0x20 2 = 1 →
      m.body = hdr ++ leBytes 4 tok ++ leBytes 2 g ++ leBytes 1 sl ++ leBytes 1 s.self ++ row →
      row.length = 32 * ceilDiv (field hdr 0x22 2 + field hdr 0x22 2 / 32) 32 → tok < 2 ^ 32 → g < 2 ^ 16 → sl < 256 →
      s.slotOk (field hdr 0x15 1 % 64) sl = true → s.jobs = [] →
      ∃ t, exec .bundleArrival s = .next t ∧ t.inbox = [] ∧ t.jobs = [(s.nextJob, ⟨hdr, sl, field hdr 0x16 2 % 4096, [⟨tok, g, row⟩], none⟩)] ∧
        s.keepsData t) ∧
    (∀ (m : Msg) k x, s.inbox = [m] → m.kind = 2 → field m.body 0x16 2 % 4096 = 64 * s.rack + s.self → field m.body 0x20 2 = 1 →
      s.instByHdr m.body = some k → SMap.find? s.insts k = some x → x.deadline = none →
      let r := (m.body.drop 64).take (32 * ceilDiv (16 + 2 * field m.body 0x22 2) 32)
      (∃ p ∈ x.pairs, p.tok = field r 0 4 ∧ p.gid = field r 4 2 ∧ p.st = .sent) →
      ∃ t, exec .returnArrival s = .next t ∧ t.inbox = [] ∧ s.keepsData t ∧
        ∃ y, SMap.find? t.insts k = some y ∧ ∀ p ∈ y.pairs, p.tok = field r 0 4 → p.gid = field r 4 2 →
          p.st = .returned ∧ p.status = field r 6 1 ∧ p.row = codes2 (field m.body 0x22 2) (r.drop 16)) ∧
    (∀ m : Msg, s.inbox = [m] → m.kind = 2 → field m.body 0x16 2 % 4096 ≠ 64 * s.rack + s.self →
      exec .returnBundleArrival s = .next { s with inbox := [], outbox := s.outbox ++ [{ m with peer := field m.body 0x16 2 % 4096 }] })

/-- R354, R355, R357 to R359: a settled token's merged row stands in the Loam store of the engine that sent its scores; past its deadline an instance with pairs
missing stops its work item, or under DEGRADE goes on without them; an instance without the scores of some token closes and stops its work item. -/
def Obligations.MergeAndDeadlines : Prop :=
  ∀ (s : State) (inst : Nat) (x : Inst), SMap.find? s.insts inst = some x →
    (∀ tok part e, x.parts.find? (fun p => decide (p.t0 ≤ tok ∧ tok < p.t0 + p.n) && !p.done.contains tok) = some part → x.settled tok = true → (s.item x.item).engAt part.logical = some e →
      let a := x.mergeLoam + (tok - part.t0) * x.mrow
      let ps := x.pairs.filter (fun p => p.tok == tok && p.st == .returned)
      let n : Nat := if x.bf16 then 2 else 4
      (∀ p ∈ ps, p.at_ < s.pav) → a + x.mrow ≤ (s.item x.item).hdr.lNeed → x.mergeLoam % 256 = 0 → (s.engine e).issued = [] →
      (s.engine e).core.loam.errs = [] → (s.engine e).snap.loam.errs = [] → Memory.wf (s.engine e).core.loam.data = true →
      ∃ t, exec (.mergeRows inst tok) s = .next t ∧ s.keepsData t ∧ ∀ k < x.hidden,
        leNat (Memory.readN (t.engine e).core.loam.data (a + n * k) n) =
          (if x.bf16 then fConv fFP32 fBF16 (mergeEl ps k) else mergeEl ps k) % 2 ^ (8 * n)) ∧
    (∀ d, x.deadline = some d → d + (s.thr - x.thr0) + 1 < s.pav → s.holdsEvents → s.canonical → s.alive x.item →
      let isLate (p : QPair) : Bool := decide (p.st = .sent) || (decide (p.st = .admitted) && (s.chooseLoc x.flow p.entry).isSome)
      let late := x.pairs.filter isLate
      let lost := x.pairs.filter (fun p => decide (p.st = .admitted) && !isLate p)
      late ≠ [] →
      ∃ t, exec (.expertTimeout inst) s = .next t ∧ s.keepsData t ∧ s.counted t 0xA0028 late.length ∧ s.counted t 0xA0020 lost.length ∧
        (lost = [] → s.told t 0x8000 x.handle (some x.tenant) [(4, x.handle), (8, x.step), (1, x.layer), (4, late.length)]) ∧
        (bit (s.chan x.chan).attr 1 = false → t.stoppingWith x.item stEXPERT_TIMEOUT 0x8000) ∧
        (bit (s.chan x.chan).attr 1 = true → (t.item x.item).phase = (s.item x.item).phase ∧
          (stDEGRADED, 0x8000) ∈ (t.item x.item).statuses ∧ (lost = [] → (t.item x.item).statuses = (s.item x.item).statuses ++ [(stDEGRADED, 0x8000)]) ∧
          ∃ y, SMap.find? t.insts inst = some y ∧ ∀ p ∈ y.pairs, p.st ≠ .admitted ∧ p.st ≠ .sent)) ∧
    (x.scores.length < x.tokens → x.opened + 1000 * x.deadlineUs ≤ s.pav → s.holdsEvents → s.alive x.item →
      ∃ t, exec (.qsendIncomplete inst) s = .next t ∧ s.keepsData t ∧ t.stoppingWith x.item stTENANT_FAULT 0x8006 ∧
        s.told t 0x8006 x.handle (some x.tenant) [(4, x.handle), (8, x.step), (1, x.layer), (4, x.tokens - x.scores.length)])

/-! ### Decisions after a step -/

/-- R224 to R226, R371: a step's audited rows join its predictor's window, which closes at 4,096 tokens and falls back where the misses exceed the limit; a watch point moves its
running mean by the step's statistic, or keeps it and reports a jump (the place of GRAD in the event is the model's choice, log 155). -/
def Obligations.PredictorAndNormDecisions : Prop :=
  ∀ (s : State) (item : Nat) (w : WorkItem), SMap.find? s.items item = some w → (w.phase = .ended ∨ w.phase = .complete) →
    (∀ p x, SMap.find? s.preds (w.chan * 64 + p) = some x → w.job = none → w.evald.contains p = false →
      let mine := w.audits.filter (fun a => a.1 == p)
      let toks := dedup ((w.skips.filter (fun t => t.1 == p)).map (fun t => t.2.1))
      (mine ≠ [] ∨ toks ≠ []) →
      let aud := x.audited + (mine.map (fun a => a.2.2.1)).sum
      let mis := x.misses + (mine.map (fun a => a.2.2.2)).sum
      let tok := x.tokens + toks.length + (w.retPairs.filter (fun q => q == p)).length
      ∃ t, exec (.predictorEvaluation item p) s = .next t ∧ s.keepsData t ∧
        SMap.find? t.preds (w.chan * 64 + p) = some (if tok < 4096 then { x with tokens := tok, audited := aud, misses := mis }
          else { x with tokens := 0, audited := 0, misses := 0, fallen := x.fallen || decide (0 < aud ∧ x.limit * aud < mis * 100000) })) ∧
    (∀ idx, idx ≠ 255 → s.mayDecide w idx = true → w.normLeft.contains idx = true → s.normFirst item idx = true →
      let cfg := s.nwWord w.chan idx
      let x := SMap.get s.nwSt (256 * w.chan + idx) {}
      let ms := w.meanSq idx
      bit cfg 0 = true → w.normSq.any (fun p => p.1 == idx) = true →
      (w.normOver.contains idx = false → lIsOvf ms = false → x.updates < nwWarm cfg →
        ∃ t, exec (.normWatchDecision item idx) s = .next t ∧ s.keepsData t ∧ t.chans = s.chans ∧
          SMap.get t.nwSt (256 * w.chan + idx) {} = { x with
            m := nwMean (decide (x.updates = 0)) (nwAlog2 cfg) x.m ms, lastMs := ms, updates := satN 32 (x.updates + 1) }) ∧
      ((w.normOver.contains idx = true ∨ lIsOvf ms = true) → s.holdsEvents →
        ∃ t, exec (.normWatchDecision item idx) s = .next t ∧ s.keepsData t ∧
          SMap.get t.nwSt (256 * w.chan + idx) {} = { x with lastMs := ms, jumps := satN 32 (x.jumps + 1), jumpStep := w.step % 2 ^ 32 } ∧
          s.told t 0x1000 (s.handleOf w.chan) (some w.tenant)
            [(4, s.handleOf w.chan), (1, idx), (8, w.step), (1, (if lIsOvf ms then 0 else 1) + 128 * bits cfg 19 1), (2, ms)]))

/-- R487 to R489, R495: a serving step commits once its engines have ended, and each entry with all its logits waits for a lane; the lane commits a token to the
sequence, counts it, and a finish ends the sequence. -/
def Obligations.StepsCommitAndSample : Prop :=
  ∀ (s : State) (item : Nat) (w : WorkItem) (sv : ServeSt), SMap.find? s.items item = some w → w.srv = some sv →
    (w.phase = .ended → sv.commit = none → s.normWaits item = false → w.outcome.1 = stOK → (s.chan w.chan).epoch = w.epoch →
      (∀ e ∈ sv.entries, e.samples = true ∧ e.full sv.vocab = true ∧ (e.parts.all (fun p => p.2.all lIsOvf)) = false ∧
        ∃ q, s.entSeq w.chan e = some q ∧ q.cancel = false) →
      ∃ t, exec (.commitPoint item) s = .next t ∧ t.nextCommit = s.nextCommit + 1 ∧ t.seqs = s.seqs ∧ s.keepsData t ∧
        (t.item item).srv = some { sv with entries := sv.entries.map (fun e => { e with dec := .sample }), commit := some s.nextCommit }) ∧
    (∀ e rest q, sv.entries = e :: rest → e.dec = .sample → s.nextToSample = some item → s.entSeq w.chan e = some q → q.cancel = false → s.canonical →
      let r := commitToken q (pickToken q e)
      ∃ t, exec .slotSample s = .next t ∧ s.counted t 0xB0028 1 ∧ s.keepsData t ∧
        (r.2 = 0 → rest = [] → SMap.find? t.seqs (16384 * w.chan + e.slot) = some r.1) ∧
        (r.2 ≠ 0 → rest = [] → SMap.wf s.seqs = true → SMap.find? t.seqs (16384 * w.chan + e.slot) = none))

/-! ### Doorbells, descriptors and completions -/

/-- R446 to R449, R469: the watcher reads a due control block; a changed doorbell word gives its own channel the new producer index and the shortest interval;
a notified member takes the index too; a good wake write queues its channel, any other is counted. -/
def Obligations.DoorbellsReachChannels : Prop :=
  ∀ s : State,
    (∀ key w, SMap.find? s.watch key = some w → s.isHead = true → s.formed = true → s.d3hot = false → w.reading = false → w.last + w.interval ≤ s.now →
      ∃ t, exec (.doorbellPoll key) s = .next t ∧ t.out = s.out ++ [.hostRead s.nextTag w.cb 16] ∧
        SMap.find? t.reads s.nextTag = some ⟨.doorbell key, w.cb, 16, 0⟩ ∧ SMap.find? t.watch key = some { w with reading := true, last := s.now } ∧
        s.keepsData t ∧ t.chans = s.chans) ∧
    (∀ key w ch c b, key = 4096 * s.self + ch → ch < 4096 → SMap.find? s.watch key = some w → s.readOut (.doorbell key) → SMap.find? s.chans ch = some c →
      c.st = .active → (ch = 0 ∨ field b 4 4 = c.epoch) → doorbellBad c (decide (ch = 0)) (field b 0 4) (field b 4 4) = none → field b 0 8 + 2 ^ 64 * field b 8 4 ≠ w.word →
      ∃ t, exec (.doorbellRead key (.ok b false) []) s = .next t ∧ (t.chan ch).piLast = field b 0 4 ∧ (t.chan ch).cqCi = field b 8 4 ∧ (t.chan ch).st = .active ∧
        SMap.find? t.watch key = some { w with reading := false, word := field b 0 8 + 2 ^ 64 * field b 8 4, interval := 250 } ∧ s.keepsData t) ∧
    (∀ (m : Msg) ch c, s.inbox = [m] → m.kind = 3 → field m.body 0 1 = 4 → s.ofHandle (field m.body 0x10 4) = .ok ch → SMap.find? s.chans ch = some c → c.st = .active →
      field m.body 0x0C 4 = c.epoch → doorbellBad c false (field m.body 8 4) c.epoch = none →
      ∃ t, exec (.notify []) s = .next t ∧ t.inbox = [] ∧ (t.chan ch).piLast = field m.body 8 4 ∧ (t.chan ch).st = .active ∧ s.keepsData t) ∧
    (∀ off len val, (off % 8 ≠ 0 ∨ len ≠ 8 ∨ 512 ≤ off ∨ 2 ^ 32 ≤ val) → s.canonical →
      ∃ t, exec (.wakeWrite off len val) s = .next t ∧ s.counted t rWAKE_DROP 1 ∧ t.watch = s.watch ∧ t.wakeq = s.wakeq ∧ s.keepsData t) ∧
    (∀ m val w, m < 64 → val < 2 ^ 32 → SMap.find? s.watch (4096 * m + val % 4096) = some w → w.handle = val → bits val 12 6 = m →
      (SMap.get s.wakeq m []).length < 256 →
      ∃ t, exec (.wakeWrite (8 * m) 8 val) s = .next t ∧ 4096 * m + val % 4096 ∈ SMap.get t.wakeq m [] ∧ t.chans = s.chans ∧ s.keepsData t ∧
        SMap.find? t.watch (4096 * m + val % 4096) = some { w with interval := 250 })

/-- R451, R457, R460, R461, R474: fetched descriptors join their channel's queue and SQ_CI goes on; a host read that times out fails by its kind, and
a doorbell's puts its channel into ERROR with cause 3; a completion record goes into the ring with its phase bit; a ring full for 100 ms puts its channel into ERROR with cause
4; a due vector sends its message, or stays pending while masked. -/
def Obligations.FetchAndCompletion : Prop :=
  ∀ s : State,
    (∀ ch c b, SMap.find? s.chans ch = some c → s.readOut (.desc ch 0) → c.arg = 0 → c.st = .active →
      ∃ t, exec (.descriptorArrival ch (.ok b false) (.ok [] false)) s = .next t ∧ (t.chan ch).sqCi = (c.sqCi + c.asked) % 2 ^ 32 ∧ s.keepsData t ∧
        (t.chan ch).fetched = c.fetched ++ (List.range c.asked).map (fun i =>
          ⟨(c.sqCi + i) % 2 ^ 32, padTo 64 ((b.drop (64 * i)).take 64), padTo 256 [], c.announced⟩)) ∧
    (∀ tag r, SMap.find? s.reads tag = some r → s.isHead = true →
      (r.who = .admin → exec (.hostReadTimeout tag) s =
        .next { s with reads := SMap.erase s.reads tag, arrived := s.arrived ++ [(.admin, r.off, .failed)] }) ∧
      (∀ ch c w, r.who = .doorbell (4096 * s.self + ch) → ch < 4096 → SMap.find? s.watch (4096 * s.self + ch) = some w → s.arrived = [] →
        SMap.find? s.chans ch = some c → c.st = .active → s.canonical →
        ∃ t, exec (.hostReadTimeout tag) s = .next t ∧ (t.chan ch).st = .error ∧ (t.chan ch).cause = 3 ∧ s.counted t rHOST_TIMEOUT 1 ∧ s.keepsData t)) ∧
    (∀ ch c r rest, SMap.find? s.chans ch = some c → c.recs = r :: rest → c.fullNow = false → r.irq = false → s.isHead = true →
      ∃ t, exec (.completionRecordWrite ch) s = .next t ∧ (t.chan ch).recs = rest ∧ (t.chan ch).cqPi = (c.cqPi + 1) % 2 ^ 32 ∧ s.keepsData t ∧
        t.out = s.out ++ [.hostWrite (c.cq + 32 * (c.cqPi % 2 ^ c.cqLog))
          (r.bytes.take 5 ++ leBytes 1 (field r.bytes 5 1 % 128 + 128 * ((c.cqPi / 2 ^ c.cqLog + 1) % 2)) ++ r.bytes.drop 6)]) ∧
    (∀ ch c since, SMap.find? s.chans ch = some c → c.fullSince = some since → c.fullNow = true → c.st = .active → since + 100000000 ≤ s.now → s.holdsEvents →
      ∃ t, exec (.cqStall ch) s = .next t ∧ (t.chan ch).st = .error ∧ (t.chan ch).cause = 4 ∧ s.keepsData t ∧
        s.told t 0x5004 (if ch = 0 then 0 else s.handleOf ch) (if ch = 0 then none else some c.tenant) [(4, c.cqPi), (4, c.cqCi)]) ∧
    (∀ v x, SMap.find? s.vecs v = some x → x.due = true → x.last = none → v < 256 → s.isHead = true → s.canonical →
      (s.getField (0x28008 + 16 * v) 32 1 = 0 → ∃ t, exec (.interruptSignal v) s = .next t ∧ t.out = s.out ++ [.msix v] ∧
        SMap.find? t.vecs v = some ⟨some s.now, false⟩ ∧ s.keepsData t) ∧
      (s.getField (0x28008 + 16 * v) 32 1 = 1 → ∃ t, exec (.interruptSignal v) s = .next t ∧ t.out = s.out ∧ t.vecs = s.vecs ∧
        t.getField (0x29000 + 8 * (v / 64)) (v % 64) 1 = 1 ∧ s.keepsData t))

/-- R450 to R456, R490: a valid WORK descriptor becomes a waiting work item with its parameters and the channel's next step; a CANCEL marks the sequence of a
slot whose work item has not written its record; a NOP only completes. -/
def Obligations.DescriptorsBecomeWork : Prop :=
  ∀ (s : State) (ch : Nat) (c : Chan) (d : Desc) (rest : List Desc), SMap.find? s.chans ch = some c → ch ≠ 0 → c.fetched = d :: rest → epochStatus c (field d.bytes 4 4) = stOK →
    let b := d.bytes
    (∀ grp im s0 s1 s2 rt, field b 0 1 = 1 → s.fatal = false → workFields c d = true → SMap.find? s.images (field b 2 2) = some im → im.tenant = c.tenant →
      (∀ h ∈ imgHandles im.bytes, s.mayDraw c.tenant ch h = true) → paramsOk im.bytes (workParams d) = true → s.workGate c b = (.go, s0) →
      (s0.setChan ch { c with steps := c.steps + 1 }).tensorCheck c.tenant (field b 8 8) = (none, s1) →
      s1.routingCheck c.tenant (field b 0x10 8) (expertParams im.bytes (workParams d)) = (.ok rt, s2) → bit (dFlags b) 3 = false → bit (dFlags b) 4 = false →
      ∃ t, exec (.work ch grp) s = .next t ∧ t.nextItem = s.nextItem + 1 ∧ (t.chan ch).fetched = rest ∧ (t.chan ch).steps = c.steps + 1 ∧
        ∃ w, SMap.find? t.items s.nextItem = some w ∧ w.phase = .waiting ∧ w.chan = ch ∧ w.tenant = c.tenant ∧ w.tc = c.tc ∧ w.step = c.steps ∧ w.desc = d.seq ∧
          w.image = field b 2 2 ∧ w.hdr = hdrOf im.bytes ∧ w.params = workParams d ∧ w.tensors = field b 8 8 ∧ w.routing = field b 0x10 8 ∧
          w.ordered = bit (dFlags b) 1 ∧ w.barWait = false ∧ w.srv = none ∧ w.experts = rt.experts ∧ w.stepTokens = rt.tokens) ∧
    (field b 0 1 = 2 → field b 8 1 = 1 → zeroAt b [(1, 3), (9, 3), (0x3C, 4)] = true → s.slotBusy ch (field b 0x0C 4) = true →
      ∀ q, SMap.find? s.seqs (16384 * ch + field b 0x0C 4) = some q →
      ∃ t, exec (.cancel ch) s = .next t ∧ SMap.find? t.seqs (16384 * ch + field b 0x0C 4) = some { q with cancel := true } ∧ (t.chan ch).fetched = rest ∧
        t.items = s.items ∧ s.keepsData t) ∧
    (field b 0 1 = 3 → zeroAt b [(1, 3), (8, 56)] = true → c.writesRecs = true →
      exec (.nop ch) s = .next (s.setChan ch { c with fetched := rest, recs := c.recs ++ [⟨recBytes d.seq stOK fDONE 0 0 0 0 0 0 0 0 0, false⟩] }))

/-! ### Admin descriptors -/

/-- R440 to R446: a valid CREATE_CHANNEL makes an active channel with the next generation at the lowest free index and answers its handle; DESTROY starts to end one, and
it is gone once its work and records are; HALT and RESUME change its state. -/
def Obligations.AdminChannels : Prop :=
  ∀ (s : State) (d : Desc), let b := d.bytes
    let i := SMap.firstFree s.chans 1 4095
    let g := SMap.get s.gens i 0 % 255 + 1
    (s.adminTurn d 0x40 → adReserved false [(0x08, 0x28)] b = true → s.tenantEnabled (adTenant b) = true → createOk b = true → field b 0x2A 1 ≠ 0 → i ≤ 4095 →
      s.inWindow (adTenant b) (field b 0x08 8) (64 * 2 ^ field b 0x28 1) = true → s.inWindow (adTenant b) (field b 0x10 8) (32 * 2 ^ field b 0x29 1) = true →
      s.inWindow (adTenant b) (field b 0x18 8) 64 = true → field b 0x20 8 = 0 →
      ∃ t, exec .createChannel s = .next t ∧ s.adminAnswered t d (i + 2 ^ 12 * s.self + 2 ^ 24 * g) ∧ SMap.get t.gens i 0 = g ∧ s.keepsData t ∧
        (t.chan i).st = .active ∧ (t.chan i).gen = g ∧ (t.chan i).tenant = adTenant b ∧ (t.chan i).sq = field b 0x08 8 ∧ (t.chan i).cq = field b 0x10 8 ∧
        (t.chan i).cb = field b 0x18 8 ∧ (t.chan i).tc = field b 0x2A 1 ∧ (t.chan i).fetched = [] ∧ (t.chan i).recs = []) ∧
    (∀ ch, s.ofHandle (adHandle b) = .ok ch → adReserved true [] b = true →
      (s.adminTurn d 0x41 → (s.chan ch).destroy = none →
        ∃ t, exec .destroyChannel s = .next t ∧ (t.chan ch).st = .destroying ∧ (t.chan ch).destroy = some (d.seq, adFlags b) ∧ s.keepsData t) ∧
      (s.adminTurn d 0x42 → (s.chan ch).st = .active →
        ∃ t, exec .haltChannel s = .next t ∧ (t.chan ch).st = .halted ∧ s.adminAnswered t d 0 ∧ s.keepsData t) ∧
      (s.adminTurn d 0x43 → (s.chan ch).st = .halted →
        ∃ t, exec .resumeChannel s = .next t ∧ (t.chan ch).st = .active ∧ s.adminAnswered t d 0 ∧ s.keepsData t)) ∧
    (∀ ch c fl, SMap.find? s.chans ch = some c → ch ≠ 0 → c.destroy = some (d.seq, fl) → c.fetched = [] → c.recs = [] → s.slotsOf ch = [] →
      (∀ k ∈ s.items, k.2.chan = ch → k.2.job = none → k.2.phase = .complete) → SMap.wf s.chans = true → s.adminTurn d 0x41 →
      ∃ t, exec (.channelDestroyComplete ch) s = .next t ∧ SMap.find? t.chans ch = none ∧ s.adminAnswered t d 0 ∧ s.keepsData t)

/-- R102 to R105, R151, R465: LOAD_PROGRAM keeps an image that passes every check and answers its handle; UNLOAD_PROGRAM lets an unused one go from every engine; REG_STREAM
makes an entry under the lowest free handle, DEREG_STREAM marks it, and it goes when no work item names it. -/
def Obligations.AdminProgramsAndStreams : Prop :=
  ∀ (s : State) (d : Desc), let b := d.bytes
    let t := adTenant b
    (∀ x, s.adminTurn d 0x44 → adReserved false [(0x08, 12)] b = true → s.readOut .admin → t < 64 → 64 ≤ field b 0x10 4 → SMap.firstFree s.images 1 1023 ≤ 1023 →
      imageFault (padTo (field b 0x10 4) x) (field b 0x10 4) s.ymaxLimit s.storeSizes = none →
      ∃ u, exec (.loadProgram (.ok x false)) s = .next u ∧ SMap.find? u.images (SMap.firstFree s.images 1 1023) = some ⟨t, padTo (field b 0x10 4) x⟩ ∧
        s.adminAnswered u d (SMap.firstFree s.images 1 1023) ∧ u.mem = s.mem ∧ u.eng = s.eng) ∧
    (∀ im, s.adminTurn d 0x45 → adReserved false [(0x08, 2)] b = true → SMap.find? s.images (field b 8 2) = some im → im.tenant = t → s.imageUsed (field b 8 2) = false →
      SMap.wf s.images = true →
      ∃ u, exec .unloadProgram s = .next u ∧ SMap.find? u.images (field b 8 2) = none ∧ (∀ e, (u.engine e).resident ≠ some (field b 8 2)) ∧
        s.adminAnswered u d 0 ∧ u.mem = s.mem) ∧
    (s.adminTurn d 0x46 → adReserved false [(0x08, 5), (0x10, 24)] b = true → t < 64 → field b 0x0C 1 ≤ 1 → field b 0x08 4 < 0xF0000000 → field b 0x20 8 ≠ 0 →
      field b 0x18 8 + field b 0x20 8 ≤ 2 ^ 64 → (s.regEntries t).length < 1024 → s.freeHandle t < 960 →
      s.collides t (field b 0x08 4) (field b 0x10 8) (field b 0x0C 1 == 1) (field b 0x18 8) (field b 0x20 8) = false →
      ∃ u, exec .regStream s = .next u ∧ s.adminAnswered u d (s.freeHandle t) ∧ s.keepsData u ∧
        ∃ k, SMap.find? u.streams k = some ⟨some (s.freeHandle t), field b 0x08 4, field b 0x10 8, field b 0x0C 1 == 1, field b 0x18 8, field b 0x20 8, false⟩) ∧
    (s.adminTurn d 0x47 → adReserved false [(0x08, 2)] b = true → s.handleOk t (field b 8 2) = true →
      ∃ u, exec .deregStream s = .next u ∧ s.adminAnswered u d 0 ∧ s.keepsData u ∧ u.handleOk t (field b 8 2) = false) ∧
    (∀ h, s.handleUsed t h = false →
      ∃ u, exec (.streamRemoval t h) s = .next u ∧ s.keepsData u ∧ (∀ k ∈ u.streams, k ∈ s.streams ∧ ¬ (k.1 / 1024 = t ∧ k.2.handle = some h ∧ k.2.leaving = true)))

/-! ### The proxy -/

/-- R469 to R472: the head issues a member's checked read and sends its data back; writes a checked write's data and answers 0; signals a checked
interrupt's vector; an answer reaches the waiter that its tag names. -/
def Obligations.ProxyCarriesAccesses : Prop :=
  ∀ s : State,
    (∀ m : Msg, s.inbox = [m] → s.isHead = true → m.kind = 3 → let b := m.body
      (field b 0 1 = 1 → field b 0x10 4 ≤ 32768 → s.proxyMay b = true →
        ∃ t, exec .proxyRead s = .next t ∧ t.inbox = [] ∧ t.out = s.out ++ [.hostRead s.nextTag (field b 8 8) (field b 0x10 4)] ∧ s.keepsData t) ∧
      (field b 0 1 = 2 → field b 0x10 4 ≤ 32768 → b.length = 0x18 + field b 0x10 4 → s.proxyMay b = true →
        ∃ t, exec .proxyWrite s = .next t ∧ t.inbox = [] ∧ t.out = s.out ++ [.hostWrite (field b 8 8) (b.drop 0x18)] ∧
          t.outbox = s.outbox ++ [⟨4, m.tc, m.peer, m.flow, m.tenant, leBytes 4 (field b 4 4) ++ leBytes 4 0⟩] ∧ s.keepsData t) ∧
      (field b 0 1 = 3 → field b 0x14 2 ≤ 255 →
        ∃ t, exec .proxyInterrupt s = .next t ∧ t.inbox = [] ∧ (SMap.get t.vecs (field b 0x14 2) {}).due = true ∧
          t.outbox = s.outbox ++ [⟨4, m.tc, m.peer, m.flow, m.tenant, leBytes 4 (field b 4 4) ++ leBytes 4 0⟩] ∧ s.keepsData t)) ∧
    (∀ tag r peer k x, SMap.find? s.reads tag = some r → r.who = .proxy peer k → s.arrived = [] →
      ∃ t, exec (.proxyReadReturn tag (.ok x false)) s = .next t ∧ s.keepsData t ∧
        ∃ q, t.outbox = s.outbox ++ [q] ∧ q.kind = 4 ∧ q.peer = peer ∧ q.body = leBytes 4 (k % 2 ^ 32) ++ leBytes 4 0 ++ padTo r.len x) ∧
    (∀ (m : Msg) tag r, s.inbox = [m] → let b := m.body
      m.kind = 4 → s.reads = [(tag, r)] → tag < 2 ^ 32 → field b 0 4 = tag → field b 4 1 = 0 → r.who = .admin →
      exec .proxyResponse s = .next { s with inbox := [], reads := [], arrived := s.arrived ++ [(.admin, r.off, .ok (b.drop 8) false)] })

/-- R304, R306, R318, R464, R465, R537: ASSIGN gives free granules an owner; RELEASE sends granules to Zeroing, which ends with their bytes 0 and them Free; a COPY is under way until
its bytes have moved and it answers with the status of its marks; MEM_FENCE empties every write-combining buffer; DECLARE_RELOADABLE makes a region of shared granules, or
answers WEIGHT_POISON where one holds a mark. -/
def Obligations.AdminMemory : Prop :=
  ∀ (s : State) (d : Desc), let b := d.bytes
    (∀ gs, adGranules b = some gs →
      (s.adminTurn d 0x48 → adReserved false [(0x08, 5)] b = true → field b 0x0C 1 ≤ 0x40 → (∀ g ∈ gs, s.ownerOf g = 0xFF) →
        ∃ t, exec .assignGranules s = .next t ∧ s.adminAnswered t d 0 ∧ (∀ g ∈ gs, t.ownerOf g = field b 0x0C 1) ∧ (∀ g, g ∉ gs → t.ownerOf g = s.ownerOf g) ∧
          t.mem.data = s.mem.data) ∧
      (s.adminTurn d 0x49 → adReserved false [(0x08, 4)] b = true → (∀ g ∈ gs, s.ownerOf g ≤ 0x40) →
        ∃ t, exec .releaseGranules s = .next t ∧ s.adminAnswered t d 0 ∧ (∀ g ∈ gs, t.ownerOf g = 0xFC ∧ g ∈ t.mem.zeroing)) ∧
      (s.adminTurn d 0x54 → adReserved false [(0x08, 7), (0x10, 8)] b = true → field b 0x0C 1 = 1 → field b 0x0D 1 ≤ 63 → field b 0x0E 1 ≤ 63 →
        (∀ g ∈ gs, s.ownerOf g = 0x40) → s.regions = [] → s.grans = [] →
        ∃ t, exec .declareReloadable s = .next t ∧
          ((s.granuleCrcs gs).2.1 = 0 → s.adminAnswered t d 0 ∧ SMap.find? t.regions 0 = some ⟨field b 8 2, field b 0x0A 2, 1, field b 0x0D 1, field b 0x0E 1, field b 0x10 8, adTenant b⟩) ∧
          ((s.granuleCrcs gs).2.1 ≠ 0 → s.adminAnswered t d 0 stWEIGHT_POISON ∧ t.regions = []))) ∧
    (∀ g, s.mem.zeroing.contains g = true →
      ∃ t, exec (.granuleZeroingComplete g) s = .next t ∧ t.ownerOf g = 0xFF ∧ (∀ a, a / 2 ^ 28 = g → Memory.read t.mem.data a = 0) ∧
        (∀ a, a / 2 ^ 28 ≠ g → Memory.read t.mem.data a = Memory.read s.mem.data a) ∧ g ∉ t.mem.zeroing) ∧
    (s.adminTurn d 0x4A → adReserved false [(0x08, 21)] b = true → field b 0x18 4 % 32 = 0 → field b 0x18 4 ≤ 2 ^ 30 → field b 0x1C 1 = 2 → adTenant b = 255 →
      s.copyMay 255 (field b 0x08 8) (field b 0x18 4) = true → s.copyMay 255 (field b 0x10 8) (field b 0x18 4) = true →
      ∃ t, exec .copy s = .next t ∧ (t.chan 0).fetched = (s.chan 0).fetched.drop 1 ∧ t.mem = s.mem ∧
        SMap.find? t.copies d.seq = some { d := d, member := s.self, ordered := bit (adFlags b) 1, begun := true }) ∧
    (∀ cp rd c, s.copies = [(d.seq, cp)] → cp.d = d → cp.member = s.self → field b 0x1C 1 = 2 → field b 0x18 4 ≠ 0 → s.grans = [] → s.isHead = true →
      SMap.find? s.chans 0 = some c → c.st = .active →
      let r := s.memReadMarks (field b 0x08 8) (field b 0x18 4) 0
      ∃ t, exec (.copyComplete d.seq rd) s = .next t ∧ t.copies = [] ∧ t.mem = (r.2.memWriteMarks (field b 0x10 8) (field b 0x18 4 / 32 + 2) r.1).mem ∧
        ∃ st, st = (if topMark r.1 = 0 then stOK else markStatus (topMark r.1)) ∧
          (t.chan 0).recs = c.recs ++ [⟨recBytes d.seq st fDONE 0 2 0 0 0 0 0 0 0, bit (adFlags b) 0⟩]) ∧
    (s.adminTurn d 0x4B → adReserved false [] b = true →
      ∃ t, exec .memFence s = .next t ∧ s.adminAnswered t d 0 ∧ t.mem.wcb = [])

/-- R229, R230, R315, R351, R365, R399, R465, R466, R468, R500: each of these admin descriptors, valid, puts its table, key, plan, limits or ring into place and completes with OK;
QUERY_NORMWATCH writes the states to the host; REG_ACCESS answers with a register's value. -/
def Obligations.AdminTables : Prop :=
  ∀ (s : State) (d : Desc), let b := d.bytes
    (∀ ch, s.ofHandle (adHandle b) = .ok ch → adReserved true [(0x08, 8)] b = true →
      (∀ x, s.adminTurn d 0x4C → s.readOut .admin → (∀ i < 256, nwValid (field (padTo 2048 x) (8 * i) 8) = true) → SMap.wf s.nwCfg = true →
        ∃ t, exec (.loadNormwatch (.ok x false)) s = .next t ∧ s.adminAnswered t d 0 ∧ t.nwSt = s.nwSt ∧ (∀ i < 256, t.nwWord ch i = field (padTo 2048 x) (8 * i) 8)) ∧
      (s.adminTurn d 0x4D → s.reading .admin = false → s.adAddr b (field b 8 8) 4080 = true →
        ∃ t, exec .queryNormwatch s = .next t ∧ s.adminAnswered t d 0 ∧ t.nwSt = s.nwSt ∧
          t.out = s.out ++ [.hostWrite (field b 8 8) ((List.range 255).flatMap (fun i => nwRecord (SMap.get s.nwSt (256 * ch + i) {})))]) ∧
      (∀ x, s.adminTurn d 0x4E → s.readOut .admin → (∀ i < 64, (predEntry (((padTo 1024 x).drop (16 * i)).take 16)).isSome = true) →
        (s.regEntries (s.chan ch).tenant).length ≤ 960 → SMap.wf s.preds = true →
        ∃ t, exec (.loadPredictor (.ok x false)) s = .next t ∧ s.adminAnswered t d 0 ∧
          ∀ i < 64, predEntry (((padTo 1024 x).drop (16 * i)).take 16) = some (SMap.get t.preds (64 * ch + i) {}))) ∧
    (∀ im, s.adminTurn d 0x4F → adReserved false [(0x08, 4), (0x10, 10)] b = true → field b 9 1 = 1 → SMap.find? s.images (field b 0x0A 2) = some im →
      im.tenant = adTenant b → adTenant b < 64 → s.hasStack = true →
      ∃ t, exec .loadExpertSlot s = .next t ∧ s.adminAnswered t d 0 ∧
        SMap.find? t.slots (field b 8 1) = some ⟨adTenant b, field b 0x0A 2, field b 0x10 8, field b 0x18 2⟩) ∧
    (s.adminTurn d 0x50 → adReserved false [(0x08, 17), (0x1A, 2)] b = true → 4 ≤ field b 0x18 1 → field b 0x18 1 ≤ 16 → field b 0x1A 2 < 256 → field b 8 8 % 32 = 0 →
      field b 0x10 8 % 4 = 0 → s.tenantEnabled (adTenant b) = true → s.inWindow (adTenant b) (field b 8 8) (32 * 2 ^ field b 0x18 1) = true →
      s.inWindow (adTenant b) (field b 0x10 8) 4 = true →
      ∃ t, exec .setEventRing s = .next t ∧ s.adminAnswered t d 0 ∧
        SMap.find? t.rings (adTenant b) = some { iova := field b 8 8, ciIova := field b 0x10 8, log2 := field b 0x18 1, vector := some (field b 0x1A 2) }) ∧
    (∀ x, s.readOut .admin →
      (s.adminTurn d 0x51 → adReserved false [(0x08, 1), (0x0C, 12)] b = true → 12 ≤ field b 8 1 → field b 8 1 ≤ 15 → SMap.wf s.nonces = true →
        ∃ t, exec (.loadUplinkKey (.ok x false) true) s = .next t ∧ s.adminAnswered t d 0 ∧
          SMap.find? t.keys (field b 8 1) = some (padTo 32 x ++ (b.drop 0x0C).take 4) ∧
          SMap.get t.nonces (2 * field b 8 1) 0 = 0 ∧ SMap.get t.nonces (2 * field b 8 1 + 1) 0 = 0) ∧
      (s.adminTurn d 0x52 → adReserved false [(0x08, 8)] b = true → planOk s.rack (padTo 1024 x) = true →
        ∃ t, exec (.loadCircuits (.ok x false)) s = .next t ∧ s.adminAnswered t d 0 ∧ t.planNext = some (padTo 1024 x))) ∧
    (s.adminTurn d 0x53 → adReserved false [(0x08, 2)] b = true → field b 8 1 ≤ 7 → field b 9 1 ≤ 31 →
      ∃ t, exec .repairEdit s = .next t ∧ s.adminAnswered t d 0 ∧ t.repair = s.repair.filter (· != 32 * field b 8 1 + field b 9 1) ∧ s.keepsData t) ∧
    (s.adminTurn d 0x55 → adReserved false [(0x08, 10)] b = true → s.canonical → let f := fun (o : Nat) => field b o 2
      f 8 ≤ 192 → f 0x0A ≤ 192 → f 0x0C ≤ 192 → f 0x0E ≤ 192 → f 0x10 ≤ 192 → f 8 ≤ f 0x0A → f 0x0C ≤ f 0x0E → f 8 + f 0x0C ≤ s.availCount →
      s.availCount ≤ f 0x0A + f 0x0E → f 0x10 ≤ s.availCount →
      ∃ t, exec .setPools s = .next t ∧ s.adminAnswered t d 0 ∧ s.keepsData t ∧ t.getField rSRV_LIMITS 0 8 = f 8 ∧ t.getField rSRV_LIMITS 8 8 = f 0x0A ∧
        t.getField rSRV_LIMITS 16 8 = f 0x0C ∧ t.getField rSRV_LIMITS 24 8 = f 0x0E ∧ t.getField rSRV_LIMITS 32 8 = f 0x10) ∧
    (s.adminTurn d 0x56 → adReserved false [(0x08, 5), (0x10, 8)] b = true → field b 0x0C 1 = 0 → barOk (field b 8 4) 8 = true →
      ∃ t, exec .regAccess s = .next t ∧ s.adminAnswered t d (s.regView (field b 8 4)) ∧ s.keepsData t)

/-! ### Registers -/

/-- R611, R612, R616, R332, R511, R586: reads answer the register's value; a read of MEM_ERRLOG clears its valid bit, one of PWR_STATUS starts the minimum rail anew, one of
SRV_TC0_WORST starts the worst start anew, one of a lock-violation register clears the count; a read of a lower half keeps the upper half for the next read of it within 10 µs. -/
def Obligations.RegisterReads : Prop :=
  ∀ (s : State) (req : Fin 3), s.barUp = true → s.canonical →
    let answers (t : State) (off n v : Nat) : Prop := t.out = s.out ++ [.regData req off n v] ∧ s.keepsData t ∧ t.eng = s.eng ∧ t.chans = s.chans
    (∃ t, exec (.memErrlogRead req) s = .next t ∧ answers t 0x48008 8 (s.regView 0x48008) ∧ t.getField 0x48008 53 1 = 0 ∧ t.getField 0x48008 0 53 = s.getField 0x48008 0 53) ∧
    (∃ t, exec (.pwrStatusRead req) s = .next t ∧ answers t rPWR_STATUS 8 (s.regView rPWR_STATUS) ∧ t.getField rPWR_STATUS 28 12 = s.getField rPWR_STATUS 16 12 ∧
      t.getField rPWR_STATUS 0 28 = s.getField rPWR_STATUS 0 28) ∧
    (∃ t, exec (.srvTc0WorstRead req) s = .next t ∧ answers t 0xB0060 8 (s.regView 0xB0060) ∧ t.getField 0xB0060 0 16 = 0) ∧
    (∀ block : Fin 12, let off := [0xFFF8, 0x1FFF8, 0x2FFF8, 0x3FFF8, 0x5FFF8, 0x7FFF8, 0x9FFF8, 0xAFFF8, 0xBFFF8, 0xCFFF8, 0xDFFF8, 0xFFFF8].getD block 0
      ∃ t, exec (.lockvRead req block) s = .next t ∧ answers t off 8 (s.regView off) ∧ t.getField off 48 16 = 0 ∧ t.getField off 0 48 = s.getField off 0 48 ∧ off ∉ t.lockvSeen) ∧
    (∀ off, off % 8 = 0 → off + 8 ≤ 2 ^ 24 →
      (∃ t, exec (.halfReadLatch req off) s = .next t ∧ answers t off 4 (s.regView off % 2 ^ 32) ∧
        SMap.find? t.halfRd (16 * req + blockIx off) = some (off, s.regView off / 2 ^ 32, s.now)) ∧
      (∀ hi at_, SMap.find? s.halfRd (16 * req + blockIx (off + 4)) = some (off, hi, at_) → s.now ≤ at_ + 10000 →
        ∃ t, exec (.halfReadLatch req (off + 4)) s = .next t ∧ answers t (off + 4) 4 hi))

/-- R16 to R18, R611, R615, R629: a write of a whole register takes its writable fields; a lower half waits for its upper half; a write that a rule refuses is counted and changes nothing; ones clear a
status bit; LOCK sets; clocks, lasers, freezes and fault injection take what is written. -/
def Obligations.RegisterWrites : Prop :=
  ∀ (s : State) (req : Fin 3), s.barUp = true → s.canonical →
    (∀ val, ∃ t, exec (.registerWrite req 0x40 8 val) s = .next t ∧ (t.reg 0x40).toNat = val % 2 ^ 64 ∧ s.keepsData t ∧ t.eng = s.eng ∧ t.chans = s.chans) ∧
    (∀ val, ∃ t, exec (.registerWrite req 0x40 4 val) s = .next t ∧ t.reg 0x40 = s.reg 0x40 ∧ SMap.find? t.halfWr (2 ^ 24 * req + 0x40) = some (val % 2 ^ 32)) ∧
    (∀ val low, SMap.find? s.halfWr (2 ^ 24 * req + 0x40) = some low → low < 2 ^ 32 →
      ∃ t, exec (.registerWrite req 0x44 4 val) s = .next t ∧ (t.reg 0x40).toNat = low + 2 ^ 32 * (val % 2 ^ 32)) ∧
    (∀ (n : Fin 64) (w : Fin 16) val, s.subMember = false → let off := tenOff n (0x100 + 16 * w)
      (s.tenantEnabled n = false → ∃ t, exec (.registerWrite req off 8 val) s = .next t ∧ t.getField off 12 52 = bits val 12 52 ∧ s.keepsData t) ∧
      (s.tenantEnabled n = true → ∃ t, exec (.registerWrite req off 8 val) s = .next t ∧ t.reg off = s.reg off ∧
        (t.reg 0x3FFF8).toNat % 2 ^ 48 = ((s.reg 0x3FFF8).toNat + 1) % 2 ^ 48)) ∧
    (∀ val, bit val 5 = true → ∃ t, exec (.rw1cWrite req 0x60018 val) s = .next t ∧ t.getField 0x60018 5 1 = 0 ∧ t.getField 0x60018 0 5 = s.getField 0x60018 0 5 ∧ s.keepsData t) ∧
    (∀ block : Fin 5, let off := [0x10000, 0x60000, 0xA0000, 0xB0000, 0xC0000].getD block 0
      ∃ t, exec (.lockSet req block) s = .next t ∧ t.getField off 0 1 = 1 ∧ s.keepsData t) ∧
    (∀ (e : EngId) en lim, ∃ t, exec (.engStoreCtrlEnWrite req e en lim) s = .next t ∧ t.getField (engOff e oSTORE_CTRL) 24 1 = (if en then 1 else 0) ∧
      t.getField (engOff e oSTORE_CTRL) 16 8 = lim.toNat ∧ t.getField (engOff e oSTORE_CTRL) 0 16 = s.getField (engOff e oSTORE_CTRL) 0 16 ∧ s.keepsData t) ∧
    (∀ (q : QuadId) (val : BitVec 8), ∃ t, exec (.pwrQclkReqWrite req q val) s = .next t ∧ t.getField (qclkOff q) 0 8 = min (max val.toNat 40) s.gradeClk ∧ s.keepsData t) ∧
    (∀ v, ∃ t, exec (.tlmFreezeWrite req v) s = .next t ∧ t.getField 0xD0000 0 1 = (if v then 1 else 0) ∧ s.keepsData t) ∧
    (s.getField rRAS_STATUS 9 1 = 1 →
      (∀ v, ∃ t, exec (.tstInjEnableWrite req v) s = .next t ∧ t.getField 0xE0000 0 1 = (if v then 1 else 0) ∧ s.keepsData t) ∧
      (∀ (p : PortId) (n : BitVec 24), ∃ t, exec (.tstInjDropWrite req p n) s = .next t ∧ t.getField (injOff p.toNat 0) 0 24 = n.toNat ∧ (t.port p.toNat).dropCnt = 0 ∧ s.keepsData t) ∧
      (∀ (p : PortId) (n : BitVec 24) (b m : BitVec 8), ∃ t, exec (.tstInjFlipWrite req p n b m) s = .next t ∧ t.getField (injOff p.toNat 8) 0 24 = n.toNat ∧
        t.getField (injOff p.toNat 8) 24 8 = b.toNat ∧ t.getField (injOff p.toNat 8) 32 8 = m.toNat ∧ s.keepsData t) ∧
      (∀ (p : PortId) (w : BitVec 6), ∃ t, exec (.tstInjReorderWrite req p w) s = .next t ∧ t.getField (injOff p.toNat 0x10) 0 6 = w.toNat ∧ s.keepsData t)) ∧
    (s.getField rRAS_STATUS 9 1 = 0 → ∀ v, ∃ t, exec (.tstInjEnableWrite req v) s = .next t ∧ t.reg 0xE0000 = s.reg 0xE0000 ∧ s.keepsData t)

/-- R384, R408, R427, R435 to R438, R621: enabling a tenant opens its window and disabling one closes it and drops its images; an enable that waited takes effect once the
tenant's granules are free; the admin channel starts with a valid setup and stops when it is empty; EN of a port and the by-pass command move ports and switches. -/
def Obligations.EnablesTakeEffect : Prop :=
  ∀ (s : State) (req : Fin 3), s.canonical →
    (s.barUp = true → s.subMember = false → s.getField rRAS_STATUS 8 1 = 0 → ∀ n : Fin 64,
      (s.tenantEnabled n = false → SMap.find? s.tenGone n = none →
        ∃ t, exec (.tenCtrlEnWrite req n true) s = .next t ∧ t.tenantEnabled n = true ∧ s.keepsData t) ∧
      (s.tenantEnabled n = true → s.tenBusy n = false →
        ∃ t, exec (.tenCtrlEnWrite req n false) s = .next t ∧ t.tenantEnabled n = false ∧ (∀ k ∈ t.images, k.2.tenant ≠ n.val) ∧ (∀ k ∈ t.streams, k.1 / 1024 ≠ n.val))) ∧
    (∀ n : Fin 64, s.inbox = [] → s.tenWant.contains n.val = true → SMap.find? s.tenGone n = none →
      ∃ t, exec (.tenantEnableEffect n) s = .next t ∧ t.tenantEnabled n = true ∧ t.tenWant.contains n.val = false ∧ s.keepsData t) ∧
    (s.isHead = true → s.getField rPHASE 3 1 = 1 → s.getField 0x20000 0 1 = 0 → s.getField rADMIN_STATUS 0 2 = 0 → (s.reg 0x20008).toNat % 4096 = 0 →
      (s.reg 0x20010).toNat % 4096 = 0 → (s.reg 0x20018).toNat % 64 = 0 → 4 ≤ s.getField 0x20020 0 4 → s.getField 0x20020 0 4 ≤ 12 → 4 ≤ s.getField 0x20020 4 4 →
      s.getField 0x20020 4 4 ≤ 12 →
      ∃ t, exec (.adminEnWrite true) s = .next t ∧ t.getField 0x20000 0 1 = 1 ∧ t.getField rADMIN_STATUS 0 2 = 1 ∧ (t.chan 0).st = .active ∧
        (t.chan 0).sq = (s.reg 0x20008).toNat ∧ (t.chan 0).cq = (s.reg 0x20010).toNat ∧ (t.chan 0).cb = (s.reg 0x20018).toNat ∧ s.keepsData t) ∧
    (s.getField rADMIN_STATUS 0 2 = 1 → ∃ t, exec (.adminEnWrite false) s = .next t ∧ t.getField rADMIN_STATUS 0 2 = 3 ∧ (t.chan 0).st = .halted ∧ s.keepsData t) ∧
    (∀ c, SMap.find? s.chans 0 = some c → s.getField rADMIN_STATUS 0 2 = 3 → c.fetched = [] → c.asked = 0 → c.recs = [] → s.copies = [] → s.getField 0x20000 0 1 = 0 →
      SMap.wf s.chans = true →
      ∃ t, exec .adminStopComplete s = .next t ∧ SMap.find? t.chans 0 = none ∧ t.getField rADMIN_STATUS 0 2 = 0 ∧ s.keepsData t) ∧
    (s.barUp = true →
      (s.getField 0x60018 0 3 = 0 → s.bypMove = none →
        ∃ t, exec (.fabBypCtrlWrite req true) s = .next t ∧ t.bypMove = some (true, s.now) ∧ t.getField 0x60010 0 1 = 1 ∧ t.getField 0x60018 3 1 = 1 ∧ s.keepsData t) ∧
      (∀ p : PortId, s.getField 0x60000 0 1 = 0 → s.getField (portOff p.toNat 0) 0 1 = 1 → ∃ t, exec (.fabPortEnWrite req p false false) s = .next t ∧
        t.portSt p.toNat = 4 ∧ t.lanes p.toNat = 0 ∧ t.getField (portOff p.toNat 8) 11 4 = 5 ∧ s.keepsData t) ∧
      (∀ p : PortId, s.getField 0x60000 0 1 = 0 → s.getField (portOff p.toNat 0) 0 1 = 1 → s.bypassed = false → (s.port p.toNat).light = true →
        ∃ t, exec (.fabPortRetrain req p) s = .next t ∧ t.portSt p.toNat = 1 ∧ t.lanes p.toNat = 0 ∧ s.keepsData t))

/-! ### Management -/

/-- R555 to R557, R639 to R642: a good frame is answered with its data, a domain write stays busy until the flash has it, a challenge draws a nonce, a response ends it and grants or
blocks, ten seconds end it too; addresses are assigned and reset, a transfer that stalls changes nothing, and boundary scan is refused while a tenant is enabled. -/
def Obligations.ManagementAnswers : Prop :=
  ∀ s : State,
    (∀ f, s.boot.sb = true → s.frameCheck f = 0 → let d := (f.drop 2).take (f.length - 3)
      let reply (st : Nat) (data : Bytes) : Out := .mgmt ((leBytes 1 st ++ leBytes 1 data.length ++ data) ++
        leBytes 1 (pec (leBytes 1 (2 * s.busAddr + 1) ++ (leBytes 1 st ++ leBytes 1 data.length ++ data))))
      (field f 0 1 = 1 → ∃ t, exec (.getStatus f) s = .next t ∧ t.out = s.out ++ [reply 0 s.statusBytes] ∧ t.supply.pwrEvent = false ∧ s.keepsData t ∧ t.regs = s.regs) ∧
      (field f 0 1 = 2 → barOk (field d 0 4) 8 = true →
        ∃ t, exec (.regRead f) s = .next t ∧ t.out = s.out ++ [reply 0 (leBytes 8 (s.regView (field d 0 4)))] ∧ s.keepsData t) ∧
      (field f 0 1 = 3 → field d 0 4 = 0x40 → s.canonical →
        ∃ t, exec (.regWrite f) s = .next t ∧ t.out = s.out ++ [reply 0 []] ∧ (t.reg 0x40).toNat = field d 4 8 ∧ s.keepsData t) ∧
      (field f 0 1 = 4 → ∃ t, exec (.domainRead f) s = .next t ∧ t.out = s.out ++ [reply 0 (padTo 32 s.record)] ∧ t.dom = s.dom ∧ s.keepsData t) ∧
      (field f 0 1 = 5 → ∃ t, exec (.domainWrite f) s = .next t ∧ t.out = s.out ++ [reply 0 []] ∧ t.mgmt.writing = some d ∧ t.dom = s.dom ∧ s.keepsData t) ∧
      (field f 0 1 = 8 → ∃ t, exec (.getIdentity f) s = .next t ∧ t.out = s.out ++ [reply 0 (leBytes 4 (s.reg 0).toNat ++ leBytes 8 Config.serial ++
        leBytes 1 (s.getField 0x10 0 1) ++ leBytes 2 (s.getField 0x30 0 16))] ∧ s.keepsData t) ∧
      (field f 0 1 = 6 → (field d 0 1 = 1 ∨ field d 0 1 = 2) → s.mgmt.blocked ≤ s.now →
        ∃ t, exec (.unlockChallenge false f) s = .next t ∧ t.mgmt.nonce = some (field d 0 1, leBytes 32 (Config.random s.freeCtr), s.now) ∧
          t.out = s.out ++ [reply 0 (leBytes 32 (Config.random s.freeCtr))] ∧ s.keepsData t) ∧
      (field f 0 1 = 7 → field d 0 1 = 1 → s.canonical →
        let ok := s.unlockOk 1 ((d.drop 1).take 96) ((d.drop 97).take 96)
        ∃ t, exec (.unlockResponse false f) s = .next t ∧ t.mgmt.nonce = none ∧ s.keepsData t ∧
          (ok = true → t.getField rRAS_STATUS 9 1 = 1) ∧
          (ok = false → t.mgmt.blocked = s.now + 1000000000 ∧ t.getField rRAS_STATUS 9 1 = s.getField rRAS_STATUS 9 1))) ∧
    (∀ d, s.mgmt.writing = some d → ∃ t, exec .domainWriteDone s = .next t ∧ t.mgmt.writing = none ∧ t.dom.sector = some d ∧ s.keepsData t) ∧
    (∀ sc n at_, s.mgmt.nonce = some (sc, n, at_) → at_ + 10000000000 < s.now →
      exec .nonceExpiry s = .next { s with mgmt := { s.mgmt with nonce := none } }) ∧
    (∀ addr : BitVec 7, s.boot.sb = true →
      exec (.dynamicAddressAssign addr) s = .next { s with mgmt := { s.mgmt with dyn := some addr.toNat, seen := s.alertCauses } }) ∧
    (exec .rstdaa s = .next { s with mgmt := { s.mgmt with dyn := none } }) ∧
    (exec .managementClockTimeout s = .next s) ∧
    (s.boot.sb = true → exec .boundaryScan s = .next { s with out := s.out ++ [.jtag (!(List.range 64).any s.tenantEnabled) []] })

/-! ### Links, ports and transport -/

/-- R386 to R388, R391, R394, R395: a good DATA flit with the expected SEQ is accepted, any other is discarded and asks for a NACK; a NACK or 12 µs without
progress rewind the port, until eight resends of a flit were in vain; a flit slot carries a NACK, a resend, a new flit or IDLE. Injection is off. -/
def Obligations.LinkRetry : Prop :=
  ∀ (s : State) (p : PortId), s.canonical → let n := p.toNat; let x := s.port n; s.carrying n = true → s.injOn = false →
    (∀ flit ue corr, let h := field flit 0 12
      let good := ue = false ∧ flit.length = 256 ∧ field flit 252 4 = crc32c (flit.take 252) ∧ bits h 10 6 = 0 ∧ bits h 60 4 = 0 ∧ bits h 72 24 = 0
      (good → bits h 0 4 = 1 → bits h 16 16 = x.expect → bit h 8 = true → bit h 9 = true → x.held = [] →
        ∃ t, exec (.flitReceive p flit ue corr) s = .next t ∧ t.rxMsgs = s.rxMsgs ++ [(n, bits h 4 4, (flit.drop 12).take (min (bits h 64 8 + 1) 240))] ∧
          (t.port n).expect = (x.expect + 1) % 2 ^ 16 ∧ (t.port n).nackDue = false ∧ s.counted t (portOff n 0x38) 1 ∧ s.keepsData t) ∧
      (good → bits h 0 4 = 1 → bits h 16 16 ≠ x.expect →
        ∃ t, exec (.flitReceive p flit ue corr) s = .next t ∧ t.rxMsgs = s.rxMsgs ∧ (t.port n).expect = x.expect ∧
          (x.nackAt = none → (t.port n).nackDue = true) ∧ s.keepsData t) ∧
      (good → bits h 0 4 = 2 → ∃ t, exec (.flitReceive p flit ue corr) s = .next t ∧ t.rxMsgs = s.rxMsgs ∧ (t.port n).nackIn = some (bits h 32 16)) ∧
      (ue = true ∨ flit.length ≠ 256 ∨ field flit 252 4 ≠ crc32c (flit.take 252) →
        ∃ t, exec (.flitReceive p flit ue corr) s = .next t ∧ t.rxMsgs = s.rxMsgs ∧ (t.port n).expect = x.expect ∧ (t.port n).replay = x.replay ∧
          s.counted t (portOff n 0x18) 1 ∧ (x.nackAt = none → (t.port n).nackDue = true) ∧ s.keepsData t)) ∧
    (∀ a, x.nackIn = some a → (x.replay.any (fun f => f.seq == a)) = true →
      (x.tries < 8 → ∃ t, exec (.nackReceive p) s = .next t ∧ (t.port n).rewind = some a ∧ (t.port n).tries = x.tries + 1 ∧ (t.port n).nackIn = none ∧
        (t.port n).replay = x.replay) ∧
      (8 ≤ x.tries → ∃ t, exec (.nackReceive p) s = .next t ∧ t.portIsDown n 2)) ∧
    (∀ f l, x.replay = f :: l → x.ackAt + 12000 ≤ s.now →
      (x.tries < 8 → ∃ t, exec (.replayTimeout p) s = .next t ∧ (t.port n).rewind = some f.seq ∧ (t.port n).tries = x.tries + 1 ∧ (t.port n).replay = x.replay) ∧
      (8 ≤ x.tries → ∃ t, exec (.replayTimeout p) s = .next t ∧ t.portIsDown n 2)) ∧
    (s.outbox = [] → x.owe = [] →
      let raw (ft vc : Nat) (som eom : Bool) (seq plen : Nat) (b : Bytes) : Out :=
        let head := leBytes 12 (flitHdr ft vc som eom seq x.expect 0 0 plen) ++ padTo 240 b
        .flit n (laneOf (s.lanes n) x.slots) (head ++ leBytes 4 (crc32c head))
      (x.nackDue = true → ∃ t, exec (.flitTransmit p) s = .next t ∧ t.out = s.out ++ [raw 2 0 false false 0 0 []] ∧ (t.port n).nackDue = false ∧
        (t.port n).nackAt = some s.now ∧ s.keepsData t) ∧
      (x.nackDue = false → x.pavOut = none →
        (∀ f, x.rewind = some f.seq → x.replay.find? (fun g => g.seq == f.seq) = some f → f.eom = true →
          ∃ t, exec (.flitTransmit p) s = .next t ∧ t.out = s.out ++ [raw 1 f.vc f.som true f.seq (f.payload.length - 1) f.payload] ∧
            (t.port n).replay = x.replay ∧ s.counted t (portOff n 0x10) 1 ∧ s.keepsData t) ∧
        (∀ i m, x.rewind = none → x.replay.length < 4096 → x.pick = some i → x.txq[i]? = some m → m.started = false → m.bytes.length ≤ 240 →
          ∃ t, exec (.flitTransmit p) s = .next t ∧ t.out = s.out ++ [raw 1 m.vc true true x.nextSeq (m.bytes.length - 1) m.bytes] ∧
            (t.port n).replay = x.replay ++ [⟨x.nextSeq, m.vc, true, true, m.bytes⟩] ∧ (t.port n).nextSeq = (x.nextSeq + 1) % 2 ^ 16 ∧
            (t.port n).txq = x.txq.eraseIdx i ∧ SMap.get (t.port n).credit m.vc 192 = SMap.get x.credit m.vc 192 - 1 ∧
            s.counted t (portOff n 0x30) 1 ∧ s.keepsData t) ∧
        (x.rewind = none → x.pick = none →
          ∃ t, exec (.flitTransmit p) s = .next t ∧ t.out = s.out ++ [raw 0 0 false false 0 0 []] ∧ (t.port n).replay = x.replay ∧ s.keepsData t)))

/-- R380, R381, R383, R384, R392: a port trains to UP or DEGRADED with what it measured, or goes DOWN; one that is DOWN tries again after 1 ms; lanes leave
and return at a 5-flit boundary, a weak laser takes its lane out, tuning is noted, light returns and goes. -/
def Obligations.PortsAndLanes : Prop :=
  ∀ (s : State) (p : PortId), s.canonical → let n := p.toNat; let o := portOff n 8; let l := s.lanes n
    (∀ (lanes : BitVec 8) pm pr pp rtt, s.portSt n = 1 →
      let near := 12 ≤ n ∨ (pr = s.rack ∧ pp = mate n ∧ (ringSteps s.self pm (n % 6)).isSome = true)
      (near → 4 ≤ popcount 8 lanes.toNat →
        ∃ t, exec (.portTrainingComplete p lanes pm pr pp rtt) s = .next t ∧ t.portSt n = (if lanes = 255 then 2 else 3) ∧ t.lanes n = lanes.toNat ∧
          t.getField o 15 6 = pm % 64 ∧ t.getField o 21 6 = pr % 64 ∧ t.getField o 27 4 = pp % 16 ∧ t.getField o 31 16 = min rtt 65535 ∧
          (s.holdsEvents → s.told t 0x4001 0 none []) ∧ s.keepsData t) ∧
      (near → popcount 8 lanes.toNat < 4 → ∃ t, exec (.portTrainingComplete p lanes pm pr pp rtt) s = .next t ∧ t.portIsDown n 1) ∧
      (¬ near → ∃ t, exec (.portTrainingComplete p lanes pm pr pp rtt) s = .next t ∧ t.portIsDown n 3)) ∧
    (∀ t0, (s.port n).downAt = some t0 → s.portSt n = 4 → t0 + 1000000 ≤ s.now → s.getField o 11 4 ≠ 3 → s.getField (portOff n 0) 0 1 = 1 →
      ∃ t, exec (.portRetrainTimer p) s = .next t ∧ t.lanes n = 0 ∧
        t.portSt n = (if (s.port n).light = true ∧ ¬ (n < 12 ∧ s.bypassed = true) then 1 else 0) ∧ s.keepsData t) ∧
    (∀ lane : LaneId, s.carrying n = true →
      (bit l lane.toNat = true →
        (4 ≤ popcount 8 (l - 2 ^ lane.toNat) → ∃ t, exec (.laneLockLoss p lane) s = .next t ∧ t.lanes n = l - 2 ^ lane.toNat ∧ t.portSt n = 3 ∧
          (s.holdsEvents → s.told t 0x4002 0 none []) ∧ s.keepsData t) ∧
        (popcount 8 (l - 2 ^ lane.toNat) < 4 → ∃ t, exec (.laneLockLoss p lane) s = .next t ∧ t.portIsDown n 1) ∧
        (∀ powers w, (∀ i v, powers[i]? = some v → i ≠ lane.toNat → 700 ≤ v) → powers[lane.toNat]? = some w → w < 700 → 4 ≤ popcount 8 (l - 2 ^ lane.toNat) →
          ∃ t, exec (.laserCheck p powers) s = .next t ∧ t.lanes n = l - 2 ^ lane.toNat ∧ (s.holdsEvents → s.told t 0x4003 0 none []))) ∧
      (bit l lane.toNat = false → let join := (s.port n).joining.toNat ||| 2 ^ lane.toNat
        ((s.port n).slots % (5 * popcount 8 l) = 0 → ∃ t, exec (.laneReturn p lane) s = .next t ∧ t.lanes n = l ||| join ∧
          t.portSt n = (if l ||| join = 255 then 2 else 3) ∧ s.keepsData t) ∧
        ((s.port n).slots % (5 * popcount 8 l) ≠ 0 → ∃ t, exec (.laneReturn p lane) s = .next t ∧ t.lanes n = l ∧ t.portSt n = s.portSt n ∧
          (t.port n).joining.toNat = join ∧ s.keepsData t))) ∧
    (∀ lane : LaneId, (s.port n).light = true →
      ∃ t, exec (.ringTuning p lane) s = .next t ∧ SMap.get t.bgAt (3072 + (8 * n + lane.toNat)) 0 = s.now ∧ t.regs = s.regs ∧ s.keepsData t) ∧
    (∃ t, exec (.lightReturn p) s = .next t ∧ (t.port n).light = true ∧
      (s.portSt n = 0 → s.getField (portOff n 0) 0 1 = 1 → ¬ (n < 12 ∧ s.bypassed = true) → t.portSt n = 1) ∧ s.keepsData t) ∧
    (∃ t, exec (.lightLoss p) s = .next t ∧ (t.port n).light = false ∧ (s.carrying n = true → t.portIsDown n 6) ∧
      (s.carrying n = false → s.getField (portOff n 0) 0 1 = 1 → t.portSt n = 0) ∧ s.keepsData t)

/-- R393, R394, R396 to R401, R413, R471: a whole message is delivered once and in order and acknowledged, goes on to its next port, or is lost; an
acknowledgement releases its message, a timeout resends it or reports it undelivered; port changes are flooded and routes follow them. Encryption with a
key is left to the cipher's own statements. -/
def Obligations.TransportAndRoutes : Prop :=
  ∀ s : State, s.canonical →
    (∀ p vc raw rest busy, s.rxMsgs = (p, vc, raw) :: rest → let h := raw.take 32; let body := raw.drop 32; let fl := field h 1 1
      let kind := field h 0 1; let tc := bits fl 0 2; let src := field h 2 2 % 4096; let flow := field h 6 2; let mseq := field h 8 4; let tenant := field h 0x14 1 % 64
      let key := flowKey src flow tc
      let m : Msg := ⟨kind, tc, src, flow, tenant, body⟩
      (s.encrypts p = true → SMap.find? s.keys p = none →
        ∃ t, exec (.messageDelivery busy) s = .next t ∧ t.rxMsgs = rest ∧ t.inbox = s.inbox ∧ s.counted t (portOff p 0x28) 1 ∧ s.keepsData t) ∧
      (s.encrypts p = false → 32 ≤ raw.length → body.length = field h 0x0C 4 → field h 0x15 1 < 31 → field h 4 2 % 4096 = s.addr → kind ≠ 0 → kind < 9 →
        (kind = 7 → ∃ t, exec (.messageDelivery busy) s = .next t ∧ t.acksIn = s.acksIn ++ [m] ∧ t.inbox = s.inbox) ∧
        (kind ≠ 7 → mseq = SMap.get s.rxSeq key 0 → s.rxHeld = [] → bit fl 2 = false → body.length = field h 0x10 4 → (busy = false ∨ (kind ≠ 1 ∧ kind ≠ 5)) →
          (kind = 1 → s.hasStack = true) → s.tenantOk m = true →
          ∃ t, exec (.messageDelivery busy) s = .next t ∧ t.rxMsgs = rest ∧ t.inbox = s.inbox ++ [m] ∧ t.outbox = s.outbox ++ [ackMsg src flow tc tenant mseq 0] ∧
            SMap.get t.rxSeq key 0 = (mseq + 1) % 2 ^ 32 ∧ t.regs = s.regs ∧ s.keepsData t) ∧
        (kind ≠ 7 → 2 ^ 31 ≤ (mseq + 2 ^ 32 - SMap.get s.rxSeq key 0) % 2 ^ 32 →
          ∃ t, exec (.messageDelivery busy) s = .next t ∧ t.inbox = s.inbox ∧ t.outbox = s.outbox ++ [ackMsg src flow tc tenant mseq 0] ∧ t.rxSeq = s.rxSeq) ∧
        (mseq = SMap.get s.rxSeq key 0 → s.rxHeld = [] → bit fl 2 = false → body.length = field h 0x10 4 →
          ((busy = true ∧ (kind = 1 ∨ kind = 5)) ∨ (kind = 1 ∧ s.hasStack = false)) →
          ∃ t, exec (.messageDelivery busy) s = .next t ∧ t.inbox = s.inbox ∧ t.outbox = s.outbox ++ [ackMsg src flow tc tenant mseq 1] ∧ t.rxSeq = s.rxSeq)) ∧
      (s.encrypts p = false → 32 ≤ raw.length → body.length = field h 0x0C 4 → 31 ≤ field h 0x15 1 →
        ∃ t, exec (.messageDelivery busy) s = .next t ∧ t.hopDrop = s.hopDrop + 1 ∧ t.inbox = s.inbox ∧ t.ports = s.ports) ∧
      (∀ q date, p < 12 → 32 ≤ raw.length → body.length = field h 0x0C 4 → field h 0x15 1 < 31 → field h 4 2 % 4096 ≠ s.addr →
        s.nextHop (field h 4 2 % 4096) flow (some (p, bit vc 0, bit fl 4)) = some (q, date, false) → s.carrying q = true → s.encrypts q = false →
        ∃ t, exec (.messageDelivery busy) s = .next t ∧ t.inbox = s.inbox ∧ t.outbox = s.outbox ∧
          (t.port q).txq = (s.port q).txq ++ [⟨vcOf date (bit fl 5) kind tc, tc,
            h.take 0x15 ++ leBytes 1 (field h 0x15 1 + 1) ++ leBytes 10 0 ++ body, false⟩])) ∧
    (∀ m rest, s.acksIn = m :: rest →
      let hit (u : Unacked) : Bool := decide (u.msg.peer = m.peer ∧ u.msg.flow = field m.body 0 2 ∧ u.msg.tc = m.tc ∧ u.mseq = field m.body 2 4)
      exec .transportAck s = .next (if field m.body 6 1 = 0 then { s with acksIn := rest, unacked := s.unacked.filter (fun u => !hit u) }
        else { s with acksIn := rest, unacked := s.unacked.map (fun u => if hit u then { u with sentAt := s.now } else u) })) ∧
    (∀ u us, s.unacked = u :: us → u.sentAt + s.getField 0x60000 8 8 * 10000 ≤ s.now →
      (u.tries < s.getField 0x60000 16 4 →
        ∃ t, exec .e2eTimeout s = .next t ∧ t.unacked = { u with tries := u.tries + 1, sentAt := s.now } :: us ∧ s.keepsData t) ∧
      (s.getField 0x60000 16 4 ≤ u.tries → let kind := u.msg.kind % 256
        (kind ≠ 3 → kind ≠ 5 → kind ≠ 8 → ∃ t, exec .e2eTimeout s = .next t ∧ t.unacked = us ∧ s.counted t 0x60038 1 ∧
          (s.holdsEvents → s.told t 0x400C 0 none []) ∧ s.keepsData t) ∧
        (∀ i, kind = 5 → (SMap.get s.colls u.msg.flow {}).item = some i → s.alive i →
          ∃ t, exec .e2eTimeout s = .next t ∧ t.unacked = us ∧ s.counted t 0x60038 1 ∧ s.stopping t i stFABRIC_UNREACHABLE 0x400C ∧ s.keepsData t) ∧
        (kind = 8 → field u.msg.body 0 1 = 0xB0 →
          ∃ t, exec .e2eTimeout s = .next t ∧ t.unacked = us ∧ t.arrived = s.arrived ++ [(.refill (field u.msg.body 4 4), 0, .undelivered)]))) ∧
    (s.floodDue = true → ∃ t l, exec .stateFlood s = .next t ∧ t.floodDue = false ∧ t.outbox = s.outbox ++ l ∧ t.regs = s.regs ∧ s.keepsData t ∧
      ∀ m, m < 64 → m ≠ s.self → s.view.dark.contains m = false → (⟨8, 1, 64 * s.rack + m, 0, 0, s.floodBody⟩ : Msg) ∈ l) ∧
    (let isF (m : Msg) : Bool := m.isMgmt 0xF0 || m.isMgmt 0xF1
     (s.inbox.any isF = true ∨ s.viewDue = true ∨ s.planNext.isSome = true) →
      ∃ t, exec .routeRecompute s = .next t ∧ t.viewDue = false ∧ t.planNext = none ∧ t.inbox = s.inbox.filter (fun m => !isF m) ∧
        t.tables.plan = s.planNext.getD s.tables.plan ∧ t.tables.view = t.view ∧ t.tables.detours = admitDetours t.view (brokenDirs t.view) [] ∧ s.keepsData t)

/-- R414 to R417: a parent asks, the child answers and steers out the offset, the parent notes the response, and a lost parent gives way to the other port
or to hold-over. -/
def Obligations.PavaneDiscipline : Prop :=
  ∀ s : State, s.canonical →
    (∀ p : PortId, let n := p.toNat; let x := s.port n
      (s.carrying n = true → ∃ t, exec (.pavaneReq p) s = .next t ∧ (t.port n).pavOut = some ⟨false, x.xseq, 0, 0, x.t4⟩ ∧
        (t.port n).xseq = (x.xseq + 1) % 2 ^ 16 ∧ (t.port n).t4 = 0 ∧ t.regs = s.regs ∧ s.keepsData t) ∧
      (∀ b at_, x.pavIn = some (b, at_) → field b 0 1 = 1 → s.parent = some n → let q := field b 2 2; let t4 := field b 0x28 8
        ((∀ q0 t1 t2 t3, s.pavane.prev = some (q0, t1, t2, t3) → (q0 + 1) % 2 ^ 16 ≠ q ∨ t4 = 0) →
          ∃ t, exec (.pavaneExchange p) s = .next t ∧ (t.port n).pavIn = none ∧ (t.port n).pavOut = some ⟨true, q, field b 0x10 8, at_, 0⟩ ∧
            t.pav = s.pav ∧ t.regs = s.regs ∧ s.keepsData t) ∧
        (∀ q0 t1 t2 t3, s.pavane.prev = some (q0, t1, t2, t3) → (q0 + 1) % 2 ^ 16 = q → t4 ≠ 0 → s.pavState = 2 →
          let d : Int := (((t2 : Int) - t1) - ((t4 : Int) - t3)).fdiv 2
          (d.natAbs ≤ 800 → ∃ t, exec (.pavaneExchange p) s = .next t ∧ (t.port n).pavOut = some ⟨true, q, field b 0x10 8, at_, 0⟩ ∧
            t.pavane.steer = min (max (-d) (-40)) 40 ∧ t.pavState = 2 ∧ t.pav = s.pav ∧ s.keepsData t) ∧
          (800 < d.natAbs → ∃ t, exec (.pavaneExchange p) s = .next t ∧ t.pavState = 1 ∧ (s.holdsEvents → s.told t 0x4009 0 none []) ∧ s.keepsData t))) ∧
      (∀ b at_, x.pavIn = some (b, at_) → field b 0 1 = 2 →
        ∃ t, exec (.pavaneResp p) s = .next t ∧ (t.port n).pavIn = none ∧ (t.port n).t4 = (if (field b 2 2 + 1) % 2 ^ 16 = x.xseq then at_ else x.t4) ∧
          t.regs = s.regs ∧ s.keepsData t)) ∧
    (let c := (s.reg rPAV_CTRL).toNat
      let up (alt : Bool) : Bool := (if alt then bit c 10 && decide (s.portSt (bits c 4 4) = 2) else bit c 9 && decide (s.portSt (bits c 0 4) = 2))
      bit c 8 = false → up s.pavane.alt = false →
      (s.pavState ≠ 3 → up (!s.pavane.alt) = true →
        ∃ t, exec .pavaneParentLoss s = .next t ∧ t.pavane.alt = !s.pavane.alt ∧ t.pavState = s.pavState ∧ t.pav = s.pav ∧ s.keepsData t) ∧
      (s.pavState = 1 ∨ s.pavState = 2 → up (!s.pavane.alt) = false →
        ∃ t, exec .pavaneParentLoss s = .next t ∧ t.pavState = 3 ∧ t.pavane.steer = 0 ∧ (s.holdsEvents → s.told t 0x4008 0 none []) ∧ s.keepsData t) ∧
      (s.pavState = 3 → up (!s.pavane.alt) = true →
        ∃ t, exec .pavaneParentLoss s = .next t ∧ t.pavState = 1 ∧ t.pavane.alt = (!s.pavane.alt) ∧ s.keepsData t))

/-- R407 to R409, R418 to R422: the root of a barrier collects arrivals and sends the release, members start at it, a timeout or an abort ends the wait; a
collective's last part completes it; the by-pass reports its position or its fault, and a charged capacitor frees a waiting through command. -/
def Obligations.BarriersCollectivesAndByPass : Prop :=
  ∀ s : State, s.canonical →
    (∀ m s0, s.takeBar 1 = some (m, s0) → let g := field m.body 2 2; let q := field m.body 4 4
      (∀ b, SMap.find? s.bars g = some b → b.seq = q → b.ovr = false → b.arrived.contains m.peer = false →
        let arr := b.arrived ++ [m.peer]; let mem := SMap.get s.groups g []
        ((∃ a ∈ mem, arr.contains a = false) → exec .barrierArrive s = .next { s0 with bars := SMap.set s.bars g ⟨q, arr, false⟩ }) ∧
        (mem ≠ [] → (∀ a ∈ mem, arr.contains a = true) →
          ∃ t, exec .barrierArrive s = .next t ∧ SMap.find? t.bars g = some ⟨q, arr, true⟩ ∧ s.keepsData t ∧
            ∀ a ∈ mem, a ≠ s.addr → s.routeTo a g = true →
              (⟨6, m.tc, a, g, m.tenant, barBody 2 g q (s.pav + s.getField 0x60000 20 12 * 100)⟩ : Msg) ∈ t.outbox))) ∧
    (∀ m s0, s.takeBar 2 = some (m, s0) → s.atBarrier (field m.body 2 2) (field m.body 4 4) ≠ [] →
      ∃ t, exec .barrierRelease s = .next t ∧ t.releases = s.releases ++ [(field m.body 2 2, field m.body 4 4, field m.body 8 8)] ∧ s.keepsData t) ∧
    (∀ g q r i, s.releases = [(g, q, r)] → r ≤ s.pav → s.atBarrier g q = [i] →
      ∃ t, exec .barrierStart s = .next t ∧ t.releases = [] ∧ (t.item i).barWait = false ∧ (t.item i).barDeadline = r ∧ s.keepsData t) ∧
    (∀ (g : BitVec 16) b i, SMap.find? s.bars g.toNat = some b → b.ovr = false → SMap.get s.groups g.toNat [] ≠ [] → s.atBarrier g.toNat b.seq = [i] →
      (s.item i).barDeadline ≤ s.pav →
      ∃ t, exec (.barrierTimeout g) s = .next t ∧ SMap.find? t.bars g.toNat = some { b with ovr := true } ∧ s.keepsData t) ∧
    (∀ m s0 i, s.takeBar 3 = some (m, s0) → s.atBarrier (field m.body 2 2) (field m.body 4 4) = [i] → s.alive i →
      ∃ t, exec .barrierAbort s = .next t ∧ s.stopping t i stFABRIC_UNREACHABLE 0x400D ∧ (s.holdsEvents → s.told t 0x400D 0 none []) ∧ s.keepsData t) ∧
    (∀ c m s0, s.takeMsg (fun m => m.kind == 5 && decide (some m.peer = c.ranks[c.rank]?) && decide (m.flow = c.coll)) = some (m, s0) →
      let x := SMap.get s.colls c.coll {}; let parts := x.parts ++ [(c.rank, m.body)]
      x.parts.any (fun p => p.1 == c.rank) = false → x.result = none →
      (c.op = 3 ∨ parts.length < c.ranks.length →
        exec (.collectiveData c) s = .next { s0 with colls := SMap.set s.colls c.coll { x with parts := parts, item := c.item } }) ∧
      (c.op = 0 → c.fmt = fI32 → c.all = false → c.ranks.length ≤ parts.length → (∀ p ∈ parts, p.2.length = 4) →
        ∃ t, exec (.collectiveData c) s = .next t ∧
          (SMap.get t.colls c.coll {}).result = some (leBytes 4 ((parts.map (fun p => leNat p.2)).foldl (· + ·) 0)) ∧ s.keepsData t)) ∧
    (∀ v t0, s.bypMove = some (v, t0) → let at_ := if v then 7 else 0
      (∃ t, exec .bypChange s = .next t ∧ t.bypMove = none ∧ t.bypPin = v ∧ t.getField rBYP 0 3 = at_ ∧ t.getField rBYP 3 1 = 0 ∧
        (s.holdsEvents → s.told t 0x4006 0 none [(1, at_)]) ∧ s.keepsData t) ∧
      (∀ mask : BitVec 3, t0 + 5000000 ≤ s.now → mask.toNat ≠ at_ →
        ∃ t, exec (.bypFault mask) s = .next t ∧ t.bypMove = none ∧ t.getField rBYP 0 3 = mask.toNat ∧ t.getField rBYP 3 1 = 0 ∧ t.getField rBYP 5 1 = 1 ∧
          (s.holdsEvents → s.told t 0x4007 0 none []) ∧ s.keepsData t)) ∧
    (∃ t, exec .holdupCharged s = .next t ∧ t.getField rBYP 4 1 = 1 ∧ (s.bypWait = true → s.getField 0x60010 0 1 = 0 → t.bypMove = some (false, s.now)) ∧
      s.keepsData t)

/-! ### Upkeep of memory -/

/-- R310, R315, R317, R318, R324 to R327, R539 to R545, R625, R627: buffers are flushed after 2 µs, lines are scrubbed, lanes repaired, stacks sleep and wake,
granules are refilled, checked and tried again, stalled reads give up, background work takes its slice, and telemetry is published. -/
def Obligations.MemoryUpkeep : Prop :=
  ∀ s : State, s.canonical →
    ((s.mem.wcb.map (·.line)).Nodup → ∃ t, exec .wcbFlushTimer s = .next t ∧ t.mem.wcb = s.mem.wcb.filter (fun w => decide (s.now < w.time + 2000)) ∧
      ∀ w, s.mem.wcb = [w] → w.time + 2000 ≤ s.now → 64 ≤ w.bytes.length →
        Memory.readN t.mem.data (64 * w.line) 64 = overlay (List.replicate 64 0) w.bytes) ∧
    (∀ st : StackId, let n := st.toNat; let o := memOff n 0x18; let l := s.mchs n
      (∀ c i, l.zipIdx.find? (fun p => decide (s.getField o 28 5 ≤ p.1)) = some (c, i) →
        let line := s.getField o 0 28; let k := dpaOf n l.length i (64 * line) / 64
        SMap.find? s.mem.errs k = none → s.wcbOf k = none → s.mem.caErr = [] →
        (line + 1 < 2 ^ 26 → ∃ t, exec (.patrolScrubRead st) s = .next t ∧ t.getField o 28 5 = c ∧ t.getField o 0 28 = line + 1 ∧ t.mem.data = s.mem.data ∧
          t.mem.marks = s.mem.marks) ∧
        (2 ^ 26 ≤ line + 1 → l[i + 1]? = none → ∃ t, exec (.patrolScrubRead st) s = .next t ∧ t.getField o 28 5 = 0 ∧ t.getField o 0 28 = 0 ∧
          t.getField o 33 15 = (s.getField o 33 15 + 1) % 2 ^ 15 ∧ t.mem.data = s.mem.data)) ∧
      (exec (.refresh st) s = .next s) ∧
      (∀ c : MchId, l.contains c.toNat = true → let oc := memOff n (0x100 + 8 * c.toNat)
        let calibrated (t : State) : Prop := t.getField (memOff n 0x10) 10 1 = 1 ∧ t.mem = { s.mem with calAt := t.mem.calAt } ∧
          SMap.get t.mem.calAt n 0 = s.now ∧ SMap.get t.bgAt (2048 + (32 * n + c.toNat)) 0 = s.now ∧ t.grans = s.grans ∧ t.eng = s.eng
        (s.getField oc 19 2 = 0 → ∃ t, exec (.mchCalibration st c [] none true) s = .next t ∧ calibrated t ∧ t.repair = s.repair ∧ t.evHeld = s.evHeld) ∧
        (∀ x, x < 68 → s.getField oc 0 7 = 0x7F → ∃ t, exec (.mchCalibration st c [x] none true) s = .next t ∧ t.getField oc 0 7 = x ∧ t.getField oc 19 2 = 1 ∧
          t.getField (memOff n 8) (32 + c.toNat) 1 = 1 ∧ (s.holdsEvents → s.told t 0x3003 0 none [(1, x)]) ∧ calibrated t) ∧
        (∃ t, exec (.mchCalibration st c [] none false) s = .next t ∧ t.repair.contains (32 * n + c.toNat) = true ∧
          (s.holdsEvents → s.told t 0x3006 0 none []) ∧ calibrated t)) ∧
      (∀ temp, ∃ t, exec (.stackTempRead st temp) s = .next t ∧ t.getField (memOff n 0x10) 0 8 = min temp 255 ∧ (85 < temp → t.getField (memOff n 0x10) 8 1 = 1) ∧
        (temp < 83 → t.getField (memOff n 0x10) 8 1 = 0) ∧ (85 < temp → s.getField (memOff n 0x10) 8 1 = 0 → s.holdsEvents → s.told t 0x3005 0 none []) ∧ s.keepsData t) ∧
      (s.getField 0x48000 16 8 ≠ 0 → s.mem.zeroing = [] → s.bgSlice = [] → s.scrubDue n = false → s.calDue n = false → SMap.get s.mem.lastReq n 0 + 1000 * s.getField 0x48000 16 8 ≤ s.now → l ≠ [] →
        ∃ t, exec (.selfRefreshEntry st) s = .next t ∧ t.getField (memOff n 0x10) 9 1 = 1 ∧ ∀ w ∈ t.mem.wcb, stackOfDpa (64 * w.line) ≠ n) ∧
      (s.getField (memOff n 0x10) 9 1 = 1 → ∃ t, exec (.selfRefreshExit st) s = .next t ∧ t.getField (memOff n 0x10) 9 1 = 0 ∧
        SMap.get t.mem.lastReq n 0 = s.now ∧ t.mem.data = s.mem.data)) ∧
    (∀ g x k r, g < 4096 → SMap.find? s.grans g = some x → s.regOf g = some (k, r) → let src := r.src + (g - r.first) * 2 ^ 28
      (x.code = 2 → x.copies = 0 →
        ∃ t, exec (.refillStart g) s = .next t ∧
          SMap.find? t.grans g = some { x with code := 3, tries := 0, retryAt := none, failed := false, written := false } ∧ t.mem = s.mem ∧
          (r.source = 0 → r.tenant = 255 → s.isHead = true → t.out = s.out ++ [.hostRead s.nextTag src (2 ^ 28)]) ∧
          (r.source ≠ 0 → ∀ i, i < 8192 → (⟨8, 1, 64 * r.peerRack + r.peerModule, 0, 0, refillAsk g (src + 32768 * i) 32768⟩ : Msg) ∈ t.outbox)) ∧
      (∀ rd flips s1, x.code = 3 → x.retryAt = none → s.refillData g r rd = some (none, s1) →
        (x.tries = 0 → ∃ t, exec (.refillCheck g rd flips) s = .next t ∧
          SMap.find? t.grans g = some { x with tries := 1, retryAt := some (s.now + 10000000) } ∧ t.mem = s.mem) ∧
        (x.tries ≠ 0 → ∃ t, exec (.refillCheck g rd flips) s = .next t ∧ SMap.find? t.grans g = some { x with code := 4, tries := 0, retryAt := none } ∧
          s.counted t 0xC0020 1 ∧ (s.holdsEvents → s.told t 0x3202 0 none [(2, g), (1, k), (1, 0)]) ∧ t.mem = s.mem)) ∧
      (∀ rd b s1, x.code = 3 → x.retryAt = none → x.tries = 0 → s.refillData g r rd = some (some b, s1) → (∀ kv ∈ s.eng, kv.2.dma = []) →
        let c := (s1.memWrite (g * 2 ^ 28) 0 (2 ^ 22 + 1) b).granuleCrc g
        ∃ t, exec (.refillCheck g rd []) s = .next t ∧
          (c.1 = x.crc → c.2.1 = 0 → SMap.find? t.grans g = some { x with code := 1, tries := 0, retryAt := none })) ∧
      (∀ t0, x.code = 3 → x.retryAt = some t0 → t0 ≤ s.now →
        ∃ t, exec (.refillRetry g) s = .next t ∧ SMap.find? t.grans g = some { x with retryAt := none } ∧ t.mem = s.mem ∧
          (r.source = 0 → r.tenant = 255 → s.isHead = true → t.out = s.out ++ [.hostRead s.nextTag src (2 ^ 28)]))) ∧
    (∀ m s1, s.takeMsg (fun m => m.isMgmt 0xB0) = some (m, s1) → let g := field m.body 4 4; let a := field m.body 8 8; let n := field m.body 16 4
      (0 < n → n ≤ 32768 → a % 64 = 0 → n % 64 = 0 → s.grans = [] → s.granulesOk a n (· == 0x40) = true →
        let r := s1.readUnits a 0 (n / 32)
        exec .peerRefillRead s = .next (r.st.send ⟨8, 1, m.peer, 0, 0, if r.top = 0 then refillAns 0 g a r.bytes else refillAns 1 g a []⟩)) ∧
      (n = 0 ∨ 32768 < n ∨ a % 64 ≠ 0 ∨ s.granulesOk a n (· == 0x40) = false → exec .peerRefillRead s = .next (s1.send ⟨8, 1, m.peer, 0, 0, refillAns 1 g a []⟩))) ∧
    (∀ (e : EngId) d g, (s.engine e.val).dma = [d] → d.fate = .stalled g → d.since + max 1 (s.getField rRAS_CTRL 8 8) * 1000000 ≤ s.now →
      s.alive (s.engine e.val).item →
      ∃ t, exec (.stalledReadTimeout e) s = .next t ∧ (t.engine e.val).dma = [{ d with fate := .refused }] ∧ s.counted t 0xC0030 1 ∧
        s.stopping t (s.engine e.val).item stWEIGHT_POISON 0x3200 ∧ s.keepsData t) ∧
    (∀ a u, a ≤ 4 → u < [192, 8, 256, 128, 1].getD a 0 → let k := 1024 * a + u
      (s.bgSlice.contains k = true → exec (.bgSlice a u) s = .next (s.count 0xC0038 1)) ∧
      (s.bgSlice.contains k = false → SMap.get s.bgAt k s.boot.startAt + bgLimit a ≤ s.now →
        ∃ t, exec (.bgSlice a u) s = .next t ∧ t.bgSlice = s.bgSlice ++ [k] ∧ s.counted t 0xC0038 1 ∧
          (s.holdsEvents → s.told t 0x3203 0 none [(1, a), (1, u)]) ∧ s.keepsData t)) ∧
    (s.boot.powerRst = false → s.boot.modRst = false → SMap.get s.bgAt 4096 s.boot.startAt + 10000000 ≤ s.now →
      (s.getField 0xD0000 0 1 = 1 → exec .telemetrySample s = .next (s.bgDone 4 0)) ∧
      (s.getField 0xD0000 0 1 = 0 → ∃ t, exec .telemetrySample s = .next t ∧ t.tlmAcc = [] ∧ t.tlmAt = s.now ∧ (t.reg 0xD0010).toNat = s.pav % 2 ^ 64 ∧
        SMap.get t.bgAt 4096 0 = s.now ∧ s.keepsData t ∧
        ∀ i, i < 64 → (t.reg (0xD0200 + 8 * i)).toNat = min (SMap.get s.tlmAcc (0x200 + 8 * i) 0) (2 ^ 48 - 1)))

/-! ### Power and faults of the module -/

/-- R534, R565, R572 to R581, R587, R606: the supply warning and its release, FAST_OFF, power samples, the thermal state and its trip, and what makes the
module fatal. -/
def Obligations.PowerAndFatalFaults : Prop :=
  ∀ s : State, s.canonical →
    (∀ mv, mv ≤ 1710 → s.getField rPWR_STATUS 0 1 = 0 →
      ∃ t, exec (.supplyWarn mv) s = .next t ∧ t.getField rPWR_STATUS 0 1 = 1 ∧ t.getField rPWR_STATUS 1 1 = 0 ∧ t.getField rPWR_STATUS 16 12 = mv ∧
        t.supply.warnPin = true ∧ t.throttling = true ∧ s.counted t 0x10028 1 ∧ (s.holdsEvents → s.told t 0x6000 0 none [(2, mv)]) ∧ s.keepsData t) ∧
    (∀ t0, s.supply.clearAt = some t0 → s.getField rPWR_STATUS 0 1 = 1 → t0 + 100000 ≤ s.now →
      ∃ t, exec .warnRelease s = .next t ∧ t.getField rPWR_STATUS 0 1 = 0 ∧ t.getField rPWR_STATUS 1 1 = 1 ∧ t.supply.rampAt = some s.now ∧
        t.throttling = true ∧ s.keepsData t) ∧
    (∀ t0, s.supply.rampAt = some t0 → s.getField rPWR_STATUS 1 1 = 1 → t0 + 10000 ≤ s.now →
      ∃ t, exec .supplyRecover s = .next t ∧ t.getField rPWR_STATUS 1 1 = 0 ∧ t.supply.warnPin = false ∧ t.supply.rampAt = none ∧
        (s.holdsEvents → s.told t 0x6001 0 none [(4, (s.now - s.supply.onset) / 100), (2, s.supply.low)]) ∧ s.keepsData t) ∧
    (s.supply.fastPin = false →
      (s.inReset = false → ∃ t, exec .fastOff s = .next t ∧ t.supply.fastPin = true ∧ t.getField rPWR_STATUS 2 1 = 1 ∧ t.throttling = true ∧
        (s.holdsEvents → s.told t 0x6002 0 none []) ∧ s.keepsData t) ∧
      (s.inReset = true → exec .fastOff s = .next { s with supply := { s.supply with fastPin := true } })) ∧
    (∃ t, exec .fastOffRelease s = .next t ∧ t.supply.fastPin = false ∧ t.getField rPWR_STATUS 2 1 = 0 ∧ s.keepsData t) ∧
    (∀ mv amps ceils, mv < 4096 → let w := mv * amps / 1000
      let l := (s.now, mv, amps) :: s.supply.samples.filter (fun x => decide (s.now < x.1 + 100000000))
      ∃ t, exec (.powerSample mv amps ceils) s = .next t ∧ t.supply.samples = l ∧ t.getField rPWR_STATUS 16 12 = mv ∧
        t.getField rPWR_STATUS 28 12 = (if s.getField rPWR_STATUS 28 12 = 0 then mv else min (s.getField rPWR_STATUS 28 12) mv) ∧
        t.getField 0x10010 0 16 = min (meanW l s.now 1000000) 65535 ∧ t.getField 0x10010 32 16 = min (meanW l s.now 100000000) 65535 ∧
        (meanW l s.now 1000 ≤ 2400 → w ≤ s.cap → meanW l s.now 100000000 ≤ s.cap → s.supply.capSince = none →
          t.getField rPWR_STATUS 6 1 = (if s.supply.thermHold = true then 1 else 0)) ∧ ((∀ c ∈ ceils, 200 ≤ c) → t.getField rPWR_STATUS 5 1 = 0) ∧ s.keepsData t) ∧
    (∀ temps inlet outlet flow, let tj := hottest temps (List.range 40); let thr := s.getField rPWR_CTRL 12 8
      let sensor := ((List.range 40).find? (fun i => temps.getD i 0 == tj)).getD 0
      120 ≤ inlet → inlet ≤ 360 → 150 ≤ flow → flow ≤ 300 → s.getField rPWR_STATUS 3 2 = 0 → (∀ i, i < 8 → s.getField (memOff i 0x10) 0 8 < 95) → tj < 256 →
      (tj < thr → tj < 100 → ∃ t, exec (.thermalSample temps inlet outlet flow) s = .next t ∧ t.supply.temps = temps ∧ t.getField rPWR_STATUS 3 2 = 0 ∧
        t.getField rPWR_STATUS 7 1 = 1 ∧ t.getField 0x10018 0 12 = inlet ∧ t.getField 0x10020 0 8 = tj ∧ s.keepsData t) ∧
      (thr ≤ tj → tj < 100 → ∃ t, exec (.thermalSample temps inlet outlet flow) s = .next t ∧ t.getField rPWR_STATUS 3 2 = 1 ∧
        (s.holdsEvents → s.told t 0x6004 0 none [(1, sensor), (1, tj)]) ∧ s.keepsData t) ∧
      (100 ≤ tj → tj < 110 → ∃ t, exec (.thermalSample temps inlet outlet flow) s = .next t ∧ t.getField rPWR_STATUS 3 2 = 2 ∧
        (s.holdsEvents → s.told t 0x6005 0 none [(1, 0), (1, sensor), (1, tj)]) ∧ s.keepsData t) ∧
      (110 ≤ tj → ∃ t, exec (.thermalSample temps inlet outlet flow) s = .next t ∧ t.getField rPWR_STATUS 3 2 = 3 ∧ t.supply.clocksOff = true ∧
        t.supply.tripPin = true ∧ t.phase = 6 ∧ t.getField 0x60010 0 1 = 1 ∧ (s.holdsEvents → s.told t 0x6006 0 none [(1, 0), (1, sensor), (1, tj)]))) ∧
    (s.supply.clocksOff = false → ∃ t, exec .hwThermalTrip s = .next t ∧ t.supply.clocksOff = true ∧ t.supply.tripPin = true ∧ t.phase = 6 ∧ t.items = [] ∧
      (∀ kv ∈ t.chans, kv.2.recs = []) ∧ t.out = s.out ∧ s.keepsData t) ∧
    (let turns (c : Instr) (cause : Nat) : Prop := ∃ t, exec c s = .next t ∧ t.fatal = true ∧ t.getField rRAS_STATUS 4 4 = cause ∧ t.phase = 6 ∧
       (∀ k, s.alive k → (t.item k).phase = .stopping ∧ (t.item k).stopped = true) ∧ (s.holdsEvents → s.told t 0x3204 0 none [(1, cause)]) ∧ s.keepsData t
     s.fatal = false → turns .controlCoreMemoryUe 2 ∧ turns .controlCoreWatchdog 3 ∧ turns .hubPllUnlock 4 ∧
       ∀ (l : Fin 17) k, 16 ≤ k → turns (.internalFlitReplay l k) 1) ∧
    (∀ (l : Fin 17) k, k < 16 → exec (.internalFlitReplay l k) s = .next (s.count (0xC0100 + 8 * l.val) k))

/-- R567 to R570, R587, R596: an idle quadrant goes to retention, stops its PLL and loses its power and stores; a wake brings it to its clock; the loss of
its PLL stops its work, and its reset clears its engines. -/
def Obligations.QuadrantPowerStates : Prop :=
  ∀ (s : State) (q : QuadId), s.canonical → let k := q.toNat
    (∀ st ns, s.idleFor k st ns = true →
      (st = 1 → ns = 1000 * s.getField rPWR_CTRL 20 12 → ∃ t, exec (.quadrantRetention q) s = .next t ∧ t.qState k = 2 ∧ t.eng = s.eng ∧ s.keepsData t) ∧
      (st = 2 → ns = 1000 * s.getField rPWR_CTRL 32 12 → ∃ t, exec (.quadrantPllOff q) s = .next t ∧ t.qState k = 3 ∧ t.eng = s.eng ∧ s.keepsData t) ∧
      (st = 3 → ns = 1000000 * s.getField rPWR_CTRL 44 12 → s.getField rPWR_CTRL 44 12 ≠ 0 →
        ∃ t, exec (.quadrantOff q) s = .next t ∧ t.qState k = 4 ∧ s.keepsData t ∧
          ∀ e, (e ∈ quadEngines k → t.engine e = { pool := (s.engine e).pool, saves := (s.engine e).saves, scrubCe := (s.engine e).scrubCe, clrFail := (s.engine e).clrFail }) ∧
            (e ∉ quadEngines k → t.engine e = s.engine e))) ∧
    (s.qState k ≠ 0 → (s.wakeReq.contains k || s.warmQuads.contains k) = true → s.pllLost.contains k = false → s.mayClock = true →
      ∃ t, exec (.quadrantWake q) s = .next t ∧ t.qState k = 0 ∧ t.qCur k = t.targetClk k ∧ t.eng = s.eng ∧ s.keepsData t) ∧
    (∃ t, exec (.clockRampDone q) s = .next t ∧ t.qCur k = s.targetClk k ∧ t.eng = s.eng ∧ s.keepsData t) ∧
    (s.qState k < 3 → s.pllLost.contains k = false →
      ∃ t, exec (.quadPllUnlock q) s = .next t ∧ t.qState k = 3 ∧ t.pllLost = k :: s.pllLost ∧ (s.holdsEvents → s.told t 0x6009 0 none [(1, k)]) ∧ s.keepsData t ∧
        ∀ i w, SMap.find? s.items i = some w → w.phase = .running → (∃ e ∈ w.engines, quadOf e = k) → (t.item i).phase = .stopping ∧ (t.item i).stopped = true) ∧
    ((s.pllLost.contains k || s.clearFailed k) = true → s.items = [] → s.mayClock = true →
      ∃ t, exec (.quadrantReset q) s = .next t ∧ t.pllLost.contains k = false ∧ t.qState k = 0 ∧ s.keepsData t ∧
        ∀ e ∈ quadEngines k, s.clrDead.contains e = false → (t.engine e).st = .clearing ∧ t.getField (engOff e oSTORE_CTRL) 25 1 = 1)

/-! ### Resets and bring-up -/

/-- R408, R432, R433, R589 to R591, R593, R602, R637, R638: what each reset empties, keeps and records, what its release starts, a reset of the host
interface and its orders to the members, and the link's power states. -/
def Obligations.ResetsAndLinkPower : Prop :=
  ∀ s : State, s.canonical →
    (let reset (c : Instr) (bits_ : Nat) (t : State) : Prop := exec c s = .next t ∧ t.emptied ∧ t.eng = [] ∧ t.mem = {} ∧ t.pending = s.pending ∧ t.now = s.now ∧
       t.phase = 0 ∧ t.barUp = false ∧ (∀ i, i < 8 → bits_.testBit i = true → t.getField rRESET_CAUSE i 1 = 1) ∧
       (s.getField rBYP 0 3 ≠ 7 → s.bypMove = none → t.bypMove = some (true, s.now))
     (∀ mv, mv ≤ 1620 → s.boot.powerRst = false → ∃ t, reset (.powerReset mv) 2 t ∧ t.boot.powerRst = true ∧ t.supply.tripPin = false) ∧
     (s.inReset = false → ∃ t, reset .moduleReset 4 t ∧ t.boot.modRst = true ∧ t.supply.tripPin = s.supply.tripPin ∧ t.dom.sector = s.dom.sector) ∧
     (∃ t, reset .standbyReset 0 t ∧ t.boot.sb = false ∧ t.boot.powerRst = true ∧ t.reg rRESET_CAUSE = resetVal rRESET_CAUSE ∧ t.getField rBYP 4 1 = 0)) ∧
    (s.boot.modRst = false → s.inReset = true → exec .moduleReset s = .next { s with boot := { s.boot with modRst := true } }) ∧
    (∀ slot ga, let started (t : State) : Prop := t.inReset = false ∧ t.rack = ga % 64 ∧ t.self = slot % 64 ∧ (t.reg 0x60008).toNat = slot % 64 + 64 * (ga % 64) ∧
        t.phase = (if s.supply.tripPin = true then 6 else 0) ∧ t.boot.startAt = s.now ∧ s.keepsData t
      s.boot.sb = true →
      (∀ mv, s.boot.powerRst = true → s.boot.modRst = false → s.boot.sbAt + 50000000 ≤ s.now → 1640 ≤ mv →
        ∃ t, exec (.powerResetRelease slot ga mv) s = .next t ∧ started t ∧ t.getField rRESET_CAUSE 1 1 = 1) ∧
      (s.boot.modRst = true → s.boot.powerRst = false → ∃ t, exec (.modRstRelease slot ga) s = .next t ∧ started t)) ∧
    (s.boot.sb = false → exec .standbyRailUp s = .next { s with boot := { s.boot with sb := true, sbAt := s.now } }) ∧
    (let gone (c : Instr) (k : Nat) : Prop := ∃ t, exec c s = .next t ∧ t.emptied ∧ t.getField rRESET_CAUSE k 1 = 1 ∧ (s.boot.memDone = true → t.mem.data = []) ∧
       t.phase = s.phase ∧ t.pending = s.pending ∧ (s.isHead = true → ∀ m ∈ s.others,
         (⟨8, 1, 64 * s.rack + m, 0, 0, leBytes 1 0xF3 ++ leBytes 1 k ++ leBytes 2 0⟩ : Msg) ∈ t.outbox)
     s.inReset = false →
       (s.isHead = true → (1 ≤ s.phase → s.boot.hostUp = false → gone .perstAssert 3) ∧ gone .functionLevelReset 4) ∧
       (s.isHead = false → (∀ x, s.takeMsg (isHifMsg 3) = some x → s.boot.hostUp = false → gone .perstAssert 3) ∧
         (∀ x, s.takeMsg (isHifMsg 4) = some x → gone .functionLevelReset 4))) ∧
    (s.inReset = true → exec .perstAssert s = .next { s with boot := { s.boot with perst := true } }) ∧
    (exec .perstDeassert s = .next { s with boot := { s.boot with perst := false } }) ∧
    (s.isHead = true → s.l1 = false → (∀ kv ∈ s.watch, kv.2.tc ≠ 0) → s.lastHost + 100000 ≤ s.now →
      exec .aspmL1Entry s = .next { s with l1 := true, out := s.out ++ [.l1Request] }) ∧
    (s.anyChannel = false → exec .d3hotEntry s = .next { s with d3hot := true }) ∧
    (s.d3hot = true → s.chans = [] → exec .d3hotExit s = .next { s with d3hot := false })

/-- R552, R592 to R595, R597 to R599, R601: a firmware copy is accepted or the module stays in its ROM, self-tests and records open BAR0, the coolant lets the
networks start, memory is trained and zeroed, the fabric phase ends, and the host link comes up. -/
def Obligations.BringUpPhases : Prop :=
  ∀ s : State, s.canonical → s.inReset = false →
    (∀ a b, s.phase = 0 → s.boot.failed = false → let chk := firmwareCheck s.boot.revoke s.boot.svnMin
      ∃ t, exec (.firmwareAccept a b) s = .next t ∧ s.keepsData t ∧
        (let runs (m : Bytes) (c : Nat) : Prop := t.phase = 1 ∧ t.getField 0x30 0 16 = field m 4 2 ∧ t.getField 0x30 22 1 = c ∧ t.boot.failed = false
         if chk a = 0 then runs a 0 else if chk b = 0 then runs b 1 ∧ t.boot.checkA = chk a
         else t.phase = 6 ∧ t.boot.failed = true ∧ t.boot.hostUp = false ∧ t.boot.checkA = chk a ∧ t.boot.checkB = chk b)) ∧
    (∀ repairBad, s.phase = 1 → s.boot.bar0 = false → s.supply.fastPin = false → s.supply.temps ≠ [] →
      (∃ t, exec (.firmwarePhaseComplete true repairBad) s = .next t ∧ t.barUp = true ∧ t.keyDraws = s.keyDraws + 1 ∧
        t.repair = (if repairBad = true then [] else s.repair) ∧ (s.recordBad ≠ 0 → t.getField rPHASE 5 1 = 1) ∧
        (s.coolantOk = true → t.phase = 2 ∧ t.getField rPHASE 6 1 = 0 ∧ t.getField 0x60010 0 1 = 0) ∧
        (s.coolantOk = false → t.phase = 1 ∧ t.getField rPHASE 6 1 = 1) ∧ s.keepsData t) ∧
      (s.fatal = false → ∃ t, exec (.firmwarePhaseComplete false repairBad) s = .next t ∧ t.fatal = true ∧ t.getField rRAS_STATUS 4 4 = 5 ∧ t.phase = 6)) ∧
    (s.phase = 1 → s.getField rPHASE 6 1 = 1 → s.coolantOk = true →
      ∃ t, exec .coolantRestored s = .next t ∧ t.phase = 2 ∧ t.getField rPHASE 6 1 = 0 ∧ t.getField 0x60010 0 1 = 0 ∧ s.keepsData t) ∧
    (∀ res, s.phase = 2 → s.boot.memDone = false →
      ∃ t, exec (.memoryPhaseComplete res) s = .next t ∧ t.boot.memDone = true ∧ t.mem = { owner := t.initOwners } ∧ t.phase = (if s.boot.fabDone = true then 4 else 3) ∧
        ∀ st, st < 8 → let up := (List.range 32).filter (fun c => !s.caFail.contains (32 * st + c) && !s.repair.contains (32 * st + c) && decide (res.getD (32 * st + c) .failed ≠ .failed))
          t.mchs st = (if up.length < 16 then [] else up)) ∧
    (∀ t0, s.boot.throughAt = some t0 → (s.phase = 2 ∨ s.phase = 3) → s.boot.fabDone = false → s.bypassed = false →
      ((∀ p, p < 16 → s.portSt p ≠ 1) ∨ t0 + 10000000 ≤ s.now) → (s.pavState = 2 ∨ bit (s.reg rPAV_CTRL).toNat 8 = true) →
      ∃ t, exec .fabricPhaseComplete s = .next t ∧ t.boot.fabDone = true ∧ t.phase = (if s.boot.memDone = true then 4 else s.phase) ∧ s.keepsData t) ∧
    (s.boot.perst = false → s.boot.hostUp = false → s.boot.failed = false →
      ∃ t, exec .hostLinkUp s = .next t ∧ t.boot.hostUp = true ∧ t.boot.hostAt = s.pav ∧ t.regs = s.regs ∧ s.keepsData t)

/-- R436, R445, R600 to R604: a flooded message is noted, the head is elected or the phase tried again, the domain is formed and its members become ready,
members join and leave, and a member that has lost its head resets its host interface. -/
def Obligations.DomainFormation : Prop :=
  ∀ s : State, s.canonical →
    (∀ m s1, s.takeMsg isDomMsg = some (m, s1) → m.peer / 64 = s.rack →
      ∃ t, exec .domainMessage s = .next t ∧ SMap.find? t.dom.msgs (m.peer % 64) = some ((domMsgOf m.body).after (SMap.find? s.dom.msgs (m.peer % 64))) ∧ t.inbox = s.inbox.erase m ∧ t.regs = s.regs ∧ s.keepsData t) ∧
    (s.inReset = false → s.phase = 4 → s.dom.head = none → s.dom.retryAt = none →
      (s.getField rPHASE 5 1 = 1 → ∃ t, exec .domainElection s = .next t ∧ t.dom.head = some s.self ∧ t.regs = s.regs ∧ s.keepsData t) ∧
      (s.getField rPHASE 5 1 = 0 →
        (s.elect = none → exec .domainElection s = .next s) ∧
        (s.elect = some none → ∃ t, exec .domainElection s = .next t ∧ t.dom.head = none ∧ t.dom.retryAt = some (s.now + 1000000000) ∧
          (s.holdsEvents → s.told t 0x5013 0 none [(8, maskOf (s.listed.filter s.linkSeen))]) ∧ s.keepsData t) ∧
        (∀ h x, s.elect = some (some h) → SMap.find? s.dom.msgs h = some x →
          (x.record = s.record.take 0x1C → ∃ t, exec .domainElection s = .next t ∧ t.dom.head = some h ∧ t.regs = s.regs ∧ s.keepsData t) ∧
          (x.record ≠ s.record.take 0x1C → ∃ t, exec .domainElection s = .next t ∧ t.dom.head = none ∧ t.dom.retryAt = some (s.now + 1000000000) ∧
            (s.holdsEvents → s.told t 0x5012 0 none [(4, crc32c (s.record.take 0x1C)), (4, crc32c x.record)]) ∧ s.keepsData t)))) ∧
    (∀ t0, s.dom.retryAt = some t0 → t0 ≤ s.now → s.phase = 4 →
      (s.linkSeen (recHead s.record) = true → exec .domainRetry s = .next { s with dom := { s.dom with retryAt := none } }) ∧
      (s.linkSeen (recHead s.record) = false → ∃ t, exec .domainRetry s = .next t ∧ t.phase = 4 ∧ t.dom.head = none ∧ t.dom.retryAt = none ∧
        t.dom.entered = some s.pav ∧ s.keepsData t)) ∧
    (s.phase = 4 → s.dom.head = some s.self → let alone := s.getField rPHASE 5 1 = 1
      (alone ∨ (∀ m ∈ s.listed, s.recordEq m = true) ∨ s.dom.ownDone + recWait s.record * 1000000 ≤ s.now) →
      ∃ t, exec .domainFormed s = .next t ∧ t.formed = true ∧ t.isHead = true ∧ t.headIx = s.self ∧ t.phase = 5 ∧ t.readyBit = true ∧
        (alone → (t.reg rDOMAIN_MEMBERS).toNat = 2 ^ s.self) ∧ (¬ alone → (t.reg rDOMAIN_MEMBERS).toNat = maskOf (s.listed.filter s.recordEq)) ∧
        (s.holdsEvents → s.told t 0x5011 0 none [(8, (t.reg rDOMAIN_MEMBERS).toNat)])) ∧
    (∀ m s1, s.phase = 4 → s.takeMsg (fun m => m.isMgmt 0xF2 && decide (m.peer / 64 = s.rack)) = some (m, s1) → s.dom.head = none →
      ∃ t, exec .domainFormed s = .next t ∧ t.formed = true ∧ t.headIx = m.peer % 64 ∧ (t.reg rDOMAIN_MEMBERS).toNat = field m.body 8 8 ∧ t.phase = 5 ∧ t.readyBit = true) ∧
    (s.isHead = true → s.formed = true → ∀ m : Fin 64, m.val ≠ s.self →
      (bit (s.reg rDOMAIN_MEMBERS).toNat m.val = false → s.listed.contains m.val = true → s.recordEq m.val = true →
        ∃ t, exec (.memberJoin m) s = .next t ∧ bit (t.reg rDOMAIN_MEMBERS).toNat m.val = true ∧ (s.holdsEvents → s.told t 0x5014 0 none [(1, m.val)]) ∧ s.keepsData t) ∧
      (∀ cause, bit (s.reg rDOMAIN_MEMBERS).toNat m.val = true → (1 ≤ cause ∧ cause ≤ 3) ∨
          (cause = 4 ∧ ∃ t0, SMap.find? s.dom.unreach m.val = some t0 ∧ t0 + 10000000 ≤ s.now) →
        ∃ t, exec (.memberLeave m cause) s = .next t ∧ bit (t.reg rDOMAIN_MEMBERS).toNat m.val = false ∧ (∀ kv ∈ t.watch, kv.1 / 4096 ≠ m.val) ∧
          (s.holdsEvents → s.told t 0x5015 0 none [(1, m.val), (1, cause)]) ∧ s.keepsData t)) ∧
    (∀ r, s.isHead = false → s.formed = true → s.phase = 5 → r = true ∨ (∃ t0, SMap.find? s.dom.unreach s.headIx = some t0 ∧ t0 + 10000000 ≤ s.now) →
      ∃ t, exec (.headLoss r) s = .next t ∧ t.emptied ∧ t.formed = false ∧ t.phase = 4 ∧ t.readyBit = false ∧ t.getField rRESET_CAUSE 5 1 = 1 ∧
        t.dom.entered = some s.pav ∧ t.dom.head = none)
end

