-- ==== Sys2Proof/Laws/Map.lean ====
section
/-! SUPPORT. Laws of finite maps and byte memories: a read after a write, and that every operation keeps the canonical form. -/

namespace Sys2Proof.Machine

variable {α : Type}

/-! ### Finite maps -/

@[simp] theorem SMap.find?_set_same (m : SMap α) (i : Nat) (v : α) : SMap.find? (SMap.set m i v) i = some v := by
  induction m with
  | nil => simp [SMap.set, SMap.find?]
  | cons c t ih =>
    obtain ⟨k, u⟩ := c
    simp only [SMap.set]
    split
    · simp [SMap.find?]
    · split
      · simp [SMap.find?]
      · have : k ≠ i := by omega
        simp [SMap.find?, this, ih]

theorem SMap.find?_set_ne (m : SMap α) (i j : Nat) (v : α) (h : j ≠ i) : SMap.find? (SMap.set m i v) j = SMap.find? m j := by
  induction m with
  | nil => simp [SMap.set, SMap.find?]; omega
  | cons c t ih =>
    obtain ⟨k, u⟩ := c
    have hij : i ≠ j := fun x => h x.symm
    simp only [SMap.set]
    split
    · simp [SMap.find?, hij]
    · split
      · subst_vars; simp [SMap.find?, hij]
      · by_cases hk : k = j <;> simp [SMap.find?, hk, ih]

@[simp] theorem SMap.get_set_same (m : SMap α) (i : Nat) (v d : α) : SMap.get (SMap.set m i v) i d = v := by
  simp [SMap.get]

theorem SMap.get_set_ne (m : SMap α) (i j : Nat) (v d : α) (h : j ≠ i) : SMap.get (SMap.set m i v) j d = SMap.get m j d := by
  simp [SMap.get, SMap.find?_set_ne m i j v h]

/-- Every key of a map lies above a bound. -/
def SMap.above (b : Nat) (m : SMap α) : Prop := ∀ c ∈ m, b < c.1

theorem SMap.wf_cons_iff (k : Nat) (v : α) (t : SMap α) : SMap.wf ((k, v) :: t) = true ↔ SMap.above k t ∧ SMap.wf t = true := by
  induction t generalizing k v with
  | nil => simp [SMap.wf, SMap.above]
  | cons c t ih =>
    obtain ⟨k', v'⟩ := c
    have e : SMap.wf ((k, v) :: (k', v') :: t) = (decide (k < k') && SMap.wf ((k', v') :: t)) := rfl
    rw [e, Bool.and_eq_true, decide_eq_true_eq, ih k' v']
    constructor
    · rintro ⟨h, h2, h3⟩
      refine ⟨?_, h2, h3⟩
      intro c hc
      rcases List.mem_cons.mp hc with rfl | hc
      · exact h
      · exact Nat.lt_trans h (h2 c hc)
    · rintro ⟨h, h2⟩
      exact ⟨h (k', v') (by simp), h2⟩

theorem SMap.above_set (b : Nat) (m : SMap α) (i : Nat) (v : α) (hm : SMap.above b m) (hi : b < i) : SMap.above b (SMap.set m i v) := by
  induction m with
  | nil => intro c hc; simp [SMap.set] at hc; subst hc; exact hi
  | cons c t ih =>
    obtain ⟨k, u⟩ := c
    have ht : SMap.above b t := fun c hc => hm c (by simp [hc])
    simp only [SMap.set]
    split
    · intro c hc
      rcases List.mem_cons.mp hc with rfl | hc
      · exact hi
      · exact hm c hc
    · split
      · intro c hc
        rcases List.mem_cons.mp hc with rfl | hc
        · exact hi
        · exact ht c hc
      · intro c hc
        rcases List.mem_cons.mp hc with rfl | hc
        · exact hm (k, u) (by simp)
        · exact ih ht c hc

theorem SMap.wf_set (m : SMap α) (i : Nat) (v : α) (h : SMap.wf m = true) : SMap.wf (SMap.set m i v) = true := by
  induction m with
  | nil => rfl
  | cons c t ih =>
    obtain ⟨k, u⟩ := c
    obtain ⟨ha, ht⟩ := (SMap.wf_cons_iff k u t).mp h
    simp only [SMap.set]
    split
    · rename_i hlt
      refine (SMap.wf_cons_iff _ _ _).mpr ⟨?_, h⟩
      intro c hc
      rcases List.mem_cons.mp hc with rfl | hc
      · exact hlt
      · exact Nat.lt_trans hlt (ha c hc)
    · split
      · rename_i _ he
        subst he
        exact (SMap.wf_cons_iff _ _ _).mpr ⟨ha, ht⟩
      · exact (SMap.wf_cons_iff _ _ _).mpr ⟨SMap.above_set k t i v ha (by omega), ih ht⟩

theorem SMap.mem_erase (m : SMap α) (i : Nat) (c : Nat × α) (h : c ∈ SMap.erase m i) : c ∈ m := by
  induction m with
  | nil => simp [SMap.erase] at h
  | cons d t ih =>
    obtain ⟨k, u⟩ := d
    simp only [SMap.erase] at h
    split at h
    · exact List.mem_cons_of_mem _ h
    · rcases List.mem_cons.mp h with rfl | h
      · simp
      · exact List.mem_cons_of_mem _ (ih h)

theorem SMap.wf_erase (m : SMap α) (i : Nat) (h : SMap.wf m = true) : SMap.wf (SMap.erase m i) = true := by
  induction m with
  | nil => rfl
  | cons c t ih =>
    obtain ⟨k, u⟩ := c
    obtain ⟨ha, ht⟩ := (SMap.wf_cons_iff k u t).mp h
    simp only [SMap.erase]
    split
    · exact ht
    · exact (SMap.wf_cons_iff _ _ _).mpr ⟨fun c hc => ha c (SMap.mem_erase t i c hc), ih ht⟩

theorem SMap.wf_filter (m : SMap α) (p : Nat × α → Bool) (h : SMap.wf m = true) : SMap.wf (m.filter p) = true := by
  induction m with
  | nil => rfl
  | cons c t ih =>
    obtain ⟨k, u⟩ := c
    obtain ⟨ha, ht⟩ := (SMap.wf_cons_iff k u t).mp h
    simp only [List.filter]
    split
    · exact (SMap.wf_cons_iff _ _ _).mpr ⟨fun c hc => ha c (List.mem_filter.mp hc).1, ih ht⟩
    · exact ih ht

theorem SMap.find?_above (b : Nat) (m : SMap α) (i : Nat) (h : SMap.above b m) (hi : i ≤ b) : SMap.find? m i = none := by
  induction m with
  | nil => rfl
  | cons c t ih =>
    obtain ⟨k, u⟩ := c
    have hk : b < k := h (k, u) (by simp)
    have : k ≠ i := by omega
    simp [SMap.find?, this]
    exact ih (fun c hc => h c (by simp [hc]))

theorem SMap.find?_erase_same (m : SMap α) (i : Nat) (h : SMap.wf m = true) : SMap.find? (SMap.erase m i) i = none := by
  induction m with
  | nil => rfl
  | cons c t ih =>
    obtain ⟨k, u⟩ := c
    obtain ⟨ha, ht⟩ := (SMap.wf_cons_iff k u t).mp h
    simp only [SMap.erase]
    split
    · rename_i he
      exact SMap.find?_above k t i ha (by omega)
    · rename_i he
      simp [SMap.find?, he, ih ht]

theorem SMap.find?_erase_ne (m : SMap α) (i j : Nat) (h : j ≠ i) : SMap.find? (SMap.erase m i) j = SMap.find? m j := by
  induction m with
  | nil => rfl
  | cons c t ih =>
    obtain ⟨k, u⟩ := c
    simp only [SMap.erase]
    split
    · rename_i he
      have : k ≠ j := by omega
      simp [SMap.find?, this]
    · by_cases hk : k = j <;> simp [SMap.find?, hk, ih]

/-! ### Byte memories -/

/-- Every address of a memory lies above a bound. -/
def Memory.above (b : Nat) (m : Memory) : Prop := ∀ c ∈ m, b < c.1

theorem Memory.wf_cons_iff (a : Nat) (b : Byte) (t : Memory) :
    Memory.wf ((a, b) :: t) = true ↔ b ≠ 0 ∧ Memory.above a t ∧ Memory.wf t = true := by
  induction t generalizing a b with
  | nil => simp [Memory.wf, Memory.above]
  | cons c t ih =>
    obtain ⟨a', b'⟩ := c
    have e : Memory.wf ((a, b) :: (a', b') :: t) = (b != 0 && decide (a < a') && Memory.wf ((a', b') :: t)) := rfl
    rw [e, Bool.and_eq_true, Bool.and_eq_true, decide_eq_true_eq, bne_iff_ne, ih a' b']
    constructor
    · rintro ⟨⟨h0, h⟩, h1, h2, h3⟩
      refine ⟨h0, ?_, h1, h2, h3⟩
      intro c hc
      rcases List.mem_cons.mp hc with rfl | hc
      · exact h
      · exact Nat.lt_trans h (h2 c hc)
    · rintro ⟨h0, h, h2⟩
      exact ⟨⟨h0, h (a', b') (by simp)⟩, h2⟩

theorem Memory.mem_drop (m : Memory) (i : Nat) (c : Host.Cell) (h : c ∈ Memory.drop m i) : c ∈ m := by
  induction m with
  | nil => simp [Memory.drop] at h
  | cons d t ih =>
    obtain ⟨k, u⟩ := d
    simp only [Memory.drop] at h
    split at h
    · exact List.mem_cons_of_mem _ h
    · rcases List.mem_cons.mp h with rfl | h
      · simp
      · exact List.mem_cons_of_mem _ (ih h)

theorem Memory.wf_drop (m : Memory) (i : Nat) (h : Memory.wf m = true) : Memory.wf (Memory.drop m i) = true := by
  induction m with
  | nil => rfl
  | cons c t ih =>
    obtain ⟨k, u⟩ := c
    obtain ⟨h0, ha, ht⟩ := (Memory.wf_cons_iff k u t).mp h
    simp only [Memory.drop]
    split
    · exact ht
    · exact (Memory.wf_cons_iff _ _ _).mpr ⟨h0, fun c hc => ha c (Memory.mem_drop t i c hc), ih ht⟩

theorem Memory.above_insert (b : Nat) (m : Memory) (i : Nat) (v : Byte) (hm : Memory.above b m) (hi : b < i) :
    Memory.above b (Memory.insert m i v) := by
  induction m with
  | nil => intro c hc; simp [Memory.insert] at hc; subst hc; exact hi
  | cons c t ih =>
    obtain ⟨k, u⟩ := c
    have ht : Memory.above b t := fun c hc => hm c (by simp [hc])
    simp only [Memory.insert]
    split
    · intro c hc
      rcases List.mem_cons.mp hc with rfl | hc
      · exact hi
      · exact hm c hc
    · split
      · intro c hc
        rcases List.mem_cons.mp hc with rfl | hc
        · exact hi
        · exact ht c hc
      · intro c hc
        rcases List.mem_cons.mp hc with rfl | hc
        · exact hm (k, u) (by simp)
        · exact ih ht c hc

theorem Memory.wf_insert (m : Memory) (i : Nat) (v : Byte) (hv : v ≠ 0) (h : Memory.wf m = true) :
    Memory.wf (Memory.insert m i v) = true := by
  induction m with
  | nil => exact bne_iff_ne.mpr hv
  | cons c t ih =>
    obtain ⟨k, u⟩ := c
    obtain ⟨h0, ha, ht⟩ := (Memory.wf_cons_iff k u t).mp h
    simp only [Memory.insert]
    split
    · rename_i hlt
      refine (Memory.wf_cons_iff _ _ _).mpr ⟨hv, ?_, h⟩
      intro c hc
      rcases List.mem_cons.mp hc with rfl | hc
      · exact hlt
      · exact Nat.lt_trans hlt (ha c hc)
    · split
      · rename_i _ he
        subst he
        exact (Memory.wf_cons_iff _ _ _).mpr ⟨hv, ha, ht⟩
      · exact (Memory.wf_cons_iff _ _ _).mpr ⟨h0, Memory.above_insert k t i v ha (by omega), ih ht⟩

theorem Memory.wf_write (m : Memory) (i : Nat) (v : Byte) (h : Memory.wf m = true) : Memory.wf (Memory.write m i v) = true := by
  unfold Memory.write
  split
  · exact Memory.wf_drop m i h
  · rename_i hv
    exact Memory.wf_insert m i v hv h

theorem Memory.wf_writeN (b : Bytes) : ∀ (m : Memory) (a : Nat), Memory.wf m = true → Memory.wf (Memory.writeN m a b) = true := by
  induction b with
  | nil => intro m a h; exact h
  | cons x t ih => intro m a h; exact ih _ _ (Memory.wf_write m a x h)

theorem Memory.wf_filter (m : Memory) (p : Host.Cell → Bool) (h : Memory.wf m = true) : Memory.wf (m.filter p) = true := by
  induction m with
  | nil => rfl
  | cons c t ih =>
    obtain ⟨k, u⟩ := c
    obtain ⟨h0, ha, ht⟩ := (Memory.wf_cons_iff k u t).mp h
    simp only [List.filter]
    split
    · exact (Memory.wf_cons_iff _ _ _).mpr ⟨h0, fun c hc => ha c (List.mem_filter.mp hc).1, ih ht⟩
    · exact ih ht

theorem Memory.wf_zero (m : Memory) (a n : Nat) (h : Memory.wf m = true) : Memory.wf (Memory.zero m a n) = true :=
  Memory.wf_filter m _ h

theorem Memory.read_above (b : Nat) (m : Memory) (i : Nat) (h : Memory.above b m) (hi : i ≤ b) : Memory.read m i = 0 := by
  induction m with
  | nil => rfl
  | cons c t ih =>
    obtain ⟨k, u⟩ := c
    have hk : b < k := h (k, u) (by simp)
    have : k ≠ i := by omega
    simp only [Memory.read, this, if_false]
    exact ih (fun c hc => h c (by simp [hc]))

theorem Memory.read_insert_same (m : Memory) (i : Nat) (v : Byte) : Memory.read (Memory.insert m i v) i = v := by
  induction m with
  | nil => simp [Memory.insert, Memory.read]
  | cons c t ih =>
    obtain ⟨k, u⟩ := c
    simp only [Memory.insert]
    split
    · simp [Memory.read]
    · split
      · simp [Memory.read]
      · have : k ≠ i := by omega
        simp [Memory.read, this, ih]

theorem Memory.read_insert_ne (m : Memory) (i j : Nat) (v : Byte) (h : j ≠ i) : Memory.read (Memory.insert m i v) j = Memory.read m j := by
  have hij : i ≠ j := fun x => h x.symm
  induction m with
  | nil => simp [Memory.insert, Memory.read, hij]
  | cons c t ih =>
    obtain ⟨k, u⟩ := c
    simp only [Memory.insert]
    split
    · simp [Memory.read, hij]
    · split
      · subst_vars; simp [Memory.read, hij]
      · by_cases hk : k = j <;> simp [Memory.read, hk, ih]

theorem Memory.read_drop_same (m : Memory) (i : Nat) (h : Memory.wf m = true) : Memory.read (Memory.drop m i) i = 0 := by
  induction m with
  | nil => rfl
  | cons c t ih =>
    obtain ⟨k, u⟩ := c
    obtain ⟨_, ha, ht⟩ := (Memory.wf_cons_iff k u t).mp h
    simp only [Memory.drop]
    split
    · exact Memory.read_above k t i ha (by omega)
    · rename_i he
      simp [Memory.read, he, ih ht]

theorem Memory.read_drop_ne (m : Memory) (i j : Nat) (h : j ≠ i) : Memory.read (Memory.drop m i) j = Memory.read m j := by
  induction m with
  | nil => rfl
  | cons c t ih =>
    obtain ⟨k, u⟩ := c
    simp only [Memory.drop]
    split
    · have : k ≠ j := by omega
      simp [Memory.read, this]
    · by_cases hk : k = j <;> simp [Memory.read, hk, ih]

/-- A read after a write of the same byte gives what was written. -/
theorem Memory.read_write_same (m : Memory) (i : Nat) (v : Byte) (h : Memory.wf m = true) : Memory.read (Memory.write m i v) i = v := by
  unfold Memory.write
  split
  · rename_i hv
    rw [hv]; exact Memory.read_drop_same m i h
  · exact Memory.read_insert_same m i v

/-- A write leaves every other byte alone. -/
theorem Memory.read_write_ne (m : Memory) (i j : Nat) (v : Byte) (h : j ≠ i) : Memory.read (Memory.write m i v) j = Memory.read m j := by
  unfold Memory.write
  split
  · exact Memory.read_drop_ne m i j h
  · exact Memory.read_insert_ne m i j v h

/-- A byte string written leaves every byte outside it alone. -/
theorem Memory.read_writeN_out (b : Bytes) : ∀ (m : Memory) (a j : Nat), (j < a ∨ a + b.length ≤ j) →
    Memory.read (Memory.writeN m a b) j = Memory.read m j := by
  induction b with
  | nil => intro m a j _; rfl
  | cons x t ih =>
    intro m a j h
    simp only [List.length_cons] at h
    show Memory.read (Memory.writeN (Memory.write m a x) (a + 1) t) j = _
    rw [ih _ _ _ (by omega), Memory.read_write_ne _ _ _ _ (by omega)]

end Sys2Proof.Machine
end

