-- ==== Sys2Proof/Laws/Slots.lean ====
section
/-! SUPPORT. What issuing a slot operation can do, and what store and register updates read back as. -/

namespace Sys2Proof.Machine

/-- A field of a slot word as the machine reads it is the field of the manual. -/
theorem fld_eq_slotField (w : W64) (lo len : Nat) : fld w lo len = slotField w lo len := by
  simp [fld, bits, slotField, BitVec.extractLsb'_toNat, Nat.shiftRight_eq_div_pow]

@[simp] theorem engine_setEngine_same (s : State) (e : Nat) (x : Engine) : (s.setEngine e x).engine e = x := by
  simp [State.engine, State.setEngine]

theorem engine_setEngine_ne (s : State) (e d : Nat) (x : Engine) (h : d ≠ e) : (s.setEngine e x).engine d = s.engine d := by
  simp [State.engine, State.setEngine, SMap.get_set_ne _ _ _ _ _ h]

@[simp] theorem item_setItem_same (s : State) (i : Nat) (x : WorkItem) : (s.setItem i x).item i = x := by
  simp [State.item, State.setItem]

theorem item_setItem_ne (s : State) (i j : Nat) (x : WorkItem) (h : j ≠ i) : (s.setItem i x).item j = s.item j := by
  simp [State.item, State.setItem, SMap.get_set_ne _ _ _ _ _ h]

@[simp] theorem chan_setChan_same (s : State) (i : Nat) (x : Chan) : (s.setChan i x).chan i = x := by
  simp [State.chan, State.setChan]

/-- A register written reads back what was written, in a register file of canonical form. -/
theorem reg_setReg_same (s : State) (o : Nat) (v : W64) (h : SMap.wf s.regs = true) : (s.setReg o v).reg o = v := by
  unfold State.setReg State.reg
  split
  · rename_i hv
    simp [SMap.get, SMap.find?_erase_same _ _ h, hv]
  · simp [SMap.get]

/-- A register write leaves the others alone. -/
theorem reg_setReg_ne (s : State) (o p : Nat) (v : W64) (h : p ≠ o) : (s.setReg o v).reg p = s.reg p := by
  unfold State.setReg State.reg
  split
  · simp [SMap.get, SMap.find?_erase_ne _ _ _ h]
  · simp [SMap.get, SMap.find?_set_ne _ _ _ _ h]

theorem canonical_setReg (s : State) (o : Nat) (v : W64) (h : s.canonical) : (s.setReg o v).canonical := by
  refine ⟨h.1, ?_⟩
  unfold State.setReg
  dsimp only
  split
  · exact SMap.wf_erase _ _ h.2
  · exact SMap.wf_set _ _ _ h.2

/-- A word that a slot lists as an operation is what its own meaning says. -/
theorem slotWord_listed (k : Nat) (w : W64) (f : State → Engine → Except Nat Engine) (s : State) (en : Engine)
    (h1 : opListed k (slotField w 0 6) = true) (h2 : slotField w 0 6 ≠ 0) : slotWord k w f s en = f s en := by
  rw [← fld_eq_slotField] at h1 h2
  simp only [slotWord, h1, h2, Bool.not_true, Bool.false_eq_true, if_false]

/-- An engine that takes a word of a slot has nothing of that slot or a later one in its open bundle. -/
theorem slotFree_issued {s : State} {e k : Nat} (h : s.slotFree e k) : (s.engine e).issued.any (fun j => decide (k ≤ slotOf j)) = false := by
  rw [List.any_eq_false]
  intro j hj
  have := h.2.1 j hj
  simp; omega

/-- What issuing a word does where the engine takes it. -/
theorem issueSlot_free (s : State) (e : Nat) (i : Instr) (w : W64) (f : State → Engine → Except Nat Engine) (k : Nat) (hk : slotOf i = k)
    (h : s.slotFree e k) : s.issueSlot e i w f = match slotWord k w f s (s.engine e) with
      | .error n => s.progFault e n
      | .ok x => s.issuedAs e i x := by
  subst hk
  unfold State.issueSlot State.issuedAs
  simp only [h.1, slotFree_issued h, Bool.not_true, Bool.or_self, Bool.false_eq_true, if_false, Nat.not_le.mpr h.2.2] <;>
    cases slotWord (slotOf i) w f s (s.engine e) <;> rfl

/-- Where a slot operation is taken and its own checks pass, its engine becomes what the operation makes of it. -/
theorem issueSlot_ok (s : State) (e : Nat) (i : Instr) (w : W64) (f : State → Engine → Except Nat Engine) (x : Engine)
    (k : Nat) (hk : slotOf i = k) (h : s.slotOpen e k w) (hf : f s (s.engine e) = .ok x) : s.issueSlot e i w f = s.issuedAs e i x := by
  rw [issueSlot_free s e i w f k hk h.1, slotWord_listed k w f s _ h.2.1 h.2.2, hf]

/-- Where its own checks fail, the program faults with their kind (R154). -/
theorem issueSlot_error (s : State) (e : Nat) (i : Instr) (w : W64) (f : State → Engine → Except Nat Engine) (n : Nat)
    (k : Nat) (hk : slotOf i = k) (h : s.slotOpen e k w) (hf : f s (s.engine e) = .error n) : s.issueSlot e i w f = s.progFault e n := by
  rw [issueSlot_free s e i w f k hk h.1, slotWord_listed k w f s _ h.2.1 h.2.2, hf]

/-! ### Stores -/

theorem wf_putBytes (b : List (Nat × Byte)) : ∀ m : Memory, Memory.wf m = true → Memory.wf (putBytes m b) = true := by
  induction b with
  | nil => intro m h; exact h
  | cons c t ih =>
    obtain ⟨a, x⟩ := c
    intro m h
    exact ih _ (Memory.wf_write m a x h)

/-- Meeting the errors of a write keeps a store's bytes in canonical form. -/
theorem wf_meetWrite (id : StoreId) (free : Nat) (bs : List (Nat × Byte)) (l : List (Nat × Nat)) :
    ∀ r : Store × Nat × Nat, Memory.wf r.1.data = true → Memory.wf (Store.meetWrite id free bs l r).1.data = true := by
  induction l with
  | nil => intro r h; exact h
  | cons c t ih =>
    obtain ⟨k, mask⟩ := c
    rintro ⟨st, ce, ue⟩ h
    simp only [Store.meetWrite]
    apply ih
    split
    · exact h
    · split
      · exact h
      · split
        · exact h
        · split
          · exact Memory.wf_writeN _ _ _ h
          · exact Memory.wf_writeN _ _ _ h

theorem foldl_keeps_data (f : Store → Nat → Store) (hf : ∀ x r, (f x r).data = x.data) (l : List Nat) :
    ∀ x : Store, (l.foldl f x).data = x.data := by
  induction l with
  | nil => intro x; rfl
  | cons a t ih => intro x; rw [List.foldl_cons, ih, hf]

/-- A write to a store keeps its bytes in canonical form. -/
theorem wf_storeWrite (st : Store) (free : Nat) (w : StoreW) (h : Memory.wf st.data = true) :
    Memory.wf (Store.write st free w).store.data = true := by
  unfold Store.write
  dsimp only
  split
  · exact h
  · dsimp only
    refine Eq.trans (congrArg Memory.wf (foldl_keeps_data _ ?_ _ _)) ?_
    · intro x r; rfl
    · exact wf_putBytes _ _ (wf_meetWrite w.store free w.bytes st.errs (st, 0, 0) h)

/-- Meeting the errors of an accumulate-on-write keeps a store's bytes in canonical form. -/
theorem wf_meetAcw (free row : Nat) (touched : Nat → Bool) (l : List (Nat × Nat)) :
    ∀ r : Store × Nat × Nat, Memory.wf r.1.data = true → Memory.wf (Store.meetAcw free row touched l r).1.data = true := by
  induction l with
  | nil => intro r h; exact h
  | cons c t ih =>
    obtain ⟨k, mask⟩ := c
    rintro ⟨st, ce, ue⟩ h
    simp only [Store.meetAcw]
    split
    · exact ih _ h
    · apply ih
      split
      · exact h
      · split <;> exact Memory.wf_writeN _ _ _ h

/-- An accumulate-on-write keeps a store's bytes in canonical form. -/
theorem wf_storeAcw (st : Store) (free row : Nat) (w64 sat : Bool) (vals : List (Nat × Int)) (mark : Nat)
    (h : Memory.wf st.data = true) : Memory.wf (Store.acw st free row w64 sat vals mark).store.data = true := by
  unfold Store.acw
  by_cases ht : st.tag row ≠ (if w64 then fI64 else fI32)
  · rw [if_pos ht]; exact h
  · rw [if_neg ht]
    exact wf_putBytes _ _ (wf_meetAcw free row _ st.errs (st, 0, 0) h)

end Sys2Proof.Machine
end

