-- ==== Sys2Proof/Laws/Ops.lean ====
section
/-! SUPPORT. What the shared operations can do, said once each: what raising an event may change, what stopping a work item leaves alone, and
that every operation on events, host traffic, memory and engines keeps the canonical form. -/

namespace Sys2Proof.Machine

/-! ### Events and host traffic -/

/-- `t` is `s` but for what carries events and host traffic: rings, held events, counters, tags and reads, messages and outputs, interrupt
vectors, the note for management, and the time of host traffic. -/
def State.eventOnly (s t : State) : Prop :=
  t = { s with rings := t.rings, evHeld := t.evHeld, evLost := t.evLost, regs := t.regs, nextTag := t.nextTag, reads := t.reads, outbox := t.outbox, out := t.out,
               vecs := t.vecs, supply := t.supply, lastHost := t.lastHost, l1 := t.l1 }

theorem eventOnly_refl (s : State) : s.eventOnly s := rfl
theorem eventOnly_trans {s t u : State} (h : s.eventOnly t) (k : t.eventOnly u) : s.eventOnly u := by
  unfold State.eventOnly at *
  rw [k]
  generalize u.rings = a; generalize u.evHeld = b; generalize u.evLost = c; generalize u.regs = d; generalize u.nextTag = e; generalize u.reads = f
  generalize u.outbox = g; generalize u.out = i; generalize u.vecs = j; generalize u.supply = l; generalize u.lastHost = m; generalize u.l1 = n
  rw [h]
theorem eventOnly_foldl {α : Type} (f : State → α → State) (hf : ∀ (s : State) a, s.eventOnly (f s a)) (l : List α) : ∀ s : State, s.eventOnly (l.foldl f s) := by
  induction l with
  | nil => exact eventOnly_refl
  | cons a t ih => exact fun s => eventOnly_trans (hf s a) (ih _)

theorem emit_eventOnly (s : State) (o : Out) : s.eventOnly (s.emit o) := rfl
theorem send_eventOnly (s : State) (m : Msg) : s.eventOnly (s.send m) := rfl
theorem setReg_eventOnly (s : State) (o : Nat) (v : W64) : s.eventOnly (s.setReg o v) := rfl
theorem count_eventOnly (s : State) (o n : Nat) : s.eventOnly (s.count o n) := rfl

theorem hostWr_eventOnly (s : State) (flow tc ten : Nat) (st : Bool) (who : Option ReadWho) (iova : Nat) (b : Bytes) :
    s.eventOnly (s.hostWr flow tc ten st who iova b) := by
  unfold State.hostWr
  split
  · rfl
  · exact eventOnly_foldl _ (fun s a => by rcases a with ⟨c, i⟩; rfl) _ s

theorem hostRd1_eventOnly (s : State) (flow tc ten : Nat) (who : ReadWho) (iova n off : Nat) : s.eventOnly (s.hostRd1 flow tc ten who iova n off) := by
  unfold State.hostRd1
  dsimp only
  repeat' split
  all_goals rfl

theorem hostRd_eventOnly (s : State) (flow tc ten : Nat) (who : ReadWho) (iova n : Nat) : s.eventOnly (s.hostRd flow tc ten who iova n) := by
  unfold State.hostRd
  split
  · exact hostRd1_eventOnly ..
  · exact eventOnly_foldl _ (fun s a => hostRd1_eventOnly ..) _ s

theorem signal_eventOnly (s : State) (flow : Nat) (v : Option Nat) : s.eventOnly (s.signal flow v) := by
  unfold State.signal; repeat' split
  all_goals rfl

theorem toRing_eventOnly (s : State) (key : Nat) (e : Ev) : s.eventOnly (s.toRing key e) := by
  unfold State.toRing
  split
  · rfl
  · split
    · exact eventOnly_trans (t := { s with rings := _ }) rfl (count_eventOnly ..)
    · rename_i r _ _
      exact eventOnly_trans (t := { s with rings := SMap.set s.rings key { r with pi := (r.pi + 1) % 2 ^ 32, lost := false } }) rfl
        (eventOnly_trans (hostWr_eventOnly ..) (signal_eventOnly ..))

theorem toDevice_eventOnly (s : State) (e : Ev) : s.eventOnly (s.toDevice e) := by
  unfold State.toDevice
  split
  · exact toRing_eventOnly ..
  · split
    · rfl
    · exact eventOnly_trans (t := { s with evLost := true }) rfl (count_eventOnly ..)

theorem toTenant_eventOnly (s : State) (n : Nat) (e : Ev) : s.eventOnly (s.toTenant n e) := by
  unfold State.toTenant
  dsimp only
  split
  · exact eventOnly_trans (toRing_eventOnly ..) (toDevice_eventOnly ..)
  · exact toRing_eventOnly ..

/-- Raising an event changes nothing but what carries events. -/
theorem raise_eventOnly (s : State) (code handle : Nat) (ten : Option Nat) (det : List (Nat × Nat)) : s.eventOnly (s.raise code handle ten det) := by
  have h0 : s.eventOnly (if code / 256 = 0x60 then { s with supply := { s.supply with pwrEvent := s.supply.pwrEvent || code != 0x6001, lastEvent := code } } else s) := by
    split <;> rfl
  unfold State.raise
  dsimp only
  split
  · exact eventOnly_trans h0 (toDevice_eventOnly ..)
  · exact eventOnly_trans h0 (eventOnly_trans (toDevice_eventOnly ..) (toTenant_eventOnly ..))

theorem raiseAll_eventOnly (s : State) (code : Nat) (det : List (Nat × Nat)) : s.eventOnly (s.raiseAll code det) := by
  unfold State.raiseAll
  exact eventOnly_trans (toDevice_eventOnly ..) (eventOnly_foldl _ (fun s a => toTenant_eventOnly ..) _ _)

/-- What carries events holds no data of tenants. -/
theorem eventOnly_keepsData {s t : State} (h : s.eventOnly t) : s.keepsData t := by
  rw [h]; exact ⟨rfl, rfl, rfl, rfl, rfl⟩
theorem eventOnly_eng {s t : State} (h : s.eventOnly t) : t.eng = s.eng := by rw [h]
theorem eventOnly_items {s t : State} (h : s.eventOnly t) : t.items = s.items := by rw [h]
theorem eventOnly_chans {s t : State} (h : s.eventOnly t) : t.chans = s.chans := by rw [h]
theorem eventOnly_pending {s t : State} (h : s.eventOnly t) : t.pending = s.pending := by rw [h]
theorem eventOnly_now {s t : State} (h : s.eventOnly t) : t.now = s.now := by rw [h]

theorem foldl_same {α β : Type} (p : State → β) (f : State → α → State) (hf : ∀ (s : State) a, p (f s a) = p s) (l : List α) : ∀ s : State, p (l.foldl f s) = p s := by
  induction l with
  | nil => exact fun _ => rfl
  | cons a t ih => exact fun s => (ih _).trans (hf s a)

/-- With no device ring and room for one more, raising an event holds it, first (R467, R605). -/
theorem raise_told (s : State) (code handle : Nat) (ten : Option Nat) (det : List (Nat × Nat)) (h : s.holdsEvents) :
    s.evHeld ++ [⟨code, handle, ten, s.pav, detailBytes det []⟩] <+: (s.raise code handle ten det).evHeld := by
  have hr : ∀ (s : State) (n : Nat) (e : Ev), (s.toRing n e).evHeld = s.evHeld := by
    intro s n e
    have hw : ∀ (s : State) a b c d w i x, (s.hostWr a b c d w i x).evHeld = s.evHeld := by
      intro s a b c d w i x
      unfold State.hostWr
      split
      · rfl
      · exact foldl_same State.evHeld _ (fun s a => by rcases a with ⟨c, i⟩; rfl) _ s
    have hs : ∀ (s : State) f v, (s.signal f v).evHeld = s.evHeld := by
      intro s f v; unfold State.signal; repeat' split
      all_goals rfl
    have hc : ∀ (s : State) o k, (s.count o k).evHeld = s.evHeld := fun _ _ _ => rfl
    unfold State.toRing
    split
    · rfl
    · split
      · exact (hc _ _ _).trans rfl
      · exact ((hs _ _ _).trans (hw _ _ _ _ _ _ _ _)).trans rfl
  have hd : ∀ (s : State) (e : Ev), s.evHeld <+: (s.toDevice e).evHeld := by
    intro s e
    have hc : ∀ (s : State) o k, (s.count o k).evHeld = s.evHeld := fun _ _ _ => rfl
    unfold State.toDevice
    repeat' split
    · exact (hr ..).symm ▸ List.prefix_rfl
    · exact List.prefix_append ..
    · exact List.prefix_rfl
  have ht : ∀ (s : State) n (e : Ev), s.evHeld <+: (s.toTenant n e).evHeld := by
    intro s n e
    unfold State.toTenant
    dsimp only
    split
    · exact (hr s n e ▸ hd _ _)
    · exact (hr ..).symm ▸ List.prefix_rfl
  obtain ⟨h1, h2⟩ := h
  have key : ∀ s0 : State, s0.rings = s.rings → s0.evHeld = s.evHeld → ∀ e, (s0.toDevice e).evHeld = s.evHeld ++ [e] := by
    intro s0 a b e
    unfold State.toDevice
    simp [a, b, h1, h2]
  have main : ∀ s0 : State, s0.rings = s.rings → s0.evHeld = s.evHeld → ∀ e : Ev, s.evHeld ++ [e] <+:
      (match ten with | none => s0.toDevice e | some n => (s0.toDevice e).toTenant n e).evHeld := by
    intro s0 a b e
    rw [← key s0 a b e]
    split
    · exact List.prefix_rfl
    · exact ht _ _ _
  exact main _ (by split <;> rfl) (by split <;> rfl) _

/-! ### Work items -/

/-- Noting a status changes only the work item. -/
theorem addStatus_only (s : State) (it st ev : Nat) : ∃ m, s.addStatus it st ev = { s with items := m } := by
  unfold State.addStatus
  repeat' split
  all_goals exact ⟨_, rfl⟩

/-- Stopping a work item changes only the work item. -/
theorem stopItem_only (s : State) (it st ev : Nat) : ∃ m, s.stopItem it st ev = { s with items := m } := by
  obtain ⟨m, hm⟩ := addStatus_only s it st ev
  unfold State.stopItem
  rw [hm]
  dsimp only
  repeat' split
  all_goals exact ⟨_, rfl⟩

/-- A work item that still can be stopped is stopped with the status added. -/
theorem stopItem_stopping (s : State) (it st ev : Nat) (hs : st ≠ stOK) (h : s.alive it) : s.stopping (s.stopItem it st ev) it st ev := by
  obtain ⟨w, hw, h1, h2⟩ := h
  have hi : s.item it = w := by simp [State.item, SMap.get, hw]
  have ha : s.addStatus it st ev = s.setItem it { w with statuses := w.statuses ++ [(st, ev)] } := by simp [State.addStatus, hs, hw]
  have hf : SMap.find? (s.setItem it { w with statuses := w.statuses ++ [(st, ev)] }).items it = some { w with statuses := w.statuses ++ [(st, ev)] } := by
    simp [State.setItem]
  have hq : s.stopItem it st ev = (s.setItem it { w with statuses := w.statuses ++ [(st, ev)] }).setItem it
      { w with statuses := w.statuses ++ [(st, ev)], phase := .stopping, stopped := true } := by
    unfold State.stopItem
    simp only [ha, hf, h1, h2, or_self, if_false]
  rw [hq]
  simp [State.stopping, hi]

/-! ### Canonical form -/

theorem canonical_same {s t : State} (h : s.canonical) (hm : t.mem.data = s.mem.data) (hr : t.regs = s.regs) : t.canonical :=
  ⟨by rw [hm]; exact h.1, by rw [hr]; exact h.2⟩
theorem canonical_foldl {α : Type} (f : State → α → State) (hf : ∀ (s : State) a, s.canonical → (f s a).canonical) (l : List α) :
    ∀ s : State, s.canonical → (l.foldl f s).canonical := by
  induction l with
  | nil => exact fun _ h => h
  | cons a t ih => exact fun s h => ih _ (hf s a h)
theorem canonical_setField {s : State} (h : s.canonical) (o lo n x : Nat) : (s.setField o lo n x).canonical := canonical_setReg _ _ _ h
theorem canonical_count {s : State} (h : s.canonical) (o n : Nat) : (s.count o n).canonical :=
  canonical_setReg _ _ _ h
theorem canonical_items {s t : State} (h : s.canonical) (ht : ∃ m, t = { s with items := m }) : t.canonical := by
  obtain ⟨m, rfl⟩ := ht; exact canonical_same h rfl rfl
theorem canonical_addStatus {s : State} (h : s.canonical) (it st ev : Nat) : (s.addStatus it st ev).canonical := canonical_items h (addStatus_only ..)
theorem canonical_stopItem {s : State} (h : s.canonical) (it st ev : Nat) : (s.stopItem it st ev).canonical := canonical_items h (stopItem_only ..)

theorem canonical_hostWr {s : State} (h : s.canonical) (flow tc ten : Nat) (st : Bool) (who : Option ReadWho) (iova : Nat) (b : Bytes) :
    (s.hostWr flow tc ten st who iova b).canonical := by
  unfold State.hostWr
  split
  · exact h
  · exact canonical_foldl _ (fun s a hs => by rcases a with ⟨c, i⟩; exact hs) _ s h
theorem canonical_hostRd1 {s : State} (h : s.canonical) (flow tc ten : Nat) (who : ReadWho) (iova n off : Nat) : (s.hostRd1 flow tc ten who iova n off).canonical := by
  unfold State.hostRd1
  dsimp only
  repeat' split
  all_goals exact h
theorem canonical_hostRd {s : State} (h : s.canonical) (flow tc ten : Nat) (who : ReadWho) (iova n : Nat) : (s.hostRd flow tc ten who iova n).canonical := by
  unfold State.hostRd
  split
  · exact canonical_hostRd1 h ..
  · exact canonical_foldl _ (fun s a hs => canonical_hostRd1 hs ..) _ s h
theorem canonical_signal {s : State} (h : s.canonical) (flow : Nat) (v : Option Nat) : (s.signal flow v).canonical := by
  unfold State.signal; repeat' split
  all_goals exact h
theorem canonical_toRing {s : State} (h : s.canonical) (key : Nat) (e : Ev) : (s.toRing key e).canonical := by
  unfold State.toRing
  split
  · exact h
  · split
    · refine canonical_count ?_ ..
      exact canonical_same h rfl rfl
    · refine canonical_signal (canonical_hostWr ?_ ..) ..
      exact canonical_same h rfl rfl
theorem canonical_toDevice {s : State} (h : s.canonical) (e : Ev) : (s.toDevice e).canonical := by
  unfold State.toDevice
  split
  · exact canonical_toRing h ..
  · split
    · exact h
    · refine canonical_count ?_ ..
      exact canonical_same h rfl rfl
theorem canonical_toTenant {s : State} (h : s.canonical) (n : Nat) (e : Ev) : (s.toTenant n e).canonical := by
  unfold State.toTenant
  dsimp only
  split
  · exact canonical_toDevice (canonical_toRing h ..) ..
  · exact canonical_toRing h ..
theorem canonical_raise {s : State} (h : s.canonical) (code handle : Nat) (ten : Option Nat) (det : List (Nat × Nat)) : (s.raise code handle ten det).canonical := by
  have h0 : (if code / 256 = 0x60 then { s with supply := { s.supply with pwrEvent := s.supply.pwrEvent || code != 0x6001, lastEvent := code } } else s : State).canonical := by
    split <;> exact h
  unfold State.raise
  dsimp only
  split
  · exact canonical_toDevice h0 _
  · exact canonical_toTenant (canonical_toDevice h0 _) ..
theorem canonical_raiseAll {s : State} (h : s.canonical) (code : Nat) (det : List (Nat × Nat)) : (s.raiseAll code det).canonical := by
  unfold State.raiseAll
  exact canonical_foldl _ (fun s a hs => canonical_toTenant hs ..) _ _ (canonical_toDevice h _)

/-! ### Module memory -/

theorem canonical_request {s : State} (h : s.canonical) (st : Nat) : (s.request st).canonical := canonical_setField (canonical_same h rfl rfl) ..
theorem canonical_quarantine {s : State} (h : s.canonical) (line : Nat) : (s.quarantine line).canonical := by
  unfold State.quarantine
  dsimp only
  split
  · split
    · refine canonical_raiseAll (canonical_count ?_ ..) ..
      exact canonical_same h rfl rfl
    · exact h
  · exact h
theorem canonical_setLine {s : State} (h : s.canonical) (line : Nat) (b : Bytes) (m : Nat) : (s.setLine line b m).canonical :=
  ⟨Memory.wf_writeN _ _ _ h.1, h.2⟩
theorem canonical_tlm {s : State} (h : s.canonical) (o n : Nat) : (s.tlm o n).canonical := h
theorem canonical_fresh {s : State} (h : s.canonical) : s.fresh.2.canonical := h
theorem canonical_bankUse {s : State} (h : s.canonical) (a : Nat) : (s.bankUse a).canonical := by
  unfold State.bankUse
  dsimp only
  repeat' split
  all_goals first | exact canonical_same h rfl rfl | exact canonical_count (canonical_same h rfl rfl) ..
theorem canonical_caStep {s : State} (h : s.canonical) (m : Nat) : (s.caStep m).2.canonical := by
  have h1 : (if SMap.get s.mem.caErr m 0 = 0 then s else { s with mem := { s.mem with caErr := SMap.erase s.mem.caErr m } } : State).canonical := by
    split <;> exact h
  unfold State.caStep
  dsimp only
  split
  · exact canonical_same h1 rfl rfl
  · exact h1
theorem canonical_queueWrites {s : State} (h : s.canonical) (st c n : Nat) : (s.queueWrites st c n).canonical := by
  unfold State.queueWrites
  exact canonical_count (canonical_same h rfl rfl) ..
theorem canonical_lineStore {s : State} (h : s.canonical) (line : Nat) (b : Bytes) (m : Nat) : (s.lineStore line b m).canonical :=
  canonical_queueWrites (canonical_setLine (canonical_tlm (canonical_bankUse (canonical_request h _) _) ..) ..) ..
theorem canonical_lineUe {s : State} (h : s.canonical) (line cause : Nat) (b : Bytes) : (s.lineUe line cause b).2.canonical := by
  unfold State.lineUe
  exact canonical_quarantine (canonical_raise (canonical_count (canonical_setReg _ _ _ (canonical_lineStore h ..)) ..) ..) _
theorem canonical_ueRead {s : State} (h : s.canonical) (line cause : Nat) (b : Bytes) : (s.ueRead line cause b).st.canonical := canonical_lineUe h ..
theorem canonical_lineRaw {s : State} (h : s.canonical) (line cause : Nat) : (s.lineRaw line cause).st.canonical := by
  have h0 : (((s.request (stackOfDpa (64 * line))).bankUse (64 * line)).tlm (0x200 + 8 * stackOfDpa (64 * line)) 64).canonical :=
    canonical_tlm (canonical_bankUse (canonical_request h _) _) ..
  have h1 := canonical_caStep h0 (32 * stackOfDpa (64 * line) + (s.mchOf (64 * line)).1)
  unfold State.lineRaw
  dsimp only
  split
  · exact canonical_ueRead (canonical_fresh h1) ..
  · split
    · exact h1
    · split
      · exact h1
      · split
        · exact canonical_count h1 ..
        · split
          · exact canonical_ueRead (canonical_fresh h1) ..
          · exact canonical_fresh h1
theorem canonical_lineWrite {s : State} (h : s.canonical) (line : Nat) (b : Bytes) (m : Nat) : (s.lineWrite line b m).canonical := by
  have h1 := canonical_caStep h (32 * stackOfDpa (64 * line) + (s.mchOf (64 * line)).1)
  unfold State.lineWrite
  dsimp only
  split
  · exact canonical_lineUe h1 ..
  · exact canonical_lineStore h1 ..
theorem canonical_flushWcb {s : State} (h : s.canonical) (w : Wcb) : (s.flushWcb w).canonical := by
  unfold State.flushWcb
  dsimp only
  split
  · refine canonical_count (canonical_lineWrite ?_ ..) ..
    exact canonical_same h rfl rfl
  · refine canonical_count (canonical_lineWrite (canonical_lineRaw ?_ ..) ..) ..
    exact canonical_same h rfl rfl
theorem canonical_flushLine {s : State} (h : s.canonical) (line : Nat) : (s.flushLine line).canonical := by
  unfold State.flushLine
  split
  · exact canonical_flushWcb h _
  · exact h
theorem canonical_flushWhere {s : State} (h : s.canonical) (p : Wcb → Bool) : (s.flushWhere p).canonical :=
  canonical_foldl _ (fun _ _ hs => canonical_flushWcb hs _) _ s h
theorem canonical_wcbWrite {s : State} (h : s.canonical) (line : Nat) (l : List (Nat × Byte)) (m : Nat) : (s.wcbWrite line l m).canonical := by
  have h0 : (s.request (stackOfDpa (64 * line))).canonical := canonical_request h _
  unfold State.wcbWrite
  dsimp only
  split
  · split
    · refine canonical_flushWcb ?_ _
      exact canonical_same h0 rfl rfl
    · exact canonical_same h0 rfl rfl
  · split
    · split
      · exact canonical_same (canonical_flushWcb h0 _) rfl rfl
      · exact canonical_same h0 rfl rfl
    · exact canonical_same h0 rfl rfl
theorem canonical_lineRead {s : State} (h : s.canonical) (line cause : Nat) : (s.lineRead line cause).st.canonical := canonical_lineRaw (canonical_flushLine h _) ..
theorem canonical_readUnits (cause : Nat) : ∀ (n a : Nat) (s : State), s.canonical → (s.readUnits a cause n).st.canonical
  | 0, a, s, h => by unfold State.readUnits; exact h
  | 1, a, s, h => by
    unfold State.readUnits
    dsimp only
    split
    · exact h
    · unfold State.readUnits; exact canonical_lineRead h ..
  | n + 2, a, s, h => by
    unfold State.readUnits
    dsimp only
    split
    · exact canonical_readUnits cause n _ _ (canonical_lineRead h ..)
    · exact canonical_readUnits cause (n + 1) _ _ (canonical_lineRead h ..)
theorem canonical_memRead {s : State} (h : s.canonical) (a n cause : Nat) : (s.memRead a n cause).2.2.canonical := canonical_readUnits _ _ _ _ h
theorem canonical_marlRead {s : State} (h : s.canonical) (a : Nat) : (s.marlRead a).2.2.canonical := canonical_count (canonical_lineRead h ..) ..
theorem canonical_writeLine {s : State} (h : s.canonical) (line : Nat) (l : List (Nat × Byte)) (m : Nat) : (s.writeLine line l m).canonical := by
  unfold State.writeLine
  split
  · refine canonical_lineWrite ?_ ..
    exact canonical_same h rfl rfl
  · exact canonical_wcbWrite h ..
theorem canonical_memWrite (m : Nat) : ∀ (f : Nat) (a : Nat) (b : Bytes) (s : State), s.canonical → (s.memWrite a m f b).canonical
  | 0, a, b, s, h => by unfold State.memWrite; exact h
  | f + 1, a, b, s, h => by
    unfold State.memWrite
    split
    · exact h
    · exact canonical_memWrite m f _ _ _ (canonical_writeLine h ..)
theorem canonical_writeUnits : ∀ (l : List (Bytes × Nat)) (a : Nat) (s : State), s.canonical → (s.writeUnits a l).canonical
  | [], a, s, h => by unfold State.writeUnits; exact h
  | [(b, m)], a, s, h => by
    unfold State.writeUnits
    dsimp only
    split
    · exact canonical_writeLine h ..
    · unfold State.writeUnits; exact canonical_writeLine h ..
  | (b, m) :: (b2, m2) :: t, a, s, h => by
    unfold State.writeUnits
    dsimp only
    split
    · exact canonical_writeUnits t _ _ (canonical_writeLine h ..)
    · exact canonical_writeUnits ((b2, m2) :: t) _ _ (canonical_writeLine h ..)

theorem canonical_memReadMarks {s : State} (h : s.canonical) (a n cause : Nat) : (s.memReadMarks a n cause).2.canonical := canonical_readUnits _ _ _ _ h
theorem canonical_memWriteMarks : ∀ (f : Nat) (a : Nat) (b : List (Byte × Nat)) (s : State), s.canonical → (s.memWriteMarks a f b).canonical
  | 0, a, b, s, h => by unfold State.memWriteMarks; exact h
  | f + 1, a, b, s, h => by
    unfold State.memWriteMarks
    split
    · exact h
    · exact canonical_memWriteMarks f _ _ _ (canonical_writeLine h ..)

/-! ### Engines -/

theorem canonical_setEngine {s : State} (h : s.canonical) (e : Nat) (x : Engine) : (s.setEngine e x).canonical := canonical_same h rfl rfl
theorem canonical_stage {s : State} (h : s.canonical) (e : Nat) (x : Staged) : (s.stage e x).canonical := by
  unfold State.stage
  dsimp only
  split
  · exact canonical_addStatus h ..
  · split
    · split
      · exact h
      · refine canonical_raise ?_ ..
        exact canonical_same h rfl rfl
    · exact canonical_raise h ..
  · exact canonical_count h ..
  · exact h
  · split <;> exact h
  · exact h
  · exact h
  · exact h
  · exact h
  · split <;> exact h
  · exact h
  · exact h
  · refine canonical_foldl _ (fun s a hs => ?_) _ s h
    exact canonical_same hs rfl rfl
theorem canonical_stageAll {s : State} (h : s.canonical) (e : Nat) (l : List Staged) : (s.stageAll e l).canonical :=
  canonical_foldl _ (fun _ _ hs => canonical_stage hs ..) _ s h
theorem canonical_stallFor {s : State} (h : s.canonical) (e off n : Nat) : (s.stallFor e off n).canonical := by
  unfold State.stallFor
  exact canonical_foldl _ (fun s a hs => canonical_setEngine (canonical_count hs ..) ..) _ _ h
theorem canonical_holdEnds {s : State} (h : s.canonical) (e off n : Nat) (y : Bool) : (s.holdEnds e off n y).canonical := by
  unfold State.holdEnds
  refine canonical_foldl _ (fun s a hs => canonical_setEngine ?_ ..) _ _ (canonical_count h ..)
  split
  · exact canonical_count hs ..
  · exact hs
theorem canonical_stallsCut {s : State} (h : s.canonical) (e : Nat) : (s.stallsCut e).canonical := by
  unfold State.stallsCut
  exact canonical_foldl _ (fun s a hs => canonical_foldl _ (fun s b hb => canonical_holdEnds hb ..) _ _ hs) _ _ h
theorem canonical_haltEngine {s : State} (h : s.canonical) (e : Nat) : (s.haltEngine e).canonical := by
  unfold State.haltEngine
  refine canonical_stageAll ?_ ..
  exact canonical_same h rfl rfl
theorem canonical_haltGroup {s : State} (h : s.canonical) (e : Nat) : (s.haltGroup e).canonical :=
  canonical_foldl _ (fun _ _ hs => canonical_haltEngine hs _) _ _ (canonical_stallsCut h e)
theorem canonical_progFault {s : State} (h : s.canonical) (e k : Nat) : (s.progFault e k).canonical := by
  unfold State.progFault
  dsimp only
  refine canonical_stopItem (canonical_raise (canonical_haltGroup ?_ _) ..) ..
  split <;> exact h
/-- Issuing a slot operation keeps the canonical form, whatever the operation. -/
theorem canonical_issueSlot {s : State} (h : s.canonical) (e : Nat) (i : Instr) (w : W64) (f : State → Engine → Except Nat Engine) :
    (s.issueSlot e i w f).canonical := by
  unfold State.issueSlot
  dsimp only
  repeat' split
  · exact h
  · exact canonical_progFault h ..
  · exact canonical_progFault h ..
  · exact canonical_setEngine h ..

end Sys2Proof.Machine
end

