-- ==== Sys2Proof/Laws/State.lean ====
section
/-! SUPPORT. What each named update of the state leaves as it was: one lemma per field and update. -/

namespace Sys2Proof.Machine

variable (s : State)

@[simp] theorem setEngine_pending (e : Nat) (x : Engine) : (s.setEngine e x).pending = s.pending := rfl
@[simp] theorem setEngine_now (e : Nat) (x : Engine) : (s.setEngine e x).now = s.now := rfl
@[simp] theorem setEngine_freeCtr (e : Nat) (x : Engine) : (s.setEngine e x).freeCtr = s.freeCtr := rfl
@[simp] theorem setEngine_out (e : Nat) (x : Engine) : (s.setEngine e x).out = s.out := rfl
@[simp] theorem setEngine_pav (e : Nat) (x : Engine) : (s.setEngine e x).pav = s.pav := rfl
@[simp] theorem setEngine_images (e : Nat) (x : Engine) : (s.setEngine e x).images = s.images := rfl
@[simp] theorem setEngine_items (e : Nat) (x : Engine) : (s.setEngine e x).items = s.items := rfl
@[simp] theorem setEngine_nextItem (e : Nat) (x : Engine) : (s.setEngine e x).nextItem = s.nextItem := rfl
@[simp] theorem setEngine_net (e : Nat) (x : Engine) : (s.setEngine e x).net = s.net := rfl
@[simp] theorem setEngine_tokens (e : Nat) (x : Engine) : (s.setEngine e x).tokens = s.tokens := rfl
@[simp] theorem setEngine_netSent (e : Nat) (x : Engine) : (s.setEngine e x).netSent = s.netSent := rfl
@[simp] theorem setEngine_netWrr (e : Nat) (x : Engine) : (s.setEngine e x).netWrr = s.netWrr := rfl
@[simp] theorem setEngine_netLast (e : Nat) (x : Engine) : (s.setEngine e x).netLast = s.netLast := rfl
@[simp] theorem setEngine_mem (e : Nat) (x : Engine) : (s.setEngine e x).mem = s.mem := rfl
@[simp] theorem setEngine_regs (e : Nat) (x : Engine) : (s.setEngine e x).regs = s.regs := rfl
@[simp] theorem setEngine_evHeld (e : Nat) (x : Engine) : (s.setEngine e x).evHeld = s.evHeld := rfl
@[simp] theorem setEngine_evLost (e : Nat) (x : Engine) : (s.setEngine e x).evLost = s.evLost := rfl
@[simp] theorem setEngine_streams (e : Nat) (x : Engine) : (s.setEngine e x).streams = s.streams := rfl
@[simp] theorem setEngine_preds (e : Nat) (x : Engine) : (s.setEngine e x).preds = s.preds := rfl
@[simp] theorem setEngine_chans (e : Nat) (x : Engine) : (s.setEngine e x).chans = s.chans := rfl
@[simp] theorem setEngine_gens (e : Nat) (x : Engine) : (s.setEngine e x).gens = s.gens := rfl
@[simp] theorem setEngine_watch (e : Nat) (x : Engine) : (s.setEngine e x).watch = s.watch := rfl
@[simp] theorem setEngine_rings (e : Nat) (x : Engine) : (s.setEngine e x).rings = s.rings := rfl
@[simp] theorem setEngine_reads (e : Nat) (x : Engine) : (s.setEngine e x).reads = s.reads := rfl
@[simp] theorem setEngine_nextTag (e : Nat) (x : Engine) : (s.setEngine e x).nextTag = s.nextTag := rfl
@[simp] theorem setEngine_vecs (e : Nat) (x : Engine) : (s.setEngine e x).vecs = s.vecs := rfl
@[simp] theorem setEngine_outbox (e : Nat) (x : Engine) : (s.setEngine e x).outbox = s.outbox := rfl
@[simp] theorem setEngine_regions (e : Nat) (x : Engine) : (s.setEngine e x).regions = s.regions := rfl
@[simp] theorem setEngine_grans (e : Nat) (x : Engine) : (s.setEngine e x).grans = s.grans := rfl
@[simp] theorem setEngine_rack (e : Nat) (x : Engine) : (s.setEngine e x).rack = s.rack := rfl
@[simp] theorem setEngine_view (e : Nat) (x : Engine) : (s.setEngine e x).view = s.view := rfl
@[simp] theorem setEngine_tables (e : Nat) (x : Engine) : (s.setEngine e x).tables = s.tables := rfl
@[simp] theorem setEngine_insts (e : Nat) (x : Engine) : (s.setEngine e x).insts = s.insts := rfl
@[simp] theorem setEngine_nextInst (e : Nat) (x : Engine) : (s.setEngine e x).nextInst = s.nextInst := rfl
@[simp] theorem setEngine_qwait (e : Nat) (x : Engine) : (s.setEngine e x).qwait = s.qwait := rfl
@[simp] theorem setEngine_rbufs (e : Nat) (x : Engine) : (s.setEngine e x).rbufs = s.rbufs := rfl
@[simp] theorem setEngine_jobs (e : Nat) (x : Engine) : (s.setEngine e x).jobs = s.jobs := rfl
@[simp] theorem setEngine_nextJob (e : Nat) (x : Engine) : (s.setEngine e x).nextJob = s.nextJob := rfl
@[simp] theorem setEngine_slots (e : Nat) (x : Engine) : (s.setEngine e x).slots = s.slots := rfl
@[simp] theorem setEngine_inbox (e : Nat) (x : Engine) : (s.setEngine e x).inbox = s.inbox := rfl
@[simp] theorem setEngine_tlmAcc (e : Nat) (x : Engine) : (s.setEngine e x).tlmAcc = s.tlmAcc := rfl
@[simp] theorem setEngine_nwCfg (e : Nat) (x : Engine) : (s.setEngine e x).nwCfg = s.nwCfg := rfl
@[simp] theorem setEngine_nwSt (e : Nat) (x : Engine) : (s.setEngine e x).nwSt = s.nwSt := rfl
@[simp] theorem setEngine_seqs (e : Nat) (x : Engine) : (s.setEngine e x).seqs = s.seqs := rfl
@[simp] theorem setEngine_nextSeq (e : Nat) (x : Engine) : (s.setEngine e x).nextSeq = s.nextSeq := rfl
@[simp] theorem setEngine_nextCommit (e : Nat) (x : Engine) : (s.setEngine e x).nextCommit = s.nextCommit := rfl
@[simp] theorem setEngine_decHist (e : Nat) (x : Engine) : (s.setEngine e x).decHist = s.decHist := rfl
@[simp] theorem setEngine_preHist (e : Nat) (x : Engine) : (s.setEngine e x).preHist = s.preHist := rfl
@[simp] theorem setEngine_thr (e : Nat) (x : Engine) : (s.setEngine e x).thr = s.thr := rfl
@[simp] theorem setEngine_throttling (e : Nat) (x : Engine) : (s.setEngine e x).throttling = s.throttling := rfl
@[simp] theorem setEngine_frz (e : Nat) (x : Engine) : (s.setEngine e x).frz = s.frz := rfl
@[simp] theorem setEngine_qSince (e : Nat) (x : Engine) : (s.setEngine e x).qSince = s.qSince := rfl
@[simp] theorem setEngine_wrr (e : Nat) (x : Engine) : (s.setEngine e x).wrr = s.wrr := rfl
@[simp] theorem setEngine_lastCh (e : Nat) (x : Engine) : (s.setEngine e x).lastCh = s.lastCh := rfl
@[simp] theorem setEngine_moves (e : Nat) (x : Engine) : (s.setEngine e x).moves = s.moves := rfl
@[simp] theorem setEngine_movesUp (e : Nat) (x : Engine) : (s.setEngine e x).movesUp = s.movesUp := rfl
@[simp] theorem setEngine_wakeReq (e : Nat) (x : Engine) : (s.setEngine e x).wakeReq = s.wakeReq := rfl
@[simp] theorem setEngine_arrived (e : Nat) (x : Engine) : (s.setEngine e x).arrived = s.arrived := rfl
@[simp] theorem setEngine_admFwd (e : Nat) (x : Engine) : (s.setEngine e x).admFwd = s.admFwd := rfl
@[simp] theorem setEngine_copies (e : Nat) (x : Engine) : (s.setEngine e x).copies = s.copies := rfl
@[simp] theorem setEngine_wakeq (e : Nat) (x : Engine) : (s.setEngine e x).wakeq = s.wakeq := rfl
@[simp] theorem setEngine_l1 (e : Nat) (x : Engine) : (s.setEngine e x).l1 = s.l1 := rfl
@[simp] theorem setEngine_d3hot (e : Nat) (x : Engine) : (s.setEngine e x).d3hot = s.d3hot := rfl
@[simp] theorem setEngine_lastHost (e : Nat) (x : Engine) : (s.setEngine e x).lastHost = s.lastHost := rfl
@[simp] theorem setEngine_admHeld (e : Nat) (x : Engine) : (s.setEngine e x).admHeld = s.admHeld := rfl
@[simp] theorem setEngine_tenGone (e : Nat) (x : Engine) : (s.setEngine e x).tenGone = s.tenGone := rfl
@[simp] theorem setEngine_tenWant (e : Nat) (x : Engine) : (s.setEngine e x).tenWant = s.tenWant := rfl
@[simp] theorem setEngine_keys (e : Nat) (x : Engine) : (s.setEngine e x).keys = s.keys := rfl
@[simp] theorem setEngine_nonces (e : Nat) (x : Engine) : (s.setEngine e x).nonces = s.nonces := rfl
@[simp] theorem setEngine_planNext (e : Nat) (x : Engine) : (s.setEngine e x).planNext = s.planNext := rfl
@[simp] theorem setEngine_groups (e : Nat) (x : Engine) : (s.setEngine e x).groups = s.groups := rfl
@[simp] theorem setEngine_repair (e : Nat) (x : Engine) : (s.setEngine e x).repair = s.repair := rfl
@[simp] theorem setEngine_ports (e : Nat) (x : Engine) : (s.setEngine e x).ports = s.ports := rfl
@[simp] theorem setEngine_rxMsgs (e : Nat) (x : Engine) : (s.setEngine e x).rxMsgs = s.rxMsgs := rfl
@[simp] theorem setEngine_acksIn (e : Nat) (x : Engine) : (s.setEngine e x).acksIn = s.acksIn := rfl
@[simp] theorem setEngine_txSeq (e : Nat) (x : Engine) : (s.setEngine e x).txSeq = s.txSeq := rfl
@[simp] theorem setEngine_unacked (e : Nat) (x : Engine) : (s.setEngine e x).unacked = s.unacked := rfl
@[simp] theorem setEngine_rxSeq (e : Nat) (x : Engine) : (s.setEngine e x).rxSeq = s.rxSeq := rfl
@[simp] theorem setEngine_rxHeld (e : Nat) (x : Engine) : (s.setEngine e x).rxHeld = s.rxHeld := rfl
@[simp] theorem setEngine_hopDrop (e : Nat) (x : Engine) : (s.setEngine e x).hopDrop = s.hopDrop := rfl
@[simp] theorem setEngine_tenantDrop (e : Nat) (x : Engine) : (s.setEngine e x).tenantDrop = s.tenantDrop := rfl
@[simp] theorem setEngine_floodDue (e : Nat) (x : Engine) : (s.setEngine e x).floodDue = s.floodDue := rfl
@[simp] theorem setEngine_viewDue (e : Nat) (x : Engine) : (s.setEngine e x).viewDue = s.viewDue := rfl
@[simp] theorem setEngine_bypMove (e : Nat) (x : Engine) : (s.setEngine e x).bypMove = s.bypMove := rfl
@[simp] theorem setEngine_bypWait (e : Nat) (x : Engine) : (s.setEngine e x).bypWait = s.bypWait := rfl
@[simp] theorem setEngine_bypPin (e : Nat) (x : Engine) : (s.setEngine e x).bypPin = s.bypPin := rfl
@[simp] theorem setEngine_pavane (e : Nat) (x : Engine) : (s.setEngine e x).pavane = s.pavane := rfl
@[simp] theorem setEngine_bars (e : Nat) (x : Engine) : (s.setEngine e x).bars = s.bars := rfl
@[simp] theorem setEngine_releases (e : Nat) (x : Engine) : (s.setEngine e x).releases = s.releases := rfl
@[simp] theorem setEngine_lateRel (e : Nat) (x : Engine) : (s.setEngine e x).lateRel = s.lateRel := rfl
@[simp] theorem setEngine_colls (e : Nat) (x : Engine) : (s.setEngine e x).colls = s.colls := rfl
@[simp] theorem setEngine_supply (e : Nat) (x : Engine) : (s.setEngine e x).supply = s.supply := rfl
@[simp] theorem setEngine_boot (e : Nat) (x : Engine) : (s.setEngine e x).boot = s.boot := rfl
@[simp] theorem setEngine_dom (e : Nat) (x : Engine) : (s.setEngine e x).dom = s.dom := rfl
@[simp] theorem setEngine_mgmt (e : Nat) (x : Engine) : (s.setEngine e x).mgmt = s.mgmt := rfl
@[simp] theorem setEngine_keyDraws (e : Nat) (x : Engine) : (s.setEngine e x).keyDraws = s.keyDraws := rfl
@[simp] theorem setEngine_memKey (e : Nat) (x : Engine) : (s.setEngine e x).memKey = s.memKey := rfl
@[simp] theorem setEngine_caFail (e : Nat) (x : Engine) : (s.setEngine e x).caFail = s.caFail := rfl
@[simp] theorem setEngine_pllLost (e : Nat) (x : Engine) : (s.setEngine e x).pllLost = s.pllLost := rfl
@[simp] theorem setEngine_clrDead (e : Nat) (x : Engine) : (s.setEngine e x).clrDead = s.clrDead := rfl
@[simp] theorem setEngine_bgAt (e : Nat) (x : Engine) : (s.setEngine e x).bgAt = s.bgAt := rfl
@[simp] theorem setEngine_bgSlice (e : Nat) (x : Engine) : (s.setEngine e x).bgSlice = s.bgSlice := rfl
@[simp] theorem setEngine_halfRd (e : Nat) (x : Engine) : (s.setEngine e x).halfRd = s.halfRd := rfl
@[simp] theorem setEngine_halfWr (e : Nat) (x : Engine) : (s.setEngine e x).halfWr = s.halfWr := rfl
@[simp] theorem setEngine_lockvSeen (e : Nat) (x : Engine) : (s.setEngine e x).lockvSeen = s.lockvSeen := rfl
@[simp] theorem setEngine_tlmAt (e : Nat) (x : Engine) : (s.setEngine e x).tlmAt = s.tlmAt := rfl
@[simp] theorem setEngine_tlmBase (e : Nat) (x : Engine) : (s.setEngine e x).tlmBase = s.tlmBase := rfl
@[simp] theorem setItem_pending (i : Nat) (x : WorkItem) : (s.setItem i x).pending = s.pending := rfl
@[simp] theorem setItem_now (i : Nat) (x : WorkItem) : (s.setItem i x).now = s.now := rfl
@[simp] theorem setItem_freeCtr (i : Nat) (x : WorkItem) : (s.setItem i x).freeCtr = s.freeCtr := rfl
@[simp] theorem setItem_out (i : Nat) (x : WorkItem) : (s.setItem i x).out = s.out := rfl
@[simp] theorem setItem_pav (i : Nat) (x : WorkItem) : (s.setItem i x).pav = s.pav := rfl
@[simp] theorem setItem_eng (i : Nat) (x : WorkItem) : (s.setItem i x).eng = s.eng := rfl
@[simp] theorem setItem_images (i : Nat) (x : WorkItem) : (s.setItem i x).images = s.images := rfl
@[simp] theorem setItem_nextItem (i : Nat) (x : WorkItem) : (s.setItem i x).nextItem = s.nextItem := rfl
@[simp] theorem setItem_net (i : Nat) (x : WorkItem) : (s.setItem i x).net = s.net := rfl
@[simp] theorem setItem_tokens (i : Nat) (x : WorkItem) : (s.setItem i x).tokens = s.tokens := rfl
@[simp] theorem setItem_netSent (i : Nat) (x : WorkItem) : (s.setItem i x).netSent = s.netSent := rfl
@[simp] theorem setItem_netWrr (i : Nat) (x : WorkItem) : (s.setItem i x).netWrr = s.netWrr := rfl
@[simp] theorem setItem_netLast (i : Nat) (x : WorkItem) : (s.setItem i x).netLast = s.netLast := rfl
@[simp] theorem setItem_mem (i : Nat) (x : WorkItem) : (s.setItem i x).mem = s.mem := rfl
@[simp] theorem setItem_regs (i : Nat) (x : WorkItem) : (s.setItem i x).regs = s.regs := rfl
@[simp] theorem setItem_evHeld (i : Nat) (x : WorkItem) : (s.setItem i x).evHeld = s.evHeld := rfl
@[simp] theorem setItem_evLost (i : Nat) (x : WorkItem) : (s.setItem i x).evLost = s.evLost := rfl
@[simp] theorem setItem_streams (i : Nat) (x : WorkItem) : (s.setItem i x).streams = s.streams := rfl
@[simp] theorem setItem_preds (i : Nat) (x : WorkItem) : (s.setItem i x).preds = s.preds := rfl
@[simp] theorem setItem_chans (i : Nat) (x : WorkItem) : (s.setItem i x).chans = s.chans := rfl
@[simp] theorem setItem_gens (i : Nat) (x : WorkItem) : (s.setItem i x).gens = s.gens := rfl
@[simp] theorem setItem_watch (i : Nat) (x : WorkItem) : (s.setItem i x).watch = s.watch := rfl
@[simp] theorem setItem_rings (i : Nat) (x : WorkItem) : (s.setItem i x).rings = s.rings := rfl
@[simp] theorem setItem_reads (i : Nat) (x : WorkItem) : (s.setItem i x).reads = s.reads := rfl
@[simp] theorem setItem_nextTag (i : Nat) (x : WorkItem) : (s.setItem i x).nextTag = s.nextTag := rfl
@[simp] theorem setItem_vecs (i : Nat) (x : WorkItem) : (s.setItem i x).vecs = s.vecs := rfl
@[simp] theorem setItem_outbox (i : Nat) (x : WorkItem) : (s.setItem i x).outbox = s.outbox := rfl
@[simp] theorem setItem_regions (i : Nat) (x : WorkItem) : (s.setItem i x).regions = s.regions := rfl
@[simp] theorem setItem_grans (i : Nat) (x : WorkItem) : (s.setItem i x).grans = s.grans := rfl
@[simp] theorem setItem_rack (i : Nat) (x : WorkItem) : (s.setItem i x).rack = s.rack := rfl
@[simp] theorem setItem_view (i : Nat) (x : WorkItem) : (s.setItem i x).view = s.view := rfl
@[simp] theorem setItem_tables (i : Nat) (x : WorkItem) : (s.setItem i x).tables = s.tables := rfl
@[simp] theorem setItem_insts (i : Nat) (x : WorkItem) : (s.setItem i x).insts = s.insts := rfl
@[simp] theorem setItem_nextInst (i : Nat) (x : WorkItem) : (s.setItem i x).nextInst = s.nextInst := rfl
@[simp] theorem setItem_qwait (i : Nat) (x : WorkItem) : (s.setItem i x).qwait = s.qwait := rfl
@[simp] theorem setItem_rbufs (i : Nat) (x : WorkItem) : (s.setItem i x).rbufs = s.rbufs := rfl
@[simp] theorem setItem_jobs (i : Nat) (x : WorkItem) : (s.setItem i x).jobs = s.jobs := rfl
@[simp] theorem setItem_nextJob (i : Nat) (x : WorkItem) : (s.setItem i x).nextJob = s.nextJob := rfl
@[simp] theorem setItem_slots (i : Nat) (x : WorkItem) : (s.setItem i x).slots = s.slots := rfl
@[simp] theorem setItem_inbox (i : Nat) (x : WorkItem) : (s.setItem i x).inbox = s.inbox := rfl
@[simp] theorem setItem_tlmAcc (i : Nat) (x : WorkItem) : (s.setItem i x).tlmAcc = s.tlmAcc := rfl
@[simp] theorem setItem_nwCfg (i : Nat) (x : WorkItem) : (s.setItem i x).nwCfg = s.nwCfg := rfl
@[simp] theorem setItem_nwSt (i : Nat) (x : WorkItem) : (s.setItem i x).nwSt = s.nwSt := rfl
@[simp] theorem setItem_seqs (i : Nat) (x : WorkItem) : (s.setItem i x).seqs = s.seqs := rfl
@[simp] theorem setItem_nextSeq (i : Nat) (x : WorkItem) : (s.setItem i x).nextSeq = s.nextSeq := rfl
@[simp] theorem setItem_nextCommit (i : Nat) (x : WorkItem) : (s.setItem i x).nextCommit = s.nextCommit := rfl
@[simp] theorem setItem_decHist (i : Nat) (x : WorkItem) : (s.setItem i x).decHist = s.decHist := rfl
@[simp] theorem setItem_preHist (i : Nat) (x : WorkItem) : (s.setItem i x).preHist = s.preHist := rfl
@[simp] theorem setItem_thr (i : Nat) (x : WorkItem) : (s.setItem i x).thr = s.thr := rfl
@[simp] theorem setItem_throttling (i : Nat) (x : WorkItem) : (s.setItem i x).throttling = s.throttling := rfl
@[simp] theorem setItem_frz (i : Nat) (x : WorkItem) : (s.setItem i x).frz = s.frz := rfl
@[simp] theorem setItem_qSince (i : Nat) (x : WorkItem) : (s.setItem i x).qSince = s.qSince := rfl
@[simp] theorem setItem_wrr (i : Nat) (x : WorkItem) : (s.setItem i x).wrr = s.wrr := rfl
@[simp] theorem setItem_lastCh (i : Nat) (x : WorkItem) : (s.setItem i x).lastCh = s.lastCh := rfl
@[simp] theorem setItem_moves (i : Nat) (x : WorkItem) : (s.setItem i x).moves = s.moves := rfl
@[simp] theorem setItem_movesUp (i : Nat) (x : WorkItem) : (s.setItem i x).movesUp = s.movesUp := rfl
@[simp] theorem setItem_wakeReq (i : Nat) (x : WorkItem) : (s.setItem i x).wakeReq = s.wakeReq := rfl
@[simp] theorem setItem_arrived (i : Nat) (x : WorkItem) : (s.setItem i x).arrived = s.arrived := rfl
@[simp] theorem setItem_admFwd (i : Nat) (x : WorkItem) : (s.setItem i x).admFwd = s.admFwd := rfl
@[simp] theorem setItem_copies (i : Nat) (x : WorkItem) : (s.setItem i x).copies = s.copies := rfl
@[simp] theorem setItem_wakeq (i : Nat) (x : WorkItem) : (s.setItem i x).wakeq = s.wakeq := rfl
@[simp] theorem setItem_l1 (i : Nat) (x : WorkItem) : (s.setItem i x).l1 = s.l1 := rfl
@[simp] theorem setItem_d3hot (i : Nat) (x : WorkItem) : (s.setItem i x).d3hot = s.d3hot := rfl
@[simp] theorem setItem_lastHost (i : Nat) (x : WorkItem) : (s.setItem i x).lastHost = s.lastHost := rfl
@[simp] theorem setItem_admHeld (i : Nat) (x : WorkItem) : (s.setItem i x).admHeld = s.admHeld := rfl
@[simp] theorem setItem_tenGone (i : Nat) (x : WorkItem) : (s.setItem i x).tenGone = s.tenGone := rfl
@[simp] theorem setItem_tenWant (i : Nat) (x : WorkItem) : (s.setItem i x).tenWant = s.tenWant := rfl
@[simp] theorem setItem_keys (i : Nat) (x : WorkItem) : (s.setItem i x).keys = s.keys := rfl
@[simp] theorem setItem_nonces (i : Nat) (x : WorkItem) : (s.setItem i x).nonces = s.nonces := rfl
@[simp] theorem setItem_planNext (i : Nat) (x : WorkItem) : (s.setItem i x).planNext = s.planNext := rfl
@[simp] theorem setItem_groups (i : Nat) (x : WorkItem) : (s.setItem i x).groups = s.groups := rfl
@[simp] theorem setItem_repair (i : Nat) (x : WorkItem) : (s.setItem i x).repair = s.repair := rfl
@[simp] theorem setItem_ports (i : Nat) (x : WorkItem) : (s.setItem i x).ports = s.ports := rfl
@[simp] theorem setItem_rxMsgs (i : Nat) (x : WorkItem) : (s.setItem i x).rxMsgs = s.rxMsgs := rfl
@[simp] theorem setItem_acksIn (i : Nat) (x : WorkItem) : (s.setItem i x).acksIn = s.acksIn := rfl
@[simp] theorem setItem_txSeq (i : Nat) (x : WorkItem) : (s.setItem i x).txSeq = s.txSeq := rfl
@[simp] theorem setItem_unacked (i : Nat) (x : WorkItem) : (s.setItem i x).unacked = s.unacked := rfl
@[simp] theorem setItem_rxSeq (i : Nat) (x : WorkItem) : (s.setItem i x).rxSeq = s.rxSeq := rfl
@[simp] theorem setItem_rxHeld (i : Nat) (x : WorkItem) : (s.setItem i x).rxHeld = s.rxHeld := rfl
@[simp] theorem setItem_hopDrop (i : Nat) (x : WorkItem) : (s.setItem i x).hopDrop = s.hopDrop := rfl
@[simp] theorem setItem_tenantDrop (i : Nat) (x : WorkItem) : (s.setItem i x).tenantDrop = s.tenantDrop := rfl
@[simp] theorem setItem_floodDue (i : Nat) (x : WorkItem) : (s.setItem i x).floodDue = s.floodDue := rfl
@[simp] theorem setItem_viewDue (i : Nat) (x : WorkItem) : (s.setItem i x).viewDue = s.viewDue := rfl
@[simp] theorem setItem_bypMove (i : Nat) (x : WorkItem) : (s.setItem i x).bypMove = s.bypMove := rfl
@[simp] theorem setItem_bypWait (i : Nat) (x : WorkItem) : (s.setItem i x).bypWait = s.bypWait := rfl
@[simp] theorem setItem_bypPin (i : Nat) (x : WorkItem) : (s.setItem i x).bypPin = s.bypPin := rfl
@[simp] theorem setItem_pavane (i : Nat) (x : WorkItem) : (s.setItem i x).pavane = s.pavane := rfl
@[simp] theorem setItem_bars (i : Nat) (x : WorkItem) : (s.setItem i x).bars = s.bars := rfl
@[simp] theorem setItem_releases (i : Nat) (x : WorkItem) : (s.setItem i x).releases = s.releases := rfl
@[simp] theorem setItem_lateRel (i : Nat) (x : WorkItem) : (s.setItem i x).lateRel = s.lateRel := rfl
@[simp] theorem setItem_colls (i : Nat) (x : WorkItem) : (s.setItem i x).colls = s.colls := rfl
@[simp] theorem setItem_supply (i : Nat) (x : WorkItem) : (s.setItem i x).supply = s.supply := rfl
@[simp] theorem setItem_boot (i : Nat) (x : WorkItem) : (s.setItem i x).boot = s.boot := rfl
@[simp] theorem setItem_dom (i : Nat) (x : WorkItem) : (s.setItem i x).dom = s.dom := rfl
@[simp] theorem setItem_mgmt (i : Nat) (x : WorkItem) : (s.setItem i x).mgmt = s.mgmt := rfl
@[simp] theorem setItem_keyDraws (i : Nat) (x : WorkItem) : (s.setItem i x).keyDraws = s.keyDraws := rfl
@[simp] theorem setItem_memKey (i : Nat) (x : WorkItem) : (s.setItem i x).memKey = s.memKey := rfl
@[simp] theorem setItem_caFail (i : Nat) (x : WorkItem) : (s.setItem i x).caFail = s.caFail := rfl
@[simp] theorem setItem_pllLost (i : Nat) (x : WorkItem) : (s.setItem i x).pllLost = s.pllLost := rfl
@[simp] theorem setItem_clrDead (i : Nat) (x : WorkItem) : (s.setItem i x).clrDead = s.clrDead := rfl
@[simp] theorem setItem_bgAt (i : Nat) (x : WorkItem) : (s.setItem i x).bgAt = s.bgAt := rfl
@[simp] theorem setItem_bgSlice (i : Nat) (x : WorkItem) : (s.setItem i x).bgSlice = s.bgSlice := rfl
@[simp] theorem setItem_halfRd (i : Nat) (x : WorkItem) : (s.setItem i x).halfRd = s.halfRd := rfl
@[simp] theorem setItem_halfWr (i : Nat) (x : WorkItem) : (s.setItem i x).halfWr = s.halfWr := rfl
@[simp] theorem setItem_lockvSeen (i : Nat) (x : WorkItem) : (s.setItem i x).lockvSeen = s.lockvSeen := rfl
@[simp] theorem setItem_tlmAt (i : Nat) (x : WorkItem) : (s.setItem i x).tlmAt = s.tlmAt := rfl
@[simp] theorem setItem_tlmBase (i : Nat) (x : WorkItem) : (s.setItem i x).tlmBase = s.tlmBase := rfl
@[simp] theorem setChan_pending (i : Nat) (x : Chan) : (s.setChan i x).pending = s.pending := rfl
@[simp] theorem setChan_now (i : Nat) (x : Chan) : (s.setChan i x).now = s.now := rfl
@[simp] theorem setChan_freeCtr (i : Nat) (x : Chan) : (s.setChan i x).freeCtr = s.freeCtr := rfl
@[simp] theorem setChan_out (i : Nat) (x : Chan) : (s.setChan i x).out = s.out := rfl
@[simp] theorem setChan_pav (i : Nat) (x : Chan) : (s.setChan i x).pav = s.pav := rfl
@[simp] theorem setChan_eng (i : Nat) (x : Chan) : (s.setChan i x).eng = s.eng := rfl
@[simp] theorem setChan_images (i : Nat) (x : Chan) : (s.setChan i x).images = s.images := rfl
@[simp] theorem setChan_items (i : Nat) (x : Chan) : (s.setChan i x).items = s.items := rfl
@[simp] theorem setChan_nextItem (i : Nat) (x : Chan) : (s.setChan i x).nextItem = s.nextItem := rfl
@[simp] theorem setChan_net (i : Nat) (x : Chan) : (s.setChan i x).net = s.net := rfl
@[simp] theorem setChan_tokens (i : Nat) (x : Chan) : (s.setChan i x).tokens = s.tokens := rfl
@[simp] theorem setChan_netSent (i : Nat) (x : Chan) : (s.setChan i x).netSent = s.netSent := rfl
@[simp] theorem setChan_netWrr (i : Nat) (x : Chan) : (s.setChan i x).netWrr = s.netWrr := rfl
@[simp] theorem setChan_netLast (i : Nat) (x : Chan) : (s.setChan i x).netLast = s.netLast := rfl
@[simp] theorem setChan_mem (i : Nat) (x : Chan) : (s.setChan i x).mem = s.mem := rfl
@[simp] theorem setChan_regs (i : Nat) (x : Chan) : (s.setChan i x).regs = s.regs := rfl
@[simp] theorem setChan_evHeld (i : Nat) (x : Chan) : (s.setChan i x).evHeld = s.evHeld := rfl
@[simp] theorem setChan_evLost (i : Nat) (x : Chan) : (s.setChan i x).evLost = s.evLost := rfl
@[simp] theorem setChan_streams (i : Nat) (x : Chan) : (s.setChan i x).streams = s.streams := rfl
@[simp] theorem setChan_preds (i : Nat) (x : Chan) : (s.setChan i x).preds = s.preds := rfl
@[simp] theorem setChan_gens (i : Nat) (x : Chan) : (s.setChan i x).gens = s.gens := rfl
@[simp] theorem setChan_watch (i : Nat) (x : Chan) : (s.setChan i x).watch = s.watch := rfl
@[simp] theorem setChan_rings (i : Nat) (x : Chan) : (s.setChan i x).rings = s.rings := rfl
@[simp] theorem setChan_reads (i : Nat) (x : Chan) : (s.setChan i x).reads = s.reads := rfl
@[simp] theorem setChan_nextTag (i : Nat) (x : Chan) : (s.setChan i x).nextTag = s.nextTag := rfl
@[simp] theorem setChan_vecs (i : Nat) (x : Chan) : (s.setChan i x).vecs = s.vecs := rfl
@[simp] theorem setChan_outbox (i : Nat) (x : Chan) : (s.setChan i x).outbox = s.outbox := rfl
@[simp] theorem setChan_regions (i : Nat) (x : Chan) : (s.setChan i x).regions = s.regions := rfl
@[simp] theorem setChan_grans (i : Nat) (x : Chan) : (s.setChan i x).grans = s.grans := rfl
@[simp] theorem setChan_rack (i : Nat) (x : Chan) : (s.setChan i x).rack = s.rack := rfl
@[simp] theorem setChan_view (i : Nat) (x : Chan) : (s.setChan i x).view = s.view := rfl
@[simp] theorem setChan_tables (i : Nat) (x : Chan) : (s.setChan i x).tables = s.tables := rfl
@[simp] theorem setChan_insts (i : Nat) (x : Chan) : (s.setChan i x).insts = s.insts := rfl
@[simp] theorem setChan_nextInst (i : Nat) (x : Chan) : (s.setChan i x).nextInst = s.nextInst := rfl
@[simp] theorem setChan_qwait (i : Nat) (x : Chan) : (s.setChan i x).qwait = s.qwait := rfl
@[simp] theorem setChan_rbufs (i : Nat) (x : Chan) : (s.setChan i x).rbufs = s.rbufs := rfl
@[simp] theorem setChan_jobs (i : Nat) (x : Chan) : (s.setChan i x).jobs = s.jobs := rfl
@[simp] theorem setChan_nextJob (i : Nat) (x : Chan) : (s.setChan i x).nextJob = s.nextJob := rfl
@[simp] theorem setChan_slots (i : Nat) (x : Chan) : (s.setChan i x).slots = s.slots := rfl
@[simp] theorem setChan_inbox (i : Nat) (x : Chan) : (s.setChan i x).inbox = s.inbox := rfl
@[simp] theorem setChan_tlmAcc (i : Nat) (x : Chan) : (s.setChan i x).tlmAcc = s.tlmAcc := rfl
@[simp] theorem setChan_nwCfg (i : Nat) (x : Chan) : (s.setChan i x).nwCfg = s.nwCfg := rfl
@[simp] theorem setChan_nwSt (i : Nat) (x : Chan) : (s.setChan i x).nwSt = s.nwSt := rfl
@[simp] theorem setChan_seqs (i : Nat) (x : Chan) : (s.setChan i x).seqs = s.seqs := rfl
@[simp] theorem setChan_nextSeq (i : Nat) (x : Chan) : (s.setChan i x).nextSeq = s.nextSeq := rfl
@[simp] theorem setChan_nextCommit (i : Nat) (x : Chan) : (s.setChan i x).nextCommit = s.nextCommit := rfl
@[simp] theorem setChan_decHist (i : Nat) (x : Chan) : (s.setChan i x).decHist = s.decHist := rfl
@[simp] theorem setChan_preHist (i : Nat) (x : Chan) : (s.setChan i x).preHist = s.preHist := rfl
@[simp] theorem setChan_thr (i : Nat) (x : Chan) : (s.setChan i x).thr = s.thr := rfl
@[simp] theorem setChan_throttling (i : Nat) (x : Chan) : (s.setChan i x).throttling = s.throttling := rfl
@[simp] theorem setChan_frz (i : Nat) (x : Chan) : (s.setChan i x).frz = s.frz := rfl
@[simp] theorem setChan_qSince (i : Nat) (x : Chan) : (s.setChan i x).qSince = s.qSince := rfl
@[simp] theorem setChan_wrr (i : Nat) (x : Chan) : (s.setChan i x).wrr = s.wrr := rfl
@[simp] theorem setChan_lastCh (i : Nat) (x : Chan) : (s.setChan i x).lastCh = s.lastCh := rfl
@[simp] theorem setChan_moves (i : Nat) (x : Chan) : (s.setChan i x).moves = s.moves := rfl
@[simp] theorem setChan_movesUp (i : Nat) (x : Chan) : (s.setChan i x).movesUp = s.movesUp := rfl
@[simp] theorem setChan_wakeReq (i : Nat) (x : Chan) : (s.setChan i x).wakeReq = s.wakeReq := rfl
@[simp] theorem setChan_arrived (i : Nat) (x : Chan) : (s.setChan i x).arrived = s.arrived := rfl
@[simp] theorem setChan_admFwd (i : Nat) (x : Chan) : (s.setChan i x).admFwd = s.admFwd := rfl
@[simp] theorem setChan_copies (i : Nat) (x : Chan) : (s.setChan i x).copies = s.copies := rfl
@[simp] theorem setChan_wakeq (i : Nat) (x : Chan) : (s.setChan i x).wakeq = s.wakeq := rfl
@[simp] theorem setChan_l1 (i : Nat) (x : Chan) : (s.setChan i x).l1 = s.l1 := rfl
@[simp] theorem setChan_d3hot (i : Nat) (x : Chan) : (s.setChan i x).d3hot = s.d3hot := rfl
@[simp] theorem setChan_lastHost (i : Nat) (x : Chan) : (s.setChan i x).lastHost = s.lastHost := rfl
@[simp] theorem setChan_admHeld (i : Nat) (x : Chan) : (s.setChan i x).admHeld = s.admHeld := rfl
@[simp] theorem setChan_tenGone (i : Nat) (x : Chan) : (s.setChan i x).tenGone = s.tenGone := rfl
@[simp] theorem setChan_tenWant (i : Nat) (x : Chan) : (s.setChan i x).tenWant = s.tenWant := rfl
@[simp] theorem setChan_keys (i : Nat) (x : Chan) : (s.setChan i x).keys = s.keys := rfl
@[simp] theorem setChan_nonces (i : Nat) (x : Chan) : (s.setChan i x).nonces = s.nonces := rfl
@[simp] theorem setChan_planNext (i : Nat) (x : Chan) : (s.setChan i x).planNext = s.planNext := rfl
@[simp] theorem setChan_groups (i : Nat) (x : Chan) : (s.setChan i x).groups = s.groups := rfl
@[simp] theorem setChan_repair (i : Nat) (x : Chan) : (s.setChan i x).repair = s.repair := rfl
@[simp] theorem setChan_ports (i : Nat) (x : Chan) : (s.setChan i x).ports = s.ports := rfl
@[simp] theorem setChan_rxMsgs (i : Nat) (x : Chan) : (s.setChan i x).rxMsgs = s.rxMsgs := rfl
@[simp] theorem setChan_acksIn (i : Nat) (x : Chan) : (s.setChan i x).acksIn = s.acksIn := rfl
@[simp] theorem setChan_txSeq (i : Nat) (x : Chan) : (s.setChan i x).txSeq = s.txSeq := rfl
@[simp] theorem setChan_unacked (i : Nat) (x : Chan) : (s.setChan i x).unacked = s.unacked := rfl
@[simp] theorem setChan_rxSeq (i : Nat) (x : Chan) : (s.setChan i x).rxSeq = s.rxSeq := rfl
@[simp] theorem setChan_rxHeld (i : Nat) (x : Chan) : (s.setChan i x).rxHeld = s.rxHeld := rfl
@[simp] theorem setChan_hopDrop (i : Nat) (x : Chan) : (s.setChan i x).hopDrop = s.hopDrop := rfl
@[simp] theorem setChan_tenantDrop (i : Nat) (x : Chan) : (s.setChan i x).tenantDrop = s.tenantDrop := rfl
@[simp] theorem setChan_floodDue (i : Nat) (x : Chan) : (s.setChan i x).floodDue = s.floodDue := rfl
@[simp] theorem setChan_viewDue (i : Nat) (x : Chan) : (s.setChan i x).viewDue = s.viewDue := rfl
@[simp] theorem setChan_bypMove (i : Nat) (x : Chan) : (s.setChan i x).bypMove = s.bypMove := rfl
@[simp] theorem setChan_bypWait (i : Nat) (x : Chan) : (s.setChan i x).bypWait = s.bypWait := rfl
@[simp] theorem setChan_bypPin (i : Nat) (x : Chan) : (s.setChan i x).bypPin = s.bypPin := rfl
@[simp] theorem setChan_pavane (i : Nat) (x : Chan) : (s.setChan i x).pavane = s.pavane := rfl
@[simp] theorem setChan_bars (i : Nat) (x : Chan) : (s.setChan i x).bars = s.bars := rfl
@[simp] theorem setChan_releases (i : Nat) (x : Chan) : (s.setChan i x).releases = s.releases := rfl
@[simp] theorem setChan_lateRel (i : Nat) (x : Chan) : (s.setChan i x).lateRel = s.lateRel := rfl
@[simp] theorem setChan_colls (i : Nat) (x : Chan) : (s.setChan i x).colls = s.colls := rfl
@[simp] theorem setChan_supply (i : Nat) (x : Chan) : (s.setChan i x).supply = s.supply := rfl
@[simp] theorem setChan_boot (i : Nat) (x : Chan) : (s.setChan i x).boot = s.boot := rfl
@[simp] theorem setChan_dom (i : Nat) (x : Chan) : (s.setChan i x).dom = s.dom := rfl
@[simp] theorem setChan_mgmt (i : Nat) (x : Chan) : (s.setChan i x).mgmt = s.mgmt := rfl
@[simp] theorem setChan_keyDraws (i : Nat) (x : Chan) : (s.setChan i x).keyDraws = s.keyDraws := rfl
@[simp] theorem setChan_memKey (i : Nat) (x : Chan) : (s.setChan i x).memKey = s.memKey := rfl
@[simp] theorem setChan_caFail (i : Nat) (x : Chan) : (s.setChan i x).caFail = s.caFail := rfl
@[simp] theorem setChan_pllLost (i : Nat) (x : Chan) : (s.setChan i x).pllLost = s.pllLost := rfl
@[simp] theorem setChan_clrDead (i : Nat) (x : Chan) : (s.setChan i x).clrDead = s.clrDead := rfl
@[simp] theorem setChan_bgAt (i : Nat) (x : Chan) : (s.setChan i x).bgAt = s.bgAt := rfl
@[simp] theorem setChan_bgSlice (i : Nat) (x : Chan) : (s.setChan i x).bgSlice = s.bgSlice := rfl
@[simp] theorem setChan_halfRd (i : Nat) (x : Chan) : (s.setChan i x).halfRd = s.halfRd := rfl
@[simp] theorem setChan_halfWr (i : Nat) (x : Chan) : (s.setChan i x).halfWr = s.halfWr := rfl
@[simp] theorem setChan_lockvSeen (i : Nat) (x : Chan) : (s.setChan i x).lockvSeen = s.lockvSeen := rfl
@[simp] theorem setChan_tlmAt (i : Nat) (x : Chan) : (s.setChan i x).tlmAt = s.tlmAt := rfl
@[simp] theorem setChan_tlmBase (i : Nat) (x : Chan) : (s.setChan i x).tlmBase = s.tlmBase := rfl
@[simp] theorem setPort_pending (p : Nat) (x : Port) : (s.setPort p x).pending = s.pending := rfl
@[simp] theorem setPort_now (p : Nat) (x : Port) : (s.setPort p x).now = s.now := rfl
@[simp] theorem setPort_freeCtr (p : Nat) (x : Port) : (s.setPort p x).freeCtr = s.freeCtr := rfl
@[simp] theorem setPort_out (p : Nat) (x : Port) : (s.setPort p x).out = s.out := rfl
@[simp] theorem setPort_pav (p : Nat) (x : Port) : (s.setPort p x).pav = s.pav := rfl
@[simp] theorem setPort_eng (p : Nat) (x : Port) : (s.setPort p x).eng = s.eng := rfl
@[simp] theorem setPort_images (p : Nat) (x : Port) : (s.setPort p x).images = s.images := rfl
@[simp] theorem setPort_items (p : Nat) (x : Port) : (s.setPort p x).items = s.items := rfl
@[simp] theorem setPort_nextItem (p : Nat) (x : Port) : (s.setPort p x).nextItem = s.nextItem := rfl
@[simp] theorem setPort_net (p : Nat) (x : Port) : (s.setPort p x).net = s.net := rfl
@[simp] theorem setPort_tokens (p : Nat) (x : Port) : (s.setPort p x).tokens = s.tokens := rfl
@[simp] theorem setPort_netSent (p : Nat) (x : Port) : (s.setPort p x).netSent = s.netSent := rfl
@[simp] theorem setPort_netWrr (p : Nat) (x : Port) : (s.setPort p x).netWrr = s.netWrr := rfl
@[simp] theorem setPort_netLast (p : Nat) (x : Port) : (s.setPort p x).netLast = s.netLast := rfl
@[simp] theorem setPort_mem (p : Nat) (x : Port) : (s.setPort p x).mem = s.mem := rfl
@[simp] theorem setPort_regs (p : Nat) (x : Port) : (s.setPort p x).regs = s.regs := rfl
@[simp] theorem setPort_evHeld (p : Nat) (x : Port) : (s.setPort p x).evHeld = s.evHeld := rfl
@[simp] theorem setPort_evLost (p : Nat) (x : Port) : (s.setPort p x).evLost = s.evLost := rfl
@[simp] theorem setPort_streams (p : Nat) (x : Port) : (s.setPort p x).streams = s.streams := rfl
@[simp] theorem setPort_preds (p : Nat) (x : Port) : (s.setPort p x).preds = s.preds := rfl
@[simp] theorem setPort_chans (p : Nat) (x : Port) : (s.setPort p x).chans = s.chans := rfl
@[simp] theorem setPort_gens (p : Nat) (x : Port) : (s.setPort p x).gens = s.gens := rfl
@[simp] theorem setPort_watch (p : Nat) (x : Port) : (s.setPort p x).watch = s.watch := rfl
@[simp] theorem setPort_rings (p : Nat) (x : Port) : (s.setPort p x).rings = s.rings := rfl
@[simp] theorem setPort_reads (p : Nat) (x : Port) : (s.setPort p x).reads = s.reads := rfl
@[simp] theorem setPort_nextTag (p : Nat) (x : Port) : (s.setPort p x).nextTag = s.nextTag := rfl
@[simp] theorem setPort_vecs (p : Nat) (x : Port) : (s.setPort p x).vecs = s.vecs := rfl
@[simp] theorem setPort_outbox (p : Nat) (x : Port) : (s.setPort p x).outbox = s.outbox := rfl
@[simp] theorem setPort_regions (p : Nat) (x : Port) : (s.setPort p x).regions = s.regions := rfl
@[simp] theorem setPort_grans (p : Nat) (x : Port) : (s.setPort p x).grans = s.grans := rfl
@[simp] theorem setPort_rack (p : Nat) (x : Port) : (s.setPort p x).rack = s.rack := rfl
@[simp] theorem setPort_view (p : Nat) (x : Port) : (s.setPort p x).view = s.view := rfl
@[simp] theorem setPort_tables (p : Nat) (x : Port) : (s.setPort p x).tables = s.tables := rfl
@[simp] theorem setPort_insts (p : Nat) (x : Port) : (s.setPort p x).insts = s.insts := rfl
@[simp] theorem setPort_nextInst (p : Nat) (x : Port) : (s.setPort p x).nextInst = s.nextInst := rfl
@[simp] theorem setPort_qwait (p : Nat) (x : Port) : (s.setPort p x).qwait = s.qwait := rfl
@[simp] theorem setPort_rbufs (p : Nat) (x : Port) : (s.setPort p x).rbufs = s.rbufs := rfl
@[simp] theorem setPort_jobs (p : Nat) (x : Port) : (s.setPort p x).jobs = s.jobs := rfl
@[simp] theorem setPort_nextJob (p : Nat) (x : Port) : (s.setPort p x).nextJob = s.nextJob := rfl
@[simp] theorem setPort_slots (p : Nat) (x : Port) : (s.setPort p x).slots = s.slots := rfl
@[simp] theorem setPort_inbox (p : Nat) (x : Port) : (s.setPort p x).inbox = s.inbox := rfl
@[simp] theorem setPort_tlmAcc (p : Nat) (x : Port) : (s.setPort p x).tlmAcc = s.tlmAcc := rfl
@[simp] theorem setPort_nwCfg (p : Nat) (x : Port) : (s.setPort p x).nwCfg = s.nwCfg := rfl
@[simp] theorem setPort_nwSt (p : Nat) (x : Port) : (s.setPort p x).nwSt = s.nwSt := rfl
@[simp] theorem setPort_seqs (p : Nat) (x : Port) : (s.setPort p x).seqs = s.seqs := rfl
@[simp] theorem setPort_nextSeq (p : Nat) (x : Port) : (s.setPort p x).nextSeq = s.nextSeq := rfl
@[simp] theorem setPort_nextCommit (p : Nat) (x : Port) : (s.setPort p x).nextCommit = s.nextCommit := rfl
@[simp] theorem setPort_decHist (p : Nat) (x : Port) : (s.setPort p x).decHist = s.decHist := rfl
@[simp] theorem setPort_preHist (p : Nat) (x : Port) : (s.setPort p x).preHist = s.preHist := rfl
@[simp] theorem setPort_thr (p : Nat) (x : Port) : (s.setPort p x).thr = s.thr := rfl
@[simp] theorem setPort_throttling (p : Nat) (x : Port) : (s.setPort p x).throttling = s.throttling := rfl
@[simp] theorem setPort_frz (p : Nat) (x : Port) : (s.setPort p x).frz = s.frz := rfl
@[simp] theorem setPort_qSince (p : Nat) (x : Port) : (s.setPort p x).qSince = s.qSince := rfl
@[simp] theorem setPort_wrr (p : Nat) (x : Port) : (s.setPort p x).wrr = s.wrr := rfl
@[simp] theorem setPort_lastCh (p : Nat) (x : Port) : (s.setPort p x).lastCh = s.lastCh := rfl
@[simp] theorem setPort_moves (p : Nat) (x : Port) : (s.setPort p x).moves = s.moves := rfl
@[simp] theorem setPort_movesUp (p : Nat) (x : Port) : (s.setPort p x).movesUp = s.movesUp := rfl
@[simp] theorem setPort_wakeReq (p : Nat) (x : Port) : (s.setPort p x).wakeReq = s.wakeReq := rfl
@[simp] theorem setPort_arrived (p : Nat) (x : Port) : (s.setPort p x).arrived = s.arrived := rfl
@[simp] theorem setPort_admFwd (p : Nat) (x : Port) : (s.setPort p x).admFwd = s.admFwd := rfl
@[simp] theorem setPort_copies (p : Nat) (x : Port) : (s.setPort p x).copies = s.copies := rfl
@[simp] theorem setPort_wakeq (p : Nat) (x : Port) : (s.setPort p x).wakeq = s.wakeq := rfl
@[simp] theorem setPort_l1 (p : Nat) (x : Port) : (s.setPort p x).l1 = s.l1 := rfl
@[simp] theorem setPort_d3hot (p : Nat) (x : Port) : (s.setPort p x).d3hot = s.d3hot := rfl
@[simp] theorem setPort_lastHost (p : Nat) (x : Port) : (s.setPort p x).lastHost = s.lastHost := rfl
@[simp] theorem setPort_admHeld (p : Nat) (x : Port) : (s.setPort p x).admHeld = s.admHeld := rfl
@[simp] theorem setPort_tenGone (p : Nat) (x : Port) : (s.setPort p x).tenGone = s.tenGone := rfl
@[simp] theorem setPort_tenWant (p : Nat) (x : Port) : (s.setPort p x).tenWant = s.tenWant := rfl
@[simp] theorem setPort_keys (p : Nat) (x : Port) : (s.setPort p x).keys = s.keys := rfl
@[simp] theorem setPort_nonces (p : Nat) (x : Port) : (s.setPort p x).nonces = s.nonces := rfl
@[simp] theorem setPort_planNext (p : Nat) (x : Port) : (s.setPort p x).planNext = s.planNext := rfl
@[simp] theorem setPort_groups (p : Nat) (x : Port) : (s.setPort p x).groups = s.groups := rfl
@[simp] theorem setPort_repair (p : Nat) (x : Port) : (s.setPort p x).repair = s.repair := rfl
@[simp] theorem setPort_rxMsgs (p : Nat) (x : Port) : (s.setPort p x).rxMsgs = s.rxMsgs := rfl
@[simp] theorem setPort_acksIn (p : Nat) (x : Port) : (s.setPort p x).acksIn = s.acksIn := rfl
@[simp] theorem setPort_txSeq (p : Nat) (x : Port) : (s.setPort p x).txSeq = s.txSeq := rfl
@[simp] theorem setPort_unacked (p : Nat) (x : Port) : (s.setPort p x).unacked = s.unacked := rfl
@[simp] theorem setPort_rxSeq (p : Nat) (x : Port) : (s.setPort p x).rxSeq = s.rxSeq := rfl
@[simp] theorem setPort_rxHeld (p : Nat) (x : Port) : (s.setPort p x).rxHeld = s.rxHeld := rfl
@[simp] theorem setPort_hopDrop (p : Nat) (x : Port) : (s.setPort p x).hopDrop = s.hopDrop := rfl
@[simp] theorem setPort_tenantDrop (p : Nat) (x : Port) : (s.setPort p x).tenantDrop = s.tenantDrop := rfl
@[simp] theorem setPort_floodDue (p : Nat) (x : Port) : (s.setPort p x).floodDue = s.floodDue := rfl
@[simp] theorem setPort_viewDue (p : Nat) (x : Port) : (s.setPort p x).viewDue = s.viewDue := rfl
@[simp] theorem setPort_bypMove (p : Nat) (x : Port) : (s.setPort p x).bypMove = s.bypMove := rfl
@[simp] theorem setPort_bypWait (p : Nat) (x : Port) : (s.setPort p x).bypWait = s.bypWait := rfl
@[simp] theorem setPort_bypPin (p : Nat) (x : Port) : (s.setPort p x).bypPin = s.bypPin := rfl
@[simp] theorem setPort_pavane (p : Nat) (x : Port) : (s.setPort p x).pavane = s.pavane := rfl
@[simp] theorem setPort_bars (p : Nat) (x : Port) : (s.setPort p x).bars = s.bars := rfl
@[simp] theorem setPort_releases (p : Nat) (x : Port) : (s.setPort p x).releases = s.releases := rfl
@[simp] theorem setPort_lateRel (p : Nat) (x : Port) : (s.setPort p x).lateRel = s.lateRel := rfl
@[simp] theorem setPort_colls (p : Nat) (x : Port) : (s.setPort p x).colls = s.colls := rfl
@[simp] theorem setPort_supply (p : Nat) (x : Port) : (s.setPort p x).supply = s.supply := rfl
@[simp] theorem setPort_boot (p : Nat) (x : Port) : (s.setPort p x).boot = s.boot := rfl
@[simp] theorem setPort_dom (p : Nat) (x : Port) : (s.setPort p x).dom = s.dom := rfl
@[simp] theorem setPort_mgmt (p : Nat) (x : Port) : (s.setPort p x).mgmt = s.mgmt := rfl
@[simp] theorem setPort_keyDraws (p : Nat) (x : Port) : (s.setPort p x).keyDraws = s.keyDraws := rfl
@[simp] theorem setPort_memKey (p : Nat) (x : Port) : (s.setPort p x).memKey = s.memKey := rfl
@[simp] theorem setPort_caFail (p : Nat) (x : Port) : (s.setPort p x).caFail = s.caFail := rfl
@[simp] theorem setPort_pllLost (p : Nat) (x : Port) : (s.setPort p x).pllLost = s.pllLost := rfl
@[simp] theorem setPort_clrDead (p : Nat) (x : Port) : (s.setPort p x).clrDead = s.clrDead := rfl
@[simp] theorem setPort_bgAt (p : Nat) (x : Port) : (s.setPort p x).bgAt = s.bgAt := rfl
@[simp] theorem setPort_bgSlice (p : Nat) (x : Port) : (s.setPort p x).bgSlice = s.bgSlice := rfl
@[simp] theorem setPort_halfRd (p : Nat) (x : Port) : (s.setPort p x).halfRd = s.halfRd := rfl
@[simp] theorem setPort_halfWr (p : Nat) (x : Port) : (s.setPort p x).halfWr = s.halfWr := rfl
@[simp] theorem setPort_lockvSeen (p : Nat) (x : Port) : (s.setPort p x).lockvSeen = s.lockvSeen := rfl
@[simp] theorem setPort_tlmAt (p : Nat) (x : Port) : (s.setPort p x).tlmAt = s.tlmAt := rfl
@[simp] theorem setPort_tlmBase (p : Nat) (x : Port) : (s.setPort p x).tlmBase = s.tlmBase := rfl
@[simp] theorem setReg_pending (o : Nat) (v : W64) : (s.setReg o v).pending = s.pending := rfl
@[simp] theorem setReg_now (o : Nat) (v : W64) : (s.setReg o v).now = s.now := rfl
@[simp] theorem setReg_freeCtr (o : Nat) (v : W64) : (s.setReg o v).freeCtr = s.freeCtr := rfl
@[simp] theorem setReg_out (o : Nat) (v : W64) : (s.setReg o v).out = s.out := rfl
@[simp] theorem setReg_pav (o : Nat) (v : W64) : (s.setReg o v).pav = s.pav := rfl
@[simp] theorem setReg_eng (o : Nat) (v : W64) : (s.setReg o v).eng = s.eng := rfl
@[simp] theorem setReg_images (o : Nat) (v : W64) : (s.setReg o v).images = s.images := rfl
@[simp] theorem setReg_items (o : Nat) (v : W64) : (s.setReg o v).items = s.items := rfl
@[simp] theorem setReg_nextItem (o : Nat) (v : W64) : (s.setReg o v).nextItem = s.nextItem := rfl
@[simp] theorem setReg_net (o : Nat) (v : W64) : (s.setReg o v).net = s.net := rfl
@[simp] theorem setReg_tokens (o : Nat) (v : W64) : (s.setReg o v).tokens = s.tokens := rfl
@[simp] theorem setReg_netSent (o : Nat) (v : W64) : (s.setReg o v).netSent = s.netSent := rfl
@[simp] theorem setReg_netWrr (o : Nat) (v : W64) : (s.setReg o v).netWrr = s.netWrr := rfl
@[simp] theorem setReg_netLast (o : Nat) (v : W64) : (s.setReg o v).netLast = s.netLast := rfl
@[simp] theorem setReg_mem (o : Nat) (v : W64) : (s.setReg o v).mem = s.mem := rfl
@[simp] theorem setReg_evHeld (o : Nat) (v : W64) : (s.setReg o v).evHeld = s.evHeld := rfl
@[simp] theorem setReg_evLost (o : Nat) (v : W64) : (s.setReg o v).evLost = s.evLost := rfl
@[simp] theorem setReg_streams (o : Nat) (v : W64) : (s.setReg o v).streams = s.streams := rfl
@[simp] theorem setReg_preds (o : Nat) (v : W64) : (s.setReg o v).preds = s.preds := rfl
@[simp] theorem setReg_chans (o : Nat) (v : W64) : (s.setReg o v).chans = s.chans := rfl
@[simp] theorem setReg_gens (o : Nat) (v : W64) : (s.setReg o v).gens = s.gens := rfl
@[simp] theorem setReg_watch (o : Nat) (v : W64) : (s.setReg o v).watch = s.watch := rfl
@[simp] theorem setReg_rings (o : Nat) (v : W64) : (s.setReg o v).rings = s.rings := rfl
@[simp] theorem setReg_reads (o : Nat) (v : W64) : (s.setReg o v).reads = s.reads := rfl
@[simp] theorem setReg_nextTag (o : Nat) (v : W64) : (s.setReg o v).nextTag = s.nextTag := rfl
@[simp] theorem setReg_vecs (o : Nat) (v : W64) : (s.setReg o v).vecs = s.vecs := rfl
@[simp] theorem setReg_outbox (o : Nat) (v : W64) : (s.setReg o v).outbox = s.outbox := rfl
@[simp] theorem setReg_regions (o : Nat) (v : W64) : (s.setReg o v).regions = s.regions := rfl
@[simp] theorem setReg_grans (o : Nat) (v : W64) : (s.setReg o v).grans = s.grans := rfl
@[simp] theorem setReg_rack (o : Nat) (v : W64) : (s.setReg o v).rack = s.rack := rfl
@[simp] theorem setReg_view (o : Nat) (v : W64) : (s.setReg o v).view = s.view := rfl
@[simp] theorem setReg_tables (o : Nat) (v : W64) : (s.setReg o v).tables = s.tables := rfl
@[simp] theorem setReg_insts (o : Nat) (v : W64) : (s.setReg o v).insts = s.insts := rfl
@[simp] theorem setReg_nextInst (o : Nat) (v : W64) : (s.setReg o v).nextInst = s.nextInst := rfl
@[simp] theorem setReg_qwait (o : Nat) (v : W64) : (s.setReg o v).qwait = s.qwait := rfl
@[simp] theorem setReg_rbufs (o : Nat) (v : W64) : (s.setReg o v).rbufs = s.rbufs := rfl
@[simp] theorem setReg_jobs (o : Nat) (v : W64) : (s.setReg o v).jobs = s.jobs := rfl
@[simp] theorem setReg_nextJob (o : Nat) (v : W64) : (s.setReg o v).nextJob = s.nextJob := rfl
@[simp] theorem setReg_slots (o : Nat) (v : W64) : (s.setReg o v).slots = s.slots := rfl
@[simp] theorem setReg_inbox (o : Nat) (v : W64) : (s.setReg o v).inbox = s.inbox := rfl
@[simp] theorem setReg_tlmAcc (o : Nat) (v : W64) : (s.setReg o v).tlmAcc = s.tlmAcc := rfl
@[simp] theorem setReg_nwCfg (o : Nat) (v : W64) : (s.setReg o v).nwCfg = s.nwCfg := rfl
@[simp] theorem setReg_nwSt (o : Nat) (v : W64) : (s.setReg o v).nwSt = s.nwSt := rfl
@[simp] theorem setReg_seqs (o : Nat) (v : W64) : (s.setReg o v).seqs = s.seqs := rfl
@[simp] theorem setReg_nextSeq (o : Nat) (v : W64) : (s.setReg o v).nextSeq = s.nextSeq := rfl
@[simp] theorem setReg_nextCommit (o : Nat) (v : W64) : (s.setReg o v).nextCommit = s.nextCommit := rfl
@[simp] theorem setReg_decHist (o : Nat) (v : W64) : (s.setReg o v).decHist = s.decHist := rfl
@[simp] theorem setReg_preHist (o : Nat) (v : W64) : (s.setReg o v).preHist = s.preHist := rfl
@[simp] theorem setReg_thr (o : Nat) (v : W64) : (s.setReg o v).thr = s.thr := rfl
@[simp] theorem setReg_throttling (o : Nat) (v : W64) : (s.setReg o v).throttling = s.throttling := rfl
@[simp] theorem setReg_frz (o : Nat) (v : W64) : (s.setReg o v).frz = s.frz := rfl
@[simp] theorem setReg_qSince (o : Nat) (v : W64) : (s.setReg o v).qSince = s.qSince := rfl
@[simp] theorem setReg_wrr (o : Nat) (v : W64) : (s.setReg o v).wrr = s.wrr := rfl
@[simp] theorem setReg_lastCh (o : Nat) (v : W64) : (s.setReg o v).lastCh = s.lastCh := rfl
@[simp] theorem setReg_moves (o : Nat) (v : W64) : (s.setReg o v).moves = s.moves := rfl
@[simp] theorem setReg_movesUp (o : Nat) (v : W64) : (s.setReg o v).movesUp = s.movesUp := rfl
@[simp] theorem setReg_wakeReq (o : Nat) (v : W64) : (s.setReg o v).wakeReq = s.wakeReq := rfl
@[simp] theorem setReg_arrived (o : Nat) (v : W64) : (s.setReg o v).arrived = s.arrived := rfl
@[simp] theorem setReg_admFwd (o : Nat) (v : W64) : (s.setReg o v).admFwd = s.admFwd := rfl
@[simp] theorem setReg_copies (o : Nat) (v : W64) : (s.setReg o v).copies = s.copies := rfl
@[simp] theorem setReg_wakeq (o : Nat) (v : W64) : (s.setReg o v).wakeq = s.wakeq := rfl
@[simp] theorem setReg_l1 (o : Nat) (v : W64) : (s.setReg o v).l1 = s.l1 := rfl
@[simp] theorem setReg_d3hot (o : Nat) (v : W64) : (s.setReg o v).d3hot = s.d3hot := rfl
@[simp] theorem setReg_lastHost (o : Nat) (v : W64) : (s.setReg o v).lastHost = s.lastHost := rfl
@[simp] theorem setReg_admHeld (o : Nat) (v : W64) : (s.setReg o v).admHeld = s.admHeld := rfl
@[simp] theorem setReg_tenGone (o : Nat) (v : W64) : (s.setReg o v).tenGone = s.tenGone := rfl
@[simp] theorem setReg_tenWant (o : Nat) (v : W64) : (s.setReg o v).tenWant = s.tenWant := rfl
@[simp] theorem setReg_keys (o : Nat) (v : W64) : (s.setReg o v).keys = s.keys := rfl
@[simp] theorem setReg_nonces (o : Nat) (v : W64) : (s.setReg o v).nonces = s.nonces := rfl
@[simp] theorem setReg_planNext (o : Nat) (v : W64) : (s.setReg o v).planNext = s.planNext := rfl
@[simp] theorem setReg_groups (o : Nat) (v : W64) : (s.setReg o v).groups = s.groups := rfl
@[simp] theorem setReg_repair (o : Nat) (v : W64) : (s.setReg o v).repair = s.repair := rfl
@[simp] theorem setReg_ports (o : Nat) (v : W64) : (s.setReg o v).ports = s.ports := rfl
@[simp] theorem setReg_rxMsgs (o : Nat) (v : W64) : (s.setReg o v).rxMsgs = s.rxMsgs := rfl
@[simp] theorem setReg_acksIn (o : Nat) (v : W64) : (s.setReg o v).acksIn = s.acksIn := rfl
@[simp] theorem setReg_txSeq (o : Nat) (v : W64) : (s.setReg o v).txSeq = s.txSeq := rfl
@[simp] theorem setReg_unacked (o : Nat) (v : W64) : (s.setReg o v).unacked = s.unacked := rfl
@[simp] theorem setReg_rxSeq (o : Nat) (v : W64) : (s.setReg o v).rxSeq = s.rxSeq := rfl
@[simp] theorem setReg_rxHeld (o : Nat) (v : W64) : (s.setReg o v).rxHeld = s.rxHeld := rfl
@[simp] theorem setReg_hopDrop (o : Nat) (v : W64) : (s.setReg o v).hopDrop = s.hopDrop := rfl
@[simp] theorem setReg_tenantDrop (o : Nat) (v : W64) : (s.setReg o v).tenantDrop = s.tenantDrop := rfl
@[simp] theorem setReg_floodDue (o : Nat) (v : W64) : (s.setReg o v).floodDue = s.floodDue := rfl
@[simp] theorem setReg_viewDue (o : Nat) (v : W64) : (s.setReg o v).viewDue = s.viewDue := rfl
@[simp] theorem setReg_bypMove (o : Nat) (v : W64) : (s.setReg o v).bypMove = s.bypMove := rfl
@[simp] theorem setReg_bypWait (o : Nat) (v : W64) : (s.setReg o v).bypWait = s.bypWait := rfl
@[simp] theorem setReg_bypPin (o : Nat) (v : W64) : (s.setReg o v).bypPin = s.bypPin := rfl
@[simp] theorem setReg_pavane (o : Nat) (v : W64) : (s.setReg o v).pavane = s.pavane := rfl
@[simp] theorem setReg_bars (o : Nat) (v : W64) : (s.setReg o v).bars = s.bars := rfl
@[simp] theorem setReg_releases (o : Nat) (v : W64) : (s.setReg o v).releases = s.releases := rfl
@[simp] theorem setReg_lateRel (o : Nat) (v : W64) : (s.setReg o v).lateRel = s.lateRel := rfl
@[simp] theorem setReg_colls (o : Nat) (v : W64) : (s.setReg o v).colls = s.colls := rfl
@[simp] theorem setReg_supply (o : Nat) (v : W64) : (s.setReg o v).supply = s.supply := rfl
@[simp] theorem setReg_boot (o : Nat) (v : W64) : (s.setReg o v).boot = s.boot := rfl
@[simp] theorem setReg_dom (o : Nat) (v : W64) : (s.setReg o v).dom = s.dom := rfl
@[simp] theorem setReg_mgmt (o : Nat) (v : W64) : (s.setReg o v).mgmt = s.mgmt := rfl
@[simp] theorem setReg_keyDraws (o : Nat) (v : W64) : (s.setReg o v).keyDraws = s.keyDraws := rfl
@[simp] theorem setReg_memKey (o : Nat) (v : W64) : (s.setReg o v).memKey = s.memKey := rfl
@[simp] theorem setReg_caFail (o : Nat) (v : W64) : (s.setReg o v).caFail = s.caFail := rfl
@[simp] theorem setReg_pllLost (o : Nat) (v : W64) : (s.setReg o v).pllLost = s.pllLost := rfl
@[simp] theorem setReg_clrDead (o : Nat) (v : W64) : (s.setReg o v).clrDead = s.clrDead := rfl
@[simp] theorem setReg_bgAt (o : Nat) (v : W64) : (s.setReg o v).bgAt = s.bgAt := rfl
@[simp] theorem setReg_bgSlice (o : Nat) (v : W64) : (s.setReg o v).bgSlice = s.bgSlice := rfl
@[simp] theorem setReg_halfRd (o : Nat) (v : W64) : (s.setReg o v).halfRd = s.halfRd := rfl
@[simp] theorem setReg_halfWr (o : Nat) (v : W64) : (s.setReg o v).halfWr = s.halfWr := rfl
@[simp] theorem setReg_lockvSeen (o : Nat) (v : W64) : (s.setReg o v).lockvSeen = s.lockvSeen := rfl
@[simp] theorem setReg_tlmAt (o : Nat) (v : W64) : (s.setReg o v).tlmAt = s.tlmAt := rfl
@[simp] theorem setReg_tlmBase (o : Nat) (v : W64) : (s.setReg o v).tlmBase = s.tlmBase := rfl
@[simp] theorem count_pending (o n : Nat) : (s.count o n).pending = s.pending := rfl
@[simp] theorem count_now (o n : Nat) : (s.count o n).now = s.now := rfl
@[simp] theorem count_freeCtr (o n : Nat) : (s.count o n).freeCtr = s.freeCtr := rfl
@[simp] theorem count_out (o n : Nat) : (s.count o n).out = s.out := rfl
@[simp] theorem count_pav (o n : Nat) : (s.count o n).pav = s.pav := rfl
@[simp] theorem count_eng (o n : Nat) : (s.count o n).eng = s.eng := rfl
@[simp] theorem count_images (o n : Nat) : (s.count o n).images = s.images := rfl
@[simp] theorem count_items (o n : Nat) : (s.count o n).items = s.items := rfl
@[simp] theorem count_nextItem (o n : Nat) : (s.count o n).nextItem = s.nextItem := rfl
@[simp] theorem count_net (o n : Nat) : (s.count o n).net = s.net := rfl
@[simp] theorem count_tokens (o n : Nat) : (s.count o n).tokens = s.tokens := rfl
@[simp] theorem count_netSent (o n : Nat) : (s.count o n).netSent = s.netSent := rfl
@[simp] theorem count_netWrr (o n : Nat) : (s.count o n).netWrr = s.netWrr := rfl
@[simp] theorem count_netLast (o n : Nat) : (s.count o n).netLast = s.netLast := rfl
@[simp] theorem count_mem (o n : Nat) : (s.count o n).mem = s.mem := rfl
@[simp] theorem count_evHeld (o n : Nat) : (s.count o n).evHeld = s.evHeld := rfl
@[simp] theorem count_evLost (o n : Nat) : (s.count o n).evLost = s.evLost := rfl
@[simp] theorem count_streams (o n : Nat) : (s.count o n).streams = s.streams := rfl
@[simp] theorem count_preds (o n : Nat) : (s.count o n).preds = s.preds := rfl
@[simp] theorem count_chans (o n : Nat) : (s.count o n).chans = s.chans := rfl
@[simp] theorem count_gens (o n : Nat) : (s.count o n).gens = s.gens := rfl
@[simp] theorem count_watch (o n : Nat) : (s.count o n).watch = s.watch := rfl
@[simp] theorem count_rings (o n : Nat) : (s.count o n).rings = s.rings := rfl
@[simp] theorem count_reads (o n : Nat) : (s.count o n).reads = s.reads := rfl
@[simp] theorem count_nextTag (o n : Nat) : (s.count o n).nextTag = s.nextTag := rfl
@[simp] theorem count_vecs (o n : Nat) : (s.count o n).vecs = s.vecs := rfl
@[simp] theorem count_outbox (o n : Nat) : (s.count o n).outbox = s.outbox := rfl
@[simp] theorem count_regions (o n : Nat) : (s.count o n).regions = s.regions := rfl
@[simp] theorem count_grans (o n : Nat) : (s.count o n).grans = s.grans := rfl
@[simp] theorem count_rack (o n : Nat) : (s.count o n).rack = s.rack := rfl
@[simp] theorem count_view (o n : Nat) : (s.count o n).view = s.view := rfl
@[simp] theorem count_tables (o n : Nat) : (s.count o n).tables = s.tables := rfl
@[simp] theorem count_insts (o n : Nat) : (s.count o n).insts = s.insts := rfl
@[simp] theorem count_nextInst (o n : Nat) : (s.count o n).nextInst = s.nextInst := rfl
@[simp] theorem count_qwait (o n : Nat) : (s.count o n).qwait = s.qwait := rfl
@[simp] theorem count_rbufs (o n : Nat) : (s.count o n).rbufs = s.rbufs := rfl
@[simp] theorem count_jobs (o n : Nat) : (s.count o n).jobs = s.jobs := rfl
@[simp] theorem count_nextJob (o n : Nat) : (s.count o n).nextJob = s.nextJob := rfl
@[simp] theorem count_slots (o n : Nat) : (s.count o n).slots = s.slots := rfl
@[simp] theorem count_inbox (o n : Nat) : (s.count o n).inbox = s.inbox := rfl
@[simp] theorem count_tlmAcc (o n : Nat) : (s.count o n).tlmAcc = s.tlmAcc := rfl
@[simp] theorem count_nwCfg (o n : Nat) : (s.count o n).nwCfg = s.nwCfg := rfl
@[simp] theorem count_nwSt (o n : Nat) : (s.count o n).nwSt = s.nwSt := rfl
@[simp] theorem count_seqs (o n : Nat) : (s.count o n).seqs = s.seqs := rfl
@[simp] theorem count_nextSeq (o n : Nat) : (s.count o n).nextSeq = s.nextSeq := rfl
@[simp] theorem count_nextCommit (o n : Nat) : (s.count o n).nextCommit = s.nextCommit := rfl
@[simp] theorem count_decHist (o n : Nat) : (s.count o n).decHist = s.decHist := rfl
@[simp] theorem count_preHist (o n : Nat) : (s.count o n).preHist = s.preHist := rfl
@[simp] theorem count_thr (o n : Nat) : (s.count o n).thr = s.thr := rfl
@[simp] theorem count_throttling (o n : Nat) : (s.count o n).throttling = s.throttling := rfl
@[simp] theorem count_frz (o n : Nat) : (s.count o n).frz = s.frz := rfl
@[simp] theorem count_qSince (o n : Nat) : (s.count o n).qSince = s.qSince := rfl
@[simp] theorem count_wrr (o n : Nat) : (s.count o n).wrr = s.wrr := rfl
@[simp] theorem count_lastCh (o n : Nat) : (s.count o n).lastCh = s.lastCh := rfl
@[simp] theorem count_moves (o n : Nat) : (s.count o n).moves = s.moves := rfl
@[simp] theorem count_movesUp (o n : Nat) : (s.count o n).movesUp = s.movesUp := rfl
@[simp] theorem count_wakeReq (o n : Nat) : (s.count o n).wakeReq = s.wakeReq := rfl
@[simp] theorem count_arrived (o n : Nat) : (s.count o n).arrived = s.arrived := rfl
@[simp] theorem count_admFwd (o n : Nat) : (s.count o n).admFwd = s.admFwd := rfl
@[simp] theorem count_copies (o n : Nat) : (s.count o n).copies = s.copies := rfl
@[simp] theorem count_wakeq (o n : Nat) : (s.count o n).wakeq = s.wakeq := rfl
@[simp] theorem count_l1 (o n : Nat) : (s.count o n).l1 = s.l1 := rfl
@[simp] theorem count_d3hot (o n : Nat) : (s.count o n).d3hot = s.d3hot := rfl
@[simp] theorem count_lastHost (o n : Nat) : (s.count o n).lastHost = s.lastHost := rfl
@[simp] theorem count_admHeld (o n : Nat) : (s.count o n).admHeld = s.admHeld := rfl
@[simp] theorem count_tenGone (o n : Nat) : (s.count o n).tenGone = s.tenGone := rfl
@[simp] theorem count_tenWant (o n : Nat) : (s.count o n).tenWant = s.tenWant := rfl
@[simp] theorem count_keys (o n : Nat) : (s.count o n).keys = s.keys := rfl
@[simp] theorem count_nonces (o n : Nat) : (s.count o n).nonces = s.nonces := rfl
@[simp] theorem count_planNext (o n : Nat) : (s.count o n).planNext = s.planNext := rfl
@[simp] theorem count_groups (o n : Nat) : (s.count o n).groups = s.groups := rfl
@[simp] theorem count_repair (o n : Nat) : (s.count o n).repair = s.repair := rfl
@[simp] theorem count_ports (o n : Nat) : (s.count o n).ports = s.ports := rfl
@[simp] theorem count_rxMsgs (o n : Nat) : (s.count o n).rxMsgs = s.rxMsgs := rfl
@[simp] theorem count_acksIn (o n : Nat) : (s.count o n).acksIn = s.acksIn := rfl
@[simp] theorem count_txSeq (o n : Nat) : (s.count o n).txSeq = s.txSeq := rfl
@[simp] theorem count_unacked (o n : Nat) : (s.count o n).unacked = s.unacked := rfl
@[simp] theorem count_rxSeq (o n : Nat) : (s.count o n).rxSeq = s.rxSeq := rfl
@[simp] theorem count_rxHeld (o n : Nat) : (s.count o n).rxHeld = s.rxHeld := rfl
@[simp] theorem count_hopDrop (o n : Nat) : (s.count o n).hopDrop = s.hopDrop := rfl
@[simp] theorem count_tenantDrop (o n : Nat) : (s.count o n).tenantDrop = s.tenantDrop := rfl
@[simp] theorem count_floodDue (o n : Nat) : (s.count o n).floodDue = s.floodDue := rfl
@[simp] theorem count_viewDue (o n : Nat) : (s.count o n).viewDue = s.viewDue := rfl
@[simp] theorem count_bypMove (o n : Nat) : (s.count o n).bypMove = s.bypMove := rfl
@[simp] theorem count_bypWait (o n : Nat) : (s.count o n).bypWait = s.bypWait := rfl
@[simp] theorem count_bypPin (o n : Nat) : (s.count o n).bypPin = s.bypPin := rfl
@[simp] theorem count_pavane (o n : Nat) : (s.count o n).pavane = s.pavane := rfl
@[simp] theorem count_bars (o n : Nat) : (s.count o n).bars = s.bars := rfl
@[simp] theorem count_releases (o n : Nat) : (s.count o n).releases = s.releases := rfl
@[simp] theorem count_lateRel (o n : Nat) : (s.count o n).lateRel = s.lateRel := rfl
@[simp] theorem count_colls (o n : Nat) : (s.count o n).colls = s.colls := rfl
@[simp] theorem count_supply (o n : Nat) : (s.count o n).supply = s.supply := rfl
@[simp] theorem count_boot (o n : Nat) : (s.count o n).boot = s.boot := rfl
@[simp] theorem count_dom (o n : Nat) : (s.count o n).dom = s.dom := rfl
@[simp] theorem count_mgmt (o n : Nat) : (s.count o n).mgmt = s.mgmt := rfl
@[simp] theorem count_keyDraws (o n : Nat) : (s.count o n).keyDraws = s.keyDraws := rfl
@[simp] theorem count_memKey (o n : Nat) : (s.count o n).memKey = s.memKey := rfl
@[simp] theorem count_caFail (o n : Nat) : (s.count o n).caFail = s.caFail := rfl
@[simp] theorem count_pllLost (o n : Nat) : (s.count o n).pllLost = s.pllLost := rfl
@[simp] theorem count_clrDead (o n : Nat) : (s.count o n).clrDead = s.clrDead := rfl
@[simp] theorem count_bgAt (o n : Nat) : (s.count o n).bgAt = s.bgAt := rfl
@[simp] theorem count_bgSlice (o n : Nat) : (s.count o n).bgSlice = s.bgSlice := rfl
@[simp] theorem count_halfRd (o n : Nat) : (s.count o n).halfRd = s.halfRd := rfl
@[simp] theorem count_halfWr (o n : Nat) : (s.count o n).halfWr = s.halfWr := rfl
@[simp] theorem count_lockvSeen (o n : Nat) : (s.count o n).lockvSeen = s.lockvSeen := rfl
@[simp] theorem count_tlmAt (o n : Nat) : (s.count o n).tlmAt = s.tlmAt := rfl
@[simp] theorem count_tlmBase (o n : Nat) : (s.count o n).tlmBase = s.tlmBase := rfl
@[simp] theorem setField_pending (o lo len v : Nat) : (s.setField o lo len v).pending = s.pending := rfl
@[simp] theorem setField_now (o lo len v : Nat) : (s.setField o lo len v).now = s.now := rfl
@[simp] theorem setField_freeCtr (o lo len v : Nat) : (s.setField o lo len v).freeCtr = s.freeCtr := rfl
@[simp] theorem setField_out (o lo len v : Nat) : (s.setField o lo len v).out = s.out := rfl
@[simp] theorem setField_pav (o lo len v : Nat) : (s.setField o lo len v).pav = s.pav := rfl
@[simp] theorem setField_eng (o lo len v : Nat) : (s.setField o lo len v).eng = s.eng := rfl
@[simp] theorem setField_images (o lo len v : Nat) : (s.setField o lo len v).images = s.images := rfl
@[simp] theorem setField_items (o lo len v : Nat) : (s.setField o lo len v).items = s.items := rfl
@[simp] theorem setField_nextItem (o lo len v : Nat) : (s.setField o lo len v).nextItem = s.nextItem := rfl
@[simp] theorem setField_net (o lo len v : Nat) : (s.setField o lo len v).net = s.net := rfl
@[simp] theorem setField_tokens (o lo len v : Nat) : (s.setField o lo len v).tokens = s.tokens := rfl
@[simp] theorem setField_netSent (o lo len v : Nat) : (s.setField o lo len v).netSent = s.netSent := rfl
@[simp] theorem setField_netWrr (o lo len v : Nat) : (s.setField o lo len v).netWrr = s.netWrr := rfl
@[simp] theorem setField_netLast (o lo len v : Nat) : (s.setField o lo len v).netLast = s.netLast := rfl
@[simp] theorem setField_mem (o lo len v : Nat) : (s.setField o lo len v).mem = s.mem := rfl
@[simp] theorem setField_evHeld (o lo len v : Nat) : (s.setField o lo len v).evHeld = s.evHeld := rfl
@[simp] theorem setField_evLost (o lo len v : Nat) : (s.setField o lo len v).evLost = s.evLost := rfl
@[simp] theorem setField_streams (o lo len v : Nat) : (s.setField o lo len v).streams = s.streams := rfl
@[simp] theorem setField_preds (o lo len v : Nat) : (s.setField o lo len v).preds = s.preds := rfl
@[simp] theorem setField_chans (o lo len v : Nat) : (s.setField o lo len v).chans = s.chans := rfl
@[simp] theorem setField_gens (o lo len v : Nat) : (s.setField o lo len v).gens = s.gens := rfl
@[simp] theorem setField_watch (o lo len v : Nat) : (s.setField o lo len v).watch = s.watch := rfl
@[simp] theorem setField_rings (o lo len v : Nat) : (s.setField o lo len v).rings = s.rings := rfl
@[simp] theorem setField_reads (o lo len v : Nat) : (s.setField o lo len v).reads = s.reads := rfl
@[simp] theorem setField_nextTag (o lo len v : Nat) : (s.setField o lo len v).nextTag = s.nextTag := rfl
@[simp] theorem setField_vecs (o lo len v : Nat) : (s.setField o lo len v).vecs = s.vecs := rfl
@[simp] theorem setField_outbox (o lo len v : Nat) : (s.setField o lo len v).outbox = s.outbox := rfl
@[simp] theorem setField_regions (o lo len v : Nat) : (s.setField o lo len v).regions = s.regions := rfl
@[simp] theorem setField_grans (o lo len v : Nat) : (s.setField o lo len v).grans = s.grans := rfl
@[simp] theorem setField_rack (o lo len v : Nat) : (s.setField o lo len v).rack = s.rack := rfl
@[simp] theorem setField_view (o lo len v : Nat) : (s.setField o lo len v).view = s.view := rfl
@[simp] theorem setField_tables (o lo len v : Nat) : (s.setField o lo len v).tables = s.tables := rfl
@[simp] theorem setField_insts (o lo len v : Nat) : (s.setField o lo len v).insts = s.insts := rfl
@[simp] theorem setField_nextInst (o lo len v : Nat) : (s.setField o lo len v).nextInst = s.nextInst := rfl
@[simp] theorem setField_qwait (o lo len v : Nat) : (s.setField o lo len v).qwait = s.qwait := rfl
@[simp] theorem setField_rbufs (o lo len v : Nat) : (s.setField o lo len v).rbufs = s.rbufs := rfl
@[simp] theorem setField_jobs (o lo len v : Nat) : (s.setField o lo len v).jobs = s.jobs := rfl
@[simp] theorem setField_nextJob (o lo len v : Nat) : (s.setField o lo len v).nextJob = s.nextJob := rfl
@[simp] theorem setField_slots (o lo len v : Nat) : (s.setField o lo len v).slots = s.slots := rfl
@[simp] theorem setField_inbox (o lo len v : Nat) : (s.setField o lo len v).inbox = s.inbox := rfl
@[simp] theorem setField_tlmAcc (o lo len v : Nat) : (s.setField o lo len v).tlmAcc = s.tlmAcc := rfl
@[simp] theorem setField_nwCfg (o lo len v : Nat) : (s.setField o lo len v).nwCfg = s.nwCfg := rfl
@[simp] theorem setField_nwSt (o lo len v : Nat) : (s.setField o lo len v).nwSt = s.nwSt := rfl
@[simp] theorem setField_seqs (o lo len v : Nat) : (s.setField o lo len v).seqs = s.seqs := rfl
@[simp] theorem setField_nextSeq (o lo len v : Nat) : (s.setField o lo len v).nextSeq = s.nextSeq := rfl
@[simp] theorem setField_nextCommit (o lo len v : Nat) : (s.setField o lo len v).nextCommit = s.nextCommit := rfl
@[simp] theorem setField_decHist (o lo len v : Nat) : (s.setField o lo len v).decHist = s.decHist := rfl
@[simp] theorem setField_preHist (o lo len v : Nat) : (s.setField o lo len v).preHist = s.preHist := rfl
@[simp] theorem setField_thr (o lo len v : Nat) : (s.setField o lo len v).thr = s.thr := rfl
@[simp] theorem setField_throttling (o lo len v : Nat) : (s.setField o lo len v).throttling = s.throttling := rfl
@[simp] theorem setField_frz (o lo len v : Nat) : (s.setField o lo len v).frz = s.frz := rfl
@[simp] theorem setField_qSince (o lo len v : Nat) : (s.setField o lo len v).qSince = s.qSince := rfl
@[simp] theorem setField_wrr (o lo len v : Nat) : (s.setField o lo len v).wrr = s.wrr := rfl
@[simp] theorem setField_lastCh (o lo len v : Nat) : (s.setField o lo len v).lastCh = s.lastCh := rfl
@[simp] theorem setField_moves (o lo len v : Nat) : (s.setField o lo len v).moves = s.moves := rfl
@[simp] theorem setField_movesUp (o lo len v : Nat) : (s.setField o lo len v).movesUp = s.movesUp := rfl
@[simp] theorem setField_wakeReq (o lo len v : Nat) : (s.setField o lo len v).wakeReq = s.wakeReq := rfl
@[simp] theorem setField_arrived (o lo len v : Nat) : (s.setField o lo len v).arrived = s.arrived := rfl
@[simp] theorem setField_admFwd (o lo len v : Nat) : (s.setField o lo len v).admFwd = s.admFwd := rfl
@[simp] theorem setField_copies (o lo len v : Nat) : (s.setField o lo len v).copies = s.copies := rfl
@[simp] theorem setField_wakeq (o lo len v : Nat) : (s.setField o lo len v).wakeq = s.wakeq := rfl
@[simp] theorem setField_l1 (o lo len v : Nat) : (s.setField o lo len v).l1 = s.l1 := rfl
@[simp] theorem setField_d3hot (o lo len v : Nat) : (s.setField o lo len v).d3hot = s.d3hot := rfl
@[simp] theorem setField_lastHost (o lo len v : Nat) : (s.setField o lo len v).lastHost = s.lastHost := rfl
@[simp] theorem setField_admHeld (o lo len v : Nat) : (s.setField o lo len v).admHeld = s.admHeld := rfl
@[simp] theorem setField_tenGone (o lo len v : Nat) : (s.setField o lo len v).tenGone = s.tenGone := rfl
@[simp] theorem setField_tenWant (o lo len v : Nat) : (s.setField o lo len v).tenWant = s.tenWant := rfl
@[simp] theorem setField_keys (o lo len v : Nat) : (s.setField o lo len v).keys = s.keys := rfl
@[simp] theorem setField_nonces (o lo len v : Nat) : (s.setField o lo len v).nonces = s.nonces := rfl
@[simp] theorem setField_planNext (o lo len v : Nat) : (s.setField o lo len v).planNext = s.planNext := rfl
@[simp] theorem setField_groups (o lo len v : Nat) : (s.setField o lo len v).groups = s.groups := rfl
@[simp] theorem setField_repair (o lo len v : Nat) : (s.setField o lo len v).repair = s.repair := rfl
@[simp] theorem setField_ports (o lo len v : Nat) : (s.setField o lo len v).ports = s.ports := rfl
@[simp] theorem setField_rxMsgs (o lo len v : Nat) : (s.setField o lo len v).rxMsgs = s.rxMsgs := rfl
@[simp] theorem setField_acksIn (o lo len v : Nat) : (s.setField o lo len v).acksIn = s.acksIn := rfl
@[simp] theorem setField_txSeq (o lo len v : Nat) : (s.setField o lo len v).txSeq = s.txSeq := rfl
@[simp] theorem setField_unacked (o lo len v : Nat) : (s.setField o lo len v).unacked = s.unacked := rfl
@[simp] theorem setField_rxSeq (o lo len v : Nat) : (s.setField o lo len v).rxSeq = s.rxSeq := rfl
@[simp] theorem setField_rxHeld (o lo len v : Nat) : (s.setField o lo len v).rxHeld = s.rxHeld := rfl
@[simp] theorem setField_hopDrop (o lo len v : Nat) : (s.setField o lo len v).hopDrop = s.hopDrop := rfl
@[simp] theorem setField_tenantDrop (o lo len v : Nat) : (s.setField o lo len v).tenantDrop = s.tenantDrop := rfl
@[simp] theorem setField_floodDue (o lo len v : Nat) : (s.setField o lo len v).floodDue = s.floodDue := rfl
@[simp] theorem setField_viewDue (o lo len v : Nat) : (s.setField o lo len v).viewDue = s.viewDue := rfl
@[simp] theorem setField_bypMove (o lo len v : Nat) : (s.setField o lo len v).bypMove = s.bypMove := rfl
@[simp] theorem setField_bypWait (o lo len v : Nat) : (s.setField o lo len v).bypWait = s.bypWait := rfl
@[simp] theorem setField_bypPin (o lo len v : Nat) : (s.setField o lo len v).bypPin = s.bypPin := rfl
@[simp] theorem setField_pavane (o lo len v : Nat) : (s.setField o lo len v).pavane = s.pavane := rfl
@[simp] theorem setField_bars (o lo len v : Nat) : (s.setField o lo len v).bars = s.bars := rfl
@[simp] theorem setField_releases (o lo len v : Nat) : (s.setField o lo len v).releases = s.releases := rfl
@[simp] theorem setField_lateRel (o lo len v : Nat) : (s.setField o lo len v).lateRel = s.lateRel := rfl
@[simp] theorem setField_colls (o lo len v : Nat) : (s.setField o lo len v).colls = s.colls := rfl
@[simp] theorem setField_supply (o lo len v : Nat) : (s.setField o lo len v).supply = s.supply := rfl
@[simp] theorem setField_boot (o lo len v : Nat) : (s.setField o lo len v).boot = s.boot := rfl
@[simp] theorem setField_dom (o lo len v : Nat) : (s.setField o lo len v).dom = s.dom := rfl
@[simp] theorem setField_mgmt (o lo len v : Nat) : (s.setField o lo len v).mgmt = s.mgmt := rfl
@[simp] theorem setField_keyDraws (o lo len v : Nat) : (s.setField o lo len v).keyDraws = s.keyDraws := rfl
@[simp] theorem setField_memKey (o lo len v : Nat) : (s.setField o lo len v).memKey = s.memKey := rfl
@[simp] theorem setField_caFail (o lo len v : Nat) : (s.setField o lo len v).caFail = s.caFail := rfl
@[simp] theorem setField_pllLost (o lo len v : Nat) : (s.setField o lo len v).pllLost = s.pllLost := rfl
@[simp] theorem setField_clrDead (o lo len v : Nat) : (s.setField o lo len v).clrDead = s.clrDead := rfl
@[simp] theorem setField_bgAt (o lo len v : Nat) : (s.setField o lo len v).bgAt = s.bgAt := rfl
@[simp] theorem setField_bgSlice (o lo len v : Nat) : (s.setField o lo len v).bgSlice = s.bgSlice := rfl
@[simp] theorem setField_halfRd (o lo len v : Nat) : (s.setField o lo len v).halfRd = s.halfRd := rfl
@[simp] theorem setField_halfWr (o lo len v : Nat) : (s.setField o lo len v).halfWr = s.halfWr := rfl
@[simp] theorem setField_lockvSeen (o lo len v : Nat) : (s.setField o lo len v).lockvSeen = s.lockvSeen := rfl
@[simp] theorem setField_tlmAt (o lo len v : Nat) : (s.setField o lo len v).tlmAt = s.tlmAt := rfl
@[simp] theorem setField_tlmBase (o lo len v : Nat) : (s.setField o lo len v).tlmBase = s.tlmBase := rfl
@[simp] theorem emit_pending (o : Out) : (s.emit o).pending = s.pending := rfl
@[simp] theorem emit_now (o : Out) : (s.emit o).now = s.now := rfl
@[simp] theorem emit_freeCtr (o : Out) : (s.emit o).freeCtr = s.freeCtr := rfl
@[simp] theorem emit_pav (o : Out) : (s.emit o).pav = s.pav := rfl
@[simp] theorem emit_eng (o : Out) : (s.emit o).eng = s.eng := rfl
@[simp] theorem emit_images (o : Out) : (s.emit o).images = s.images := rfl
@[simp] theorem emit_items (o : Out) : (s.emit o).items = s.items := rfl
@[simp] theorem emit_nextItem (o : Out) : (s.emit o).nextItem = s.nextItem := rfl
@[simp] theorem emit_net (o : Out) : (s.emit o).net = s.net := rfl
@[simp] theorem emit_tokens (o : Out) : (s.emit o).tokens = s.tokens := rfl
@[simp] theorem emit_netSent (o : Out) : (s.emit o).netSent = s.netSent := rfl
@[simp] theorem emit_netWrr (o : Out) : (s.emit o).netWrr = s.netWrr := rfl
@[simp] theorem emit_netLast (o : Out) : (s.emit o).netLast = s.netLast := rfl
@[simp] theorem emit_mem (o : Out) : (s.emit o).mem = s.mem := rfl
@[simp] theorem emit_regs (o : Out) : (s.emit o).regs = s.regs := rfl
@[simp] theorem emit_evHeld (o : Out) : (s.emit o).evHeld = s.evHeld := rfl
@[simp] theorem emit_evLost (o : Out) : (s.emit o).evLost = s.evLost := rfl
@[simp] theorem emit_streams (o : Out) : (s.emit o).streams = s.streams := rfl
@[simp] theorem emit_preds (o : Out) : (s.emit o).preds = s.preds := rfl
@[simp] theorem emit_chans (o : Out) : (s.emit o).chans = s.chans := rfl
@[simp] theorem emit_gens (o : Out) : (s.emit o).gens = s.gens := rfl
@[simp] theorem emit_watch (o : Out) : (s.emit o).watch = s.watch := rfl
@[simp] theorem emit_rings (o : Out) : (s.emit o).rings = s.rings := rfl
@[simp] theorem emit_reads (o : Out) : (s.emit o).reads = s.reads := rfl
@[simp] theorem emit_nextTag (o : Out) : (s.emit o).nextTag = s.nextTag := rfl
@[simp] theorem emit_vecs (o : Out) : (s.emit o).vecs = s.vecs := rfl
@[simp] theorem emit_outbox (o : Out) : (s.emit o).outbox = s.outbox := rfl
@[simp] theorem emit_regions (o : Out) : (s.emit o).regions = s.regions := rfl
@[simp] theorem emit_grans (o : Out) : (s.emit o).grans = s.grans := rfl
@[simp] theorem emit_rack (o : Out) : (s.emit o).rack = s.rack := rfl
@[simp] theorem emit_view (o : Out) : (s.emit o).view = s.view := rfl
@[simp] theorem emit_tables (o : Out) : (s.emit o).tables = s.tables := rfl
@[simp] theorem emit_insts (o : Out) : (s.emit o).insts = s.insts := rfl
@[simp] theorem emit_nextInst (o : Out) : (s.emit o).nextInst = s.nextInst := rfl
@[simp] theorem emit_qwait (o : Out) : (s.emit o).qwait = s.qwait := rfl
@[simp] theorem emit_rbufs (o : Out) : (s.emit o).rbufs = s.rbufs := rfl
@[simp] theorem emit_jobs (o : Out) : (s.emit o).jobs = s.jobs := rfl
@[simp] theorem emit_nextJob (o : Out) : (s.emit o).nextJob = s.nextJob := rfl
@[simp] theorem emit_slots (o : Out) : (s.emit o).slots = s.slots := rfl
@[simp] theorem emit_inbox (o : Out) : (s.emit o).inbox = s.inbox := rfl
@[simp] theorem emit_tlmAcc (o : Out) : (s.emit o).tlmAcc = s.tlmAcc := rfl
@[simp] theorem emit_nwCfg (o : Out) : (s.emit o).nwCfg = s.nwCfg := rfl
@[simp] theorem emit_nwSt (o : Out) : (s.emit o).nwSt = s.nwSt := rfl
@[simp] theorem emit_seqs (o : Out) : (s.emit o).seqs = s.seqs := rfl
@[simp] theorem emit_nextSeq (o : Out) : (s.emit o).nextSeq = s.nextSeq := rfl
@[simp] theorem emit_nextCommit (o : Out) : (s.emit o).nextCommit = s.nextCommit := rfl
@[simp] theorem emit_decHist (o : Out) : (s.emit o).decHist = s.decHist := rfl
@[simp] theorem emit_preHist (o : Out) : (s.emit o).preHist = s.preHist := rfl
@[simp] theorem emit_thr (o : Out) : (s.emit o).thr = s.thr := rfl
@[simp] theorem emit_throttling (o : Out) : (s.emit o).throttling = s.throttling := rfl
@[simp] theorem emit_frz (o : Out) : (s.emit o).frz = s.frz := rfl
@[simp] theorem emit_qSince (o : Out) : (s.emit o).qSince = s.qSince := rfl
@[simp] theorem emit_wrr (o : Out) : (s.emit o).wrr = s.wrr := rfl
@[simp] theorem emit_lastCh (o : Out) : (s.emit o).lastCh = s.lastCh := rfl
@[simp] theorem emit_moves (o : Out) : (s.emit o).moves = s.moves := rfl
@[simp] theorem emit_movesUp (o : Out) : (s.emit o).movesUp = s.movesUp := rfl
@[simp] theorem emit_wakeReq (o : Out) : (s.emit o).wakeReq = s.wakeReq := rfl
@[simp] theorem emit_arrived (o : Out) : (s.emit o).arrived = s.arrived := rfl
@[simp] theorem emit_admFwd (o : Out) : (s.emit o).admFwd = s.admFwd := rfl
@[simp] theorem emit_copies (o : Out) : (s.emit o).copies = s.copies := rfl
@[simp] theorem emit_wakeq (o : Out) : (s.emit o).wakeq = s.wakeq := rfl
@[simp] theorem emit_l1 (o : Out) : (s.emit o).l1 = s.l1 := rfl
@[simp] theorem emit_d3hot (o : Out) : (s.emit o).d3hot = s.d3hot := rfl
@[simp] theorem emit_lastHost (o : Out) : (s.emit o).lastHost = s.lastHost := rfl
@[simp] theorem emit_admHeld (o : Out) : (s.emit o).admHeld = s.admHeld := rfl
@[simp] theorem emit_tenGone (o : Out) : (s.emit o).tenGone = s.tenGone := rfl
@[simp] theorem emit_tenWant (o : Out) : (s.emit o).tenWant = s.tenWant := rfl
@[simp] theorem emit_keys (o : Out) : (s.emit o).keys = s.keys := rfl
@[simp] theorem emit_nonces (o : Out) : (s.emit o).nonces = s.nonces := rfl
@[simp] theorem emit_planNext (o : Out) : (s.emit o).planNext = s.planNext := rfl
@[simp] theorem emit_groups (o : Out) : (s.emit o).groups = s.groups := rfl
@[simp] theorem emit_repair (o : Out) : (s.emit o).repair = s.repair := rfl
@[simp] theorem emit_ports (o : Out) : (s.emit o).ports = s.ports := rfl
@[simp] theorem emit_rxMsgs (o : Out) : (s.emit o).rxMsgs = s.rxMsgs := rfl
@[simp] theorem emit_acksIn (o : Out) : (s.emit o).acksIn = s.acksIn := rfl
@[simp] theorem emit_txSeq (o : Out) : (s.emit o).txSeq = s.txSeq := rfl
@[simp] theorem emit_unacked (o : Out) : (s.emit o).unacked = s.unacked := rfl
@[simp] theorem emit_rxSeq (o : Out) : (s.emit o).rxSeq = s.rxSeq := rfl
@[simp] theorem emit_rxHeld (o : Out) : (s.emit o).rxHeld = s.rxHeld := rfl
@[simp] theorem emit_hopDrop (o : Out) : (s.emit o).hopDrop = s.hopDrop := rfl
@[simp] theorem emit_tenantDrop (o : Out) : (s.emit o).tenantDrop = s.tenantDrop := rfl
@[simp] theorem emit_floodDue (o : Out) : (s.emit o).floodDue = s.floodDue := rfl
@[simp] theorem emit_viewDue (o : Out) : (s.emit o).viewDue = s.viewDue := rfl
@[simp] theorem emit_bypMove (o : Out) : (s.emit o).bypMove = s.bypMove := rfl
@[simp] theorem emit_bypWait (o : Out) : (s.emit o).bypWait = s.bypWait := rfl
@[simp] theorem emit_bypPin (o : Out) : (s.emit o).bypPin = s.bypPin := rfl
@[simp] theorem emit_pavane (o : Out) : (s.emit o).pavane = s.pavane := rfl
@[simp] theorem emit_bars (o : Out) : (s.emit o).bars = s.bars := rfl
@[simp] theorem emit_releases (o : Out) : (s.emit o).releases = s.releases := rfl
@[simp] theorem emit_lateRel (o : Out) : (s.emit o).lateRel = s.lateRel := rfl
@[simp] theorem emit_colls (o : Out) : (s.emit o).colls = s.colls := rfl
@[simp] theorem emit_supply (o : Out) : (s.emit o).supply = s.supply := rfl
@[simp] theorem emit_boot (o : Out) : (s.emit o).boot = s.boot := rfl
@[simp] theorem emit_dom (o : Out) : (s.emit o).dom = s.dom := rfl
@[simp] theorem emit_mgmt (o : Out) : (s.emit o).mgmt = s.mgmt := rfl
@[simp] theorem emit_keyDraws (o : Out) : (s.emit o).keyDraws = s.keyDraws := rfl
@[simp] theorem emit_memKey (o : Out) : (s.emit o).memKey = s.memKey := rfl
@[simp] theorem emit_caFail (o : Out) : (s.emit o).caFail = s.caFail := rfl
@[simp] theorem emit_pllLost (o : Out) : (s.emit o).pllLost = s.pllLost := rfl
@[simp] theorem emit_clrDead (o : Out) : (s.emit o).clrDead = s.clrDead := rfl
@[simp] theorem emit_bgAt (o : Out) : (s.emit o).bgAt = s.bgAt := rfl
@[simp] theorem emit_bgSlice (o : Out) : (s.emit o).bgSlice = s.bgSlice := rfl
@[simp] theorem emit_halfRd (o : Out) : (s.emit o).halfRd = s.halfRd := rfl
@[simp] theorem emit_halfWr (o : Out) : (s.emit o).halfWr = s.halfWr := rfl
@[simp] theorem emit_lockvSeen (o : Out) : (s.emit o).lockvSeen = s.lockvSeen := rfl
@[simp] theorem emit_tlmAt (o : Out) : (s.emit o).tlmAt = s.tlmAt := rfl
@[simp] theorem emit_tlmBase (o : Out) : (s.emit o).tlmBase = s.tlmBase := rfl
@[simp] theorem send_pending (m : Msg) : (s.send m).pending = s.pending := rfl
@[simp] theorem send_now (m : Msg) : (s.send m).now = s.now := rfl
@[simp] theorem send_freeCtr (m : Msg) : (s.send m).freeCtr = s.freeCtr := rfl
@[simp] theorem send_out (m : Msg) : (s.send m).out = s.out := rfl
@[simp] theorem send_pav (m : Msg) : (s.send m).pav = s.pav := rfl
@[simp] theorem send_eng (m : Msg) : (s.send m).eng = s.eng := rfl
@[simp] theorem send_images (m : Msg) : (s.send m).images = s.images := rfl
@[simp] theorem send_items (m : Msg) : (s.send m).items = s.items := rfl
@[simp] theorem send_nextItem (m : Msg) : (s.send m).nextItem = s.nextItem := rfl
@[simp] theorem send_net (m : Msg) : (s.send m).net = s.net := rfl
@[simp] theorem send_tokens (m : Msg) : (s.send m).tokens = s.tokens := rfl
@[simp] theorem send_netSent (m : Msg) : (s.send m).netSent = s.netSent := rfl
@[simp] theorem send_netWrr (m : Msg) : (s.send m).netWrr = s.netWrr := rfl
@[simp] theorem send_netLast (m : Msg) : (s.send m).netLast = s.netLast := rfl
@[simp] theorem send_mem (m : Msg) : (s.send m).mem = s.mem := rfl
@[simp] theorem send_regs (m : Msg) : (s.send m).regs = s.regs := rfl
@[simp] theorem send_evHeld (m : Msg) : (s.send m).evHeld = s.evHeld := rfl
@[simp] theorem send_evLost (m : Msg) : (s.send m).evLost = s.evLost := rfl
@[simp] theorem send_streams (m : Msg) : (s.send m).streams = s.streams := rfl
@[simp] theorem send_preds (m : Msg) : (s.send m).preds = s.preds := rfl
@[simp] theorem send_chans (m : Msg) : (s.send m).chans = s.chans := rfl
@[simp] theorem send_gens (m : Msg) : (s.send m).gens = s.gens := rfl
@[simp] theorem send_watch (m : Msg) : (s.send m).watch = s.watch := rfl
@[simp] theorem send_rings (m : Msg) : (s.send m).rings = s.rings := rfl
@[simp] theorem send_reads (m : Msg) : (s.send m).reads = s.reads := rfl
@[simp] theorem send_nextTag (m : Msg) : (s.send m).nextTag = s.nextTag := rfl
@[simp] theorem send_vecs (m : Msg) : (s.send m).vecs = s.vecs := rfl
@[simp] theorem send_regions (m : Msg) : (s.send m).regions = s.regions := rfl
@[simp] theorem send_grans (m : Msg) : (s.send m).grans = s.grans := rfl
@[simp] theorem send_rack (m : Msg) : (s.send m).rack = s.rack := rfl
@[simp] theorem send_view (m : Msg) : (s.send m).view = s.view := rfl
@[simp] theorem send_tables (m : Msg) : (s.send m).tables = s.tables := rfl
@[simp] theorem send_insts (m : Msg) : (s.send m).insts = s.insts := rfl
@[simp] theorem send_nextInst (m : Msg) : (s.send m).nextInst = s.nextInst := rfl
@[simp] theorem send_qwait (m : Msg) : (s.send m).qwait = s.qwait := rfl
@[simp] theorem send_rbufs (m : Msg) : (s.send m).rbufs = s.rbufs := rfl
@[simp] theorem send_jobs (m : Msg) : (s.send m).jobs = s.jobs := rfl
@[simp] theorem send_nextJob (m : Msg) : (s.send m).nextJob = s.nextJob := rfl
@[simp] theorem send_slots (m : Msg) : (s.send m).slots = s.slots := rfl
@[simp] theorem send_inbox (m : Msg) : (s.send m).inbox = s.inbox := rfl
@[simp] theorem send_tlmAcc (m : Msg) : (s.send m).tlmAcc = s.tlmAcc := rfl
@[simp] theorem send_nwCfg (m : Msg) : (s.send m).nwCfg = s.nwCfg := rfl
@[simp] theorem send_nwSt (m : Msg) : (s.send m).nwSt = s.nwSt := rfl
@[simp] theorem send_seqs (m : Msg) : (s.send m).seqs = s.seqs := rfl
@[simp] theorem send_nextSeq (m : Msg) : (s.send m).nextSeq = s.nextSeq := rfl
@[simp] theorem send_nextCommit (m : Msg) : (s.send m).nextCommit = s.nextCommit := rfl
@[simp] theorem send_decHist (m : Msg) : (s.send m).decHist = s.decHist := rfl
@[simp] theorem send_preHist (m : Msg) : (s.send m).preHist = s.preHist := rfl
@[simp] theorem send_thr (m : Msg) : (s.send m).thr = s.thr := rfl
@[simp] theorem send_throttling (m : Msg) : (s.send m).throttling = s.throttling := rfl
@[simp] theorem send_frz (m : Msg) : (s.send m).frz = s.frz := rfl
@[simp] theorem send_qSince (m : Msg) : (s.send m).qSince = s.qSince := rfl
@[simp] theorem send_wrr (m : Msg) : (s.send m).wrr = s.wrr := rfl
@[simp] theorem send_lastCh (m : Msg) : (s.send m).lastCh = s.lastCh := rfl
@[simp] theorem send_moves (m : Msg) : (s.send m).moves = s.moves := rfl
@[simp] theorem send_movesUp (m : Msg) : (s.send m).movesUp = s.movesUp := rfl
@[simp] theorem send_wakeReq (m : Msg) : (s.send m).wakeReq = s.wakeReq := rfl
@[simp] theorem send_arrived (m : Msg) : (s.send m).arrived = s.arrived := rfl
@[simp] theorem send_admFwd (m : Msg) : (s.send m).admFwd = s.admFwd := rfl
@[simp] theorem send_copies (m : Msg) : (s.send m).copies = s.copies := rfl
@[simp] theorem send_wakeq (m : Msg) : (s.send m).wakeq = s.wakeq := rfl
@[simp] theorem send_l1 (m : Msg) : (s.send m).l1 = s.l1 := rfl
@[simp] theorem send_d3hot (m : Msg) : (s.send m).d3hot = s.d3hot := rfl
@[simp] theorem send_lastHost (m : Msg) : (s.send m).lastHost = s.lastHost := rfl
@[simp] theorem send_admHeld (m : Msg) : (s.send m).admHeld = s.admHeld := rfl
@[simp] theorem send_tenGone (m : Msg) : (s.send m).tenGone = s.tenGone := rfl
@[simp] theorem send_tenWant (m : Msg) : (s.send m).tenWant = s.tenWant := rfl
@[simp] theorem send_keys (m : Msg) : (s.send m).keys = s.keys := rfl
@[simp] theorem send_nonces (m : Msg) : (s.send m).nonces = s.nonces := rfl
@[simp] theorem send_planNext (m : Msg) : (s.send m).planNext = s.planNext := rfl
@[simp] theorem send_groups (m : Msg) : (s.send m).groups = s.groups := rfl
@[simp] theorem send_repair (m : Msg) : (s.send m).repair = s.repair := rfl
@[simp] theorem send_ports (m : Msg) : (s.send m).ports = s.ports := rfl
@[simp] theorem send_rxMsgs (m : Msg) : (s.send m).rxMsgs = s.rxMsgs := rfl
@[simp] theorem send_acksIn (m : Msg) : (s.send m).acksIn = s.acksIn := rfl
@[simp] theorem send_txSeq (m : Msg) : (s.send m).txSeq = s.txSeq := rfl
@[simp] theorem send_unacked (m : Msg) : (s.send m).unacked = s.unacked := rfl
@[simp] theorem send_rxSeq (m : Msg) : (s.send m).rxSeq = s.rxSeq := rfl
@[simp] theorem send_rxHeld (m : Msg) : (s.send m).rxHeld = s.rxHeld := rfl
@[simp] theorem send_hopDrop (m : Msg) : (s.send m).hopDrop = s.hopDrop := rfl
@[simp] theorem send_tenantDrop (m : Msg) : (s.send m).tenantDrop = s.tenantDrop := rfl
@[simp] theorem send_floodDue (m : Msg) : (s.send m).floodDue = s.floodDue := rfl
@[simp] theorem send_viewDue (m : Msg) : (s.send m).viewDue = s.viewDue := rfl
@[simp] theorem send_bypMove (m : Msg) : (s.send m).bypMove = s.bypMove := rfl
@[simp] theorem send_bypWait (m : Msg) : (s.send m).bypWait = s.bypWait := rfl
@[simp] theorem send_bypPin (m : Msg) : (s.send m).bypPin = s.bypPin := rfl
@[simp] theorem send_pavane (m : Msg) : (s.send m).pavane = s.pavane := rfl
@[simp] theorem send_bars (m : Msg) : (s.send m).bars = s.bars := rfl
@[simp] theorem send_releases (m : Msg) : (s.send m).releases = s.releases := rfl
@[simp] theorem send_lateRel (m : Msg) : (s.send m).lateRel = s.lateRel := rfl
@[simp] theorem send_colls (m : Msg) : (s.send m).colls = s.colls := rfl
@[simp] theorem send_supply (m : Msg) : (s.send m).supply = s.supply := rfl
@[simp] theorem send_boot (m : Msg) : (s.send m).boot = s.boot := rfl
@[simp] theorem send_dom (m : Msg) : (s.send m).dom = s.dom := rfl
@[simp] theorem send_mgmt (m : Msg) : (s.send m).mgmt = s.mgmt := rfl
@[simp] theorem send_keyDraws (m : Msg) : (s.send m).keyDraws = s.keyDraws := rfl
@[simp] theorem send_memKey (m : Msg) : (s.send m).memKey = s.memKey := rfl
@[simp] theorem send_caFail (m : Msg) : (s.send m).caFail = s.caFail := rfl
@[simp] theorem send_pllLost (m : Msg) : (s.send m).pllLost = s.pllLost := rfl
@[simp] theorem send_clrDead (m : Msg) : (s.send m).clrDead = s.clrDead := rfl
@[simp] theorem send_bgAt (m : Msg) : (s.send m).bgAt = s.bgAt := rfl
@[simp] theorem send_bgSlice (m : Msg) : (s.send m).bgSlice = s.bgSlice := rfl
@[simp] theorem send_halfRd (m : Msg) : (s.send m).halfRd = s.halfRd := rfl
@[simp] theorem send_halfWr (m : Msg) : (s.send m).halfWr = s.halfWr := rfl
@[simp] theorem send_lockvSeen (m : Msg) : (s.send m).lockvSeen = s.lockvSeen := rfl
@[simp] theorem send_tlmAt (m : Msg) : (s.send m).tlmAt = s.tlmAt := rfl
@[simp] theorem send_tlmBase (m : Msg) : (s.send m).tlmBase = s.tlmBase := rfl
@[simp] theorem tlm_pending (o n : Nat) : (s.tlm o n).pending = s.pending := rfl
@[simp] theorem tlm_now (o n : Nat) : (s.tlm o n).now = s.now := rfl
@[simp] theorem tlm_freeCtr (o n : Nat) : (s.tlm o n).freeCtr = s.freeCtr := rfl
@[simp] theorem tlm_out (o n : Nat) : (s.tlm o n).out = s.out := rfl
@[simp] theorem tlm_pav (o n : Nat) : (s.tlm o n).pav = s.pav := rfl
@[simp] theorem tlm_eng (o n : Nat) : (s.tlm o n).eng = s.eng := rfl
@[simp] theorem tlm_images (o n : Nat) : (s.tlm o n).images = s.images := rfl
@[simp] theorem tlm_items (o n : Nat) : (s.tlm o n).items = s.items := rfl
@[simp] theorem tlm_nextItem (o n : Nat) : (s.tlm o n).nextItem = s.nextItem := rfl
@[simp] theorem tlm_net (o n : Nat) : (s.tlm o n).net = s.net := rfl
@[simp] theorem tlm_tokens (o n : Nat) : (s.tlm o n).tokens = s.tokens := rfl
@[simp] theorem tlm_netSent (o n : Nat) : (s.tlm o n).netSent = s.netSent := rfl
@[simp] theorem tlm_netWrr (o n : Nat) : (s.tlm o n).netWrr = s.netWrr := rfl
@[simp] theorem tlm_netLast (o n : Nat) : (s.tlm o n).netLast = s.netLast := rfl
@[simp] theorem tlm_mem (o n : Nat) : (s.tlm o n).mem = s.mem := rfl
@[simp] theorem tlm_regs (o n : Nat) : (s.tlm o n).regs = s.regs := rfl
@[simp] theorem tlm_evHeld (o n : Nat) : (s.tlm o n).evHeld = s.evHeld := rfl
@[simp] theorem tlm_evLost (o n : Nat) : (s.tlm o n).evLost = s.evLost := rfl
@[simp] theorem tlm_streams (o n : Nat) : (s.tlm o n).streams = s.streams := rfl
@[simp] theorem tlm_preds (o n : Nat) : (s.tlm o n).preds = s.preds := rfl
@[simp] theorem tlm_chans (o n : Nat) : (s.tlm o n).chans = s.chans := rfl
@[simp] theorem tlm_gens (o n : Nat) : (s.tlm o n).gens = s.gens := rfl
@[simp] theorem tlm_watch (o n : Nat) : (s.tlm o n).watch = s.watch := rfl
@[simp] theorem tlm_rings (o n : Nat) : (s.tlm o n).rings = s.rings := rfl
@[simp] theorem tlm_reads (o n : Nat) : (s.tlm o n).reads = s.reads := rfl
@[simp] theorem tlm_nextTag (o n : Nat) : (s.tlm o n).nextTag = s.nextTag := rfl
@[simp] theorem tlm_vecs (o n : Nat) : (s.tlm o n).vecs = s.vecs := rfl
@[simp] theorem tlm_outbox (o n : Nat) : (s.tlm o n).outbox = s.outbox := rfl
@[simp] theorem tlm_regions (o n : Nat) : (s.tlm o n).regions = s.regions := rfl
@[simp] theorem tlm_grans (o n : Nat) : (s.tlm o n).grans = s.grans := rfl
@[simp] theorem tlm_rack (o n : Nat) : (s.tlm o n).rack = s.rack := rfl
@[simp] theorem tlm_view (o n : Nat) : (s.tlm o n).view = s.view := rfl
@[simp] theorem tlm_tables (o n : Nat) : (s.tlm o n).tables = s.tables := rfl
@[simp] theorem tlm_insts (o n : Nat) : (s.tlm o n).insts = s.insts := rfl
@[simp] theorem tlm_nextInst (o n : Nat) : (s.tlm o n).nextInst = s.nextInst := rfl
@[simp] theorem tlm_qwait (o n : Nat) : (s.tlm o n).qwait = s.qwait := rfl
@[simp] theorem tlm_rbufs (o n : Nat) : (s.tlm o n).rbufs = s.rbufs := rfl
@[simp] theorem tlm_jobs (o n : Nat) : (s.tlm o n).jobs = s.jobs := rfl
@[simp] theorem tlm_nextJob (o n : Nat) : (s.tlm o n).nextJob = s.nextJob := rfl
@[simp] theorem tlm_slots (o n : Nat) : (s.tlm o n).slots = s.slots := rfl
@[simp] theorem tlm_inbox (o n : Nat) : (s.tlm o n).inbox = s.inbox := rfl
@[simp] theorem tlm_nwCfg (o n : Nat) : (s.tlm o n).nwCfg = s.nwCfg := rfl
@[simp] theorem tlm_nwSt (o n : Nat) : (s.tlm o n).nwSt = s.nwSt := rfl
@[simp] theorem tlm_seqs (o n : Nat) : (s.tlm o n).seqs = s.seqs := rfl
@[simp] theorem tlm_nextSeq (o n : Nat) : (s.tlm o n).nextSeq = s.nextSeq := rfl
@[simp] theorem tlm_nextCommit (o n : Nat) : (s.tlm o n).nextCommit = s.nextCommit := rfl
@[simp] theorem tlm_decHist (o n : Nat) : (s.tlm o n).decHist = s.decHist := rfl
@[simp] theorem tlm_preHist (o n : Nat) : (s.tlm o n).preHist = s.preHist := rfl
@[simp] theorem tlm_thr (o n : Nat) : (s.tlm o n).thr = s.thr := rfl
@[simp] theorem tlm_throttling (o n : Nat) : (s.tlm o n).throttling = s.throttling := rfl
@[simp] theorem tlm_frz (o n : Nat) : (s.tlm o n).frz = s.frz := rfl
@[simp] theorem tlm_qSince (o n : Nat) : (s.tlm o n).qSince = s.qSince := rfl
@[simp] theorem tlm_wrr (o n : Nat) : (s.tlm o n).wrr = s.wrr := rfl
@[simp] theorem tlm_lastCh (o n : Nat) : (s.tlm o n).lastCh = s.lastCh := rfl
@[simp] theorem tlm_moves (o n : Nat) : (s.tlm o n).moves = s.moves := rfl
@[simp] theorem tlm_movesUp (o n : Nat) : (s.tlm o n).movesUp = s.movesUp := rfl
@[simp] theorem tlm_wakeReq (o n : Nat) : (s.tlm o n).wakeReq = s.wakeReq := rfl
@[simp] theorem tlm_arrived (o n : Nat) : (s.tlm o n).arrived = s.arrived := rfl
@[simp] theorem tlm_admFwd (o n : Nat) : (s.tlm o n).admFwd = s.admFwd := rfl
@[simp] theorem tlm_copies (o n : Nat) : (s.tlm o n).copies = s.copies := rfl
@[simp] theorem tlm_wakeq (o n : Nat) : (s.tlm o n).wakeq = s.wakeq := rfl
@[simp] theorem tlm_l1 (o n : Nat) : (s.tlm o n).l1 = s.l1 := rfl
@[simp] theorem tlm_d3hot (o n : Nat) : (s.tlm o n).d3hot = s.d3hot := rfl
@[simp] theorem tlm_lastHost (o n : Nat) : (s.tlm o n).lastHost = s.lastHost := rfl
@[simp] theorem tlm_admHeld (o n : Nat) : (s.tlm o n).admHeld = s.admHeld := rfl
@[simp] theorem tlm_tenGone (o n : Nat) : (s.tlm o n).tenGone = s.tenGone := rfl
@[simp] theorem tlm_tenWant (o n : Nat) : (s.tlm o n).tenWant = s.tenWant := rfl
@[simp] theorem tlm_keys (o n : Nat) : (s.tlm o n).keys = s.keys := rfl
@[simp] theorem tlm_nonces (o n : Nat) : (s.tlm o n).nonces = s.nonces := rfl
@[simp] theorem tlm_planNext (o n : Nat) : (s.tlm o n).planNext = s.planNext := rfl
@[simp] theorem tlm_groups (o n : Nat) : (s.tlm o n).groups = s.groups := rfl
@[simp] theorem tlm_repair (o n : Nat) : (s.tlm o n).repair = s.repair := rfl
@[simp] theorem tlm_ports (o n : Nat) : (s.tlm o n).ports = s.ports := rfl
@[simp] theorem tlm_rxMsgs (o n : Nat) : (s.tlm o n).rxMsgs = s.rxMsgs := rfl
@[simp] theorem tlm_acksIn (o n : Nat) : (s.tlm o n).acksIn = s.acksIn := rfl
@[simp] theorem tlm_txSeq (o n : Nat) : (s.tlm o n).txSeq = s.txSeq := rfl
@[simp] theorem tlm_unacked (o n : Nat) : (s.tlm o n).unacked = s.unacked := rfl
@[simp] theorem tlm_rxSeq (o n : Nat) : (s.tlm o n).rxSeq = s.rxSeq := rfl
@[simp] theorem tlm_rxHeld (o n : Nat) : (s.tlm o n).rxHeld = s.rxHeld := rfl
@[simp] theorem tlm_hopDrop (o n : Nat) : (s.tlm o n).hopDrop = s.hopDrop := rfl
@[simp] theorem tlm_tenantDrop (o n : Nat) : (s.tlm o n).tenantDrop = s.tenantDrop := rfl
@[simp] theorem tlm_floodDue (o n : Nat) : (s.tlm o n).floodDue = s.floodDue := rfl
@[simp] theorem tlm_viewDue (o n : Nat) : (s.tlm o n).viewDue = s.viewDue := rfl
@[simp] theorem tlm_bypMove (o n : Nat) : (s.tlm o n).bypMove = s.bypMove := rfl
@[simp] theorem tlm_bypWait (o n : Nat) : (s.tlm o n).bypWait = s.bypWait := rfl
@[simp] theorem tlm_bypPin (o n : Nat) : (s.tlm o n).bypPin = s.bypPin := rfl
@[simp] theorem tlm_pavane (o n : Nat) : (s.tlm o n).pavane = s.pavane := rfl
@[simp] theorem tlm_bars (o n : Nat) : (s.tlm o n).bars = s.bars := rfl
@[simp] theorem tlm_releases (o n : Nat) : (s.tlm o n).releases = s.releases := rfl
@[simp] theorem tlm_lateRel (o n : Nat) : (s.tlm o n).lateRel = s.lateRel := rfl
@[simp] theorem tlm_colls (o n : Nat) : (s.tlm o n).colls = s.colls := rfl
@[simp] theorem tlm_supply (o n : Nat) : (s.tlm o n).supply = s.supply := rfl
@[simp] theorem tlm_boot (o n : Nat) : (s.tlm o n).boot = s.boot := rfl
@[simp] theorem tlm_dom (o n : Nat) : (s.tlm o n).dom = s.dom := rfl
@[simp] theorem tlm_mgmt (o n : Nat) : (s.tlm o n).mgmt = s.mgmt := rfl
@[simp] theorem tlm_keyDraws (o n : Nat) : (s.tlm o n).keyDraws = s.keyDraws := rfl
@[simp] theorem tlm_memKey (o n : Nat) : (s.tlm o n).memKey = s.memKey := rfl
@[simp] theorem tlm_caFail (o n : Nat) : (s.tlm o n).caFail = s.caFail := rfl
@[simp] theorem tlm_pllLost (o n : Nat) : (s.tlm o n).pllLost = s.pllLost := rfl
@[simp] theorem tlm_clrDead (o n : Nat) : (s.tlm o n).clrDead = s.clrDead := rfl
@[simp] theorem tlm_bgAt (o n : Nat) : (s.tlm o n).bgAt = s.bgAt := rfl
@[simp] theorem tlm_bgSlice (o n : Nat) : (s.tlm o n).bgSlice = s.bgSlice := rfl
@[simp] theorem tlm_halfRd (o n : Nat) : (s.tlm o n).halfRd = s.halfRd := rfl
@[simp] theorem tlm_halfWr (o n : Nat) : (s.tlm o n).halfWr = s.halfWr := rfl
@[simp] theorem tlm_lockvSeen (o n : Nat) : (s.tlm o n).lockvSeen = s.lockvSeen := rfl
@[simp] theorem tlm_tlmAt (o n : Nat) : (s.tlm o n).tlmAt = s.tlmAt := rfl
@[simp] theorem tlm_tlmBase (o n : Nat) : (s.tlm o n).tlmBase = s.tlmBase := rfl
@[simp] theorem supp_pending (f : Supply → Supply) : (s.supp f).pending = s.pending := rfl
@[simp] theorem supp_now (f : Supply → Supply) : (s.supp f).now = s.now := rfl
@[simp] theorem supp_freeCtr (f : Supply → Supply) : (s.supp f).freeCtr = s.freeCtr := rfl
@[simp] theorem supp_out (f : Supply → Supply) : (s.supp f).out = s.out := rfl
@[simp] theorem supp_pav (f : Supply → Supply) : (s.supp f).pav = s.pav := rfl
@[simp] theorem supp_eng (f : Supply → Supply) : (s.supp f).eng = s.eng := rfl
@[simp] theorem supp_images (f : Supply → Supply) : (s.supp f).images = s.images := rfl
@[simp] theorem supp_items (f : Supply → Supply) : (s.supp f).items = s.items := rfl
@[simp] theorem supp_nextItem (f : Supply → Supply) : (s.supp f).nextItem = s.nextItem := rfl
@[simp] theorem supp_net (f : Supply → Supply) : (s.supp f).net = s.net := rfl
@[simp] theorem supp_tokens (f : Supply → Supply) : (s.supp f).tokens = s.tokens := rfl
@[simp] theorem supp_netSent (f : Supply → Supply) : (s.supp f).netSent = s.netSent := rfl
@[simp] theorem supp_netWrr (f : Supply → Supply) : (s.supp f).netWrr = s.netWrr := rfl
@[simp] theorem supp_netLast (f : Supply → Supply) : (s.supp f).netLast = s.netLast := rfl
@[simp] theorem supp_mem (f : Supply → Supply) : (s.supp f).mem = s.mem := rfl
@[simp] theorem supp_regs (f : Supply → Supply) : (s.supp f).regs = s.regs := rfl
@[simp] theorem supp_evHeld (f : Supply → Supply) : (s.supp f).evHeld = s.evHeld := rfl
@[simp] theorem supp_evLost (f : Supply → Supply) : (s.supp f).evLost = s.evLost := rfl
@[simp] theorem supp_streams (f : Supply → Supply) : (s.supp f).streams = s.streams := rfl
@[simp] theorem supp_preds (f : Supply → Supply) : (s.supp f).preds = s.preds := rfl
@[simp] theorem supp_chans (f : Supply → Supply) : (s.supp f).chans = s.chans := rfl
@[simp] theorem supp_gens (f : Supply → Supply) : (s.supp f).gens = s.gens := rfl
@[simp] theorem supp_watch (f : Supply → Supply) : (s.supp f).watch = s.watch := rfl
@[simp] theorem supp_rings (f : Supply → Supply) : (s.supp f).rings = s.rings := rfl
@[simp] theorem supp_reads (f : Supply → Supply) : (s.supp f).reads = s.reads := rfl
@[simp] theorem supp_nextTag (f : Supply → Supply) : (s.supp f).nextTag = s.nextTag := rfl
@[simp] theorem supp_vecs (f : Supply → Supply) : (s.supp f).vecs = s.vecs := rfl
@[simp] theorem supp_outbox (f : Supply → Supply) : (s.supp f).outbox = s.outbox := rfl
@[simp] theorem supp_regions (f : Supply → Supply) : (s.supp f).regions = s.regions := rfl
@[simp] theorem supp_grans (f : Supply → Supply) : (s.supp f).grans = s.grans := rfl
@[simp] theorem supp_rack (f : Supply → Supply) : (s.supp f).rack = s.rack := rfl
@[simp] theorem supp_view (f : Supply → Supply) : (s.supp f).view = s.view := rfl
@[simp] theorem supp_tables (f : Supply → Supply) : (s.supp f).tables = s.tables := rfl
@[simp] theorem supp_insts (f : Supply → Supply) : (s.supp f).insts = s.insts := rfl
@[simp] theorem supp_nextInst (f : Supply → Supply) : (s.supp f).nextInst = s.nextInst := rfl
@[simp] theorem supp_qwait (f : Supply → Supply) : (s.supp f).qwait = s.qwait := rfl
@[simp] theorem supp_rbufs (f : Supply → Supply) : (s.supp f).rbufs = s.rbufs := rfl
@[simp] theorem supp_jobs (f : Supply → Supply) : (s.supp f).jobs = s.jobs := rfl
@[simp] theorem supp_nextJob (f : Supply → Supply) : (s.supp f).nextJob = s.nextJob := rfl
@[simp] theorem supp_slots (f : Supply → Supply) : (s.supp f).slots = s.slots := rfl
@[simp] theorem supp_inbox (f : Supply → Supply) : (s.supp f).inbox = s.inbox := rfl
@[simp] theorem supp_tlmAcc (f : Supply → Supply) : (s.supp f).tlmAcc = s.tlmAcc := rfl
@[simp] theorem supp_nwCfg (f : Supply → Supply) : (s.supp f).nwCfg = s.nwCfg := rfl
@[simp] theorem supp_nwSt (f : Supply → Supply) : (s.supp f).nwSt = s.nwSt := rfl
@[simp] theorem supp_seqs (f : Supply → Supply) : (s.supp f).seqs = s.seqs := rfl
@[simp] theorem supp_nextSeq (f : Supply → Supply) : (s.supp f).nextSeq = s.nextSeq := rfl
@[simp] theorem supp_nextCommit (f : Supply → Supply) : (s.supp f).nextCommit = s.nextCommit := rfl
@[simp] theorem supp_decHist (f : Supply → Supply) : (s.supp f).decHist = s.decHist := rfl
@[simp] theorem supp_preHist (f : Supply → Supply) : (s.supp f).preHist = s.preHist := rfl
@[simp] theorem supp_thr (f : Supply → Supply) : (s.supp f).thr = s.thr := rfl
@[simp] theorem supp_throttling (f : Supply → Supply) : (s.supp f).throttling = s.throttling := rfl
@[simp] theorem supp_frz (f : Supply → Supply) : (s.supp f).frz = s.frz := rfl
@[simp] theorem supp_qSince (f : Supply → Supply) : (s.supp f).qSince = s.qSince := rfl
@[simp] theorem supp_wrr (f : Supply → Supply) : (s.supp f).wrr = s.wrr := rfl
@[simp] theorem supp_lastCh (f : Supply → Supply) : (s.supp f).lastCh = s.lastCh := rfl
@[simp] theorem supp_moves (f : Supply → Supply) : (s.supp f).moves = s.moves := rfl
@[simp] theorem supp_movesUp (f : Supply → Supply) : (s.supp f).movesUp = s.movesUp := rfl
@[simp] theorem supp_wakeReq (f : Supply → Supply) : (s.supp f).wakeReq = s.wakeReq := rfl
@[simp] theorem supp_arrived (f : Supply → Supply) : (s.supp f).arrived = s.arrived := rfl
@[simp] theorem supp_admFwd (f : Supply → Supply) : (s.supp f).admFwd = s.admFwd := rfl
@[simp] theorem supp_copies (f : Supply → Supply) : (s.supp f).copies = s.copies := rfl
@[simp] theorem supp_wakeq (f : Supply → Supply) : (s.supp f).wakeq = s.wakeq := rfl
@[simp] theorem supp_l1 (f : Supply → Supply) : (s.supp f).l1 = s.l1 := rfl
@[simp] theorem supp_d3hot (f : Supply → Supply) : (s.supp f).d3hot = s.d3hot := rfl
@[simp] theorem supp_lastHost (f : Supply → Supply) : (s.supp f).lastHost = s.lastHost := rfl
@[simp] theorem supp_admHeld (f : Supply → Supply) : (s.supp f).admHeld = s.admHeld := rfl
@[simp] theorem supp_tenGone (f : Supply → Supply) : (s.supp f).tenGone = s.tenGone := rfl
@[simp] theorem supp_tenWant (f : Supply → Supply) : (s.supp f).tenWant = s.tenWant := rfl
@[simp] theorem supp_keys (f : Supply → Supply) : (s.supp f).keys = s.keys := rfl
@[simp] theorem supp_nonces (f : Supply → Supply) : (s.supp f).nonces = s.nonces := rfl
@[simp] theorem supp_planNext (f : Supply → Supply) : (s.supp f).planNext = s.planNext := rfl
@[simp] theorem supp_groups (f : Supply → Supply) : (s.supp f).groups = s.groups := rfl
@[simp] theorem supp_repair (f : Supply → Supply) : (s.supp f).repair = s.repair := rfl
@[simp] theorem supp_ports (f : Supply → Supply) : (s.supp f).ports = s.ports := rfl
@[simp] theorem supp_rxMsgs (f : Supply → Supply) : (s.supp f).rxMsgs = s.rxMsgs := rfl
@[simp] theorem supp_acksIn (f : Supply → Supply) : (s.supp f).acksIn = s.acksIn := rfl
@[simp] theorem supp_txSeq (f : Supply → Supply) : (s.supp f).txSeq = s.txSeq := rfl
@[simp] theorem supp_unacked (f : Supply → Supply) : (s.supp f).unacked = s.unacked := rfl
@[simp] theorem supp_rxSeq (f : Supply → Supply) : (s.supp f).rxSeq = s.rxSeq := rfl
@[simp] theorem supp_rxHeld (f : Supply → Supply) : (s.supp f).rxHeld = s.rxHeld := rfl
@[simp] theorem supp_hopDrop (f : Supply → Supply) : (s.supp f).hopDrop = s.hopDrop := rfl
@[simp] theorem supp_tenantDrop (f : Supply → Supply) : (s.supp f).tenantDrop = s.tenantDrop := rfl
@[simp] theorem supp_floodDue (f : Supply → Supply) : (s.supp f).floodDue = s.floodDue := rfl
@[simp] theorem supp_viewDue (f : Supply → Supply) : (s.supp f).viewDue = s.viewDue := rfl
@[simp] theorem supp_bypMove (f : Supply → Supply) : (s.supp f).bypMove = s.bypMove := rfl
@[simp] theorem supp_bypWait (f : Supply → Supply) : (s.supp f).bypWait = s.bypWait := rfl
@[simp] theorem supp_bypPin (f : Supply → Supply) : (s.supp f).bypPin = s.bypPin := rfl
@[simp] theorem supp_pavane (f : Supply → Supply) : (s.supp f).pavane = s.pavane := rfl
@[simp] theorem supp_bars (f : Supply → Supply) : (s.supp f).bars = s.bars := rfl
@[simp] theorem supp_releases (f : Supply → Supply) : (s.supp f).releases = s.releases := rfl
@[simp] theorem supp_lateRel (f : Supply → Supply) : (s.supp f).lateRel = s.lateRel := rfl
@[simp] theorem supp_colls (f : Supply → Supply) : (s.supp f).colls = s.colls := rfl
@[simp] theorem supp_boot (f : Supply → Supply) : (s.supp f).boot = s.boot := rfl
@[simp] theorem supp_dom (f : Supply → Supply) : (s.supp f).dom = s.dom := rfl
@[simp] theorem supp_mgmt (f : Supply → Supply) : (s.supp f).mgmt = s.mgmt := rfl
@[simp] theorem supp_keyDraws (f : Supply → Supply) : (s.supp f).keyDraws = s.keyDraws := rfl
@[simp] theorem supp_memKey (f : Supply → Supply) : (s.supp f).memKey = s.memKey := rfl
@[simp] theorem supp_caFail (f : Supply → Supply) : (s.supp f).caFail = s.caFail := rfl
@[simp] theorem supp_pllLost (f : Supply → Supply) : (s.supp f).pllLost = s.pllLost := rfl
@[simp] theorem supp_clrDead (f : Supply → Supply) : (s.supp f).clrDead = s.clrDead := rfl
@[simp] theorem supp_bgAt (f : Supply → Supply) : (s.supp f).bgAt = s.bgAt := rfl
@[simp] theorem supp_bgSlice (f : Supply → Supply) : (s.supp f).bgSlice = s.bgSlice := rfl
@[simp] theorem supp_halfRd (f : Supply → Supply) : (s.supp f).halfRd = s.halfRd := rfl
@[simp] theorem supp_halfWr (f : Supply → Supply) : (s.supp f).halfWr = s.halfWr := rfl
@[simp] theorem supp_lockvSeen (f : Supply → Supply) : (s.supp f).lockvSeen = s.lockvSeen := rfl
@[simp] theorem supp_tlmAt (f : Supply → Supply) : (s.supp f).tlmAt = s.tlmAt := rfl
@[simp] theorem supp_tlmBase (f : Supply → Supply) : (s.supp f).tlmBase = s.tlmBase := rfl
@[simp] theorem bt_pending (f : Boot → Boot) : (s.bt f).pending = s.pending := rfl
@[simp] theorem bt_now (f : Boot → Boot) : (s.bt f).now = s.now := rfl
@[simp] theorem bt_freeCtr (f : Boot → Boot) : (s.bt f).freeCtr = s.freeCtr := rfl
@[simp] theorem bt_out (f : Boot → Boot) : (s.bt f).out = s.out := rfl
@[simp] theorem bt_pav (f : Boot → Boot) : (s.bt f).pav = s.pav := rfl
@[simp] theorem bt_eng (f : Boot → Boot) : (s.bt f).eng = s.eng := rfl
@[simp] theorem bt_images (f : Boot → Boot) : (s.bt f).images = s.images := rfl
@[simp] theorem bt_items (f : Boot → Boot) : (s.bt f).items = s.items := rfl
@[simp] theorem bt_nextItem (f : Boot → Boot) : (s.bt f).nextItem = s.nextItem := rfl
@[simp] theorem bt_net (f : Boot → Boot) : (s.bt f).net = s.net := rfl
@[simp] theorem bt_tokens (f : Boot → Boot) : (s.bt f).tokens = s.tokens := rfl
@[simp] theorem bt_netSent (f : Boot → Boot) : (s.bt f).netSent = s.netSent := rfl
@[simp] theorem bt_netWrr (f : Boot → Boot) : (s.bt f).netWrr = s.netWrr := rfl
@[simp] theorem bt_netLast (f : Boot → Boot) : (s.bt f).netLast = s.netLast := rfl
@[simp] theorem bt_mem (f : Boot → Boot) : (s.bt f).mem = s.mem := rfl
@[simp] theorem bt_regs (f : Boot → Boot) : (s.bt f).regs = s.regs := rfl
@[simp] theorem bt_evHeld (f : Boot → Boot) : (s.bt f).evHeld = s.evHeld := rfl
@[simp] theorem bt_evLost (f : Boot → Boot) : (s.bt f).evLost = s.evLost := rfl
@[simp] theorem bt_streams (f : Boot → Boot) : (s.bt f).streams = s.streams := rfl
@[simp] theorem bt_preds (f : Boot → Boot) : (s.bt f).preds = s.preds := rfl
@[simp] theorem bt_chans (f : Boot → Boot) : (s.bt f).chans = s.chans := rfl
@[simp] theorem bt_gens (f : Boot → Boot) : (s.bt f).gens = s.gens := rfl
@[simp] theorem bt_watch (f : Boot → Boot) : (s.bt f).watch = s.watch := rfl
@[simp] theorem bt_rings (f : Boot → Boot) : (s.bt f).rings = s.rings := rfl
@[simp] theorem bt_reads (f : Boot → Boot) : (s.bt f).reads = s.reads := rfl
@[simp] theorem bt_nextTag (f : Boot → Boot) : (s.bt f).nextTag = s.nextTag := rfl
@[simp] theorem bt_vecs (f : Boot → Boot) : (s.bt f).vecs = s.vecs := rfl
@[simp] theorem bt_outbox (f : Boot → Boot) : (s.bt f).outbox = s.outbox := rfl
@[simp] theorem bt_regions (f : Boot → Boot) : (s.bt f).regions = s.regions := rfl
@[simp] theorem bt_grans (f : Boot → Boot) : (s.bt f).grans = s.grans := rfl
@[simp] theorem bt_rack (f : Boot → Boot) : (s.bt f).rack = s.rack := rfl
@[simp] theorem bt_view (f : Boot → Boot) : (s.bt f).view = s.view := rfl
@[simp] theorem bt_tables (f : Boot → Boot) : (s.bt f).tables = s.tables := rfl
@[simp] theorem bt_insts (f : Boot → Boot) : (s.bt f).insts = s.insts := rfl
@[simp] theorem bt_nextInst (f : Boot → Boot) : (s.bt f).nextInst = s.nextInst := rfl
@[simp] theorem bt_qwait (f : Boot → Boot) : (s.bt f).qwait = s.qwait := rfl
@[simp] theorem bt_rbufs (f : Boot → Boot) : (s.bt f).rbufs = s.rbufs := rfl
@[simp] theorem bt_jobs (f : Boot → Boot) : (s.bt f).jobs = s.jobs := rfl
@[simp] theorem bt_nextJob (f : Boot → Boot) : (s.bt f).nextJob = s.nextJob := rfl
@[simp] theorem bt_slots (f : Boot → Boot) : (s.bt f).slots = s.slots := rfl
@[simp] theorem bt_inbox (f : Boot → Boot) : (s.bt f).inbox = s.inbox := rfl
@[simp] theorem bt_tlmAcc (f : Boot → Boot) : (s.bt f).tlmAcc = s.tlmAcc := rfl
@[simp] theorem bt_nwCfg (f : Boot → Boot) : (s.bt f).nwCfg = s.nwCfg := rfl
@[simp] theorem bt_nwSt (f : Boot → Boot) : (s.bt f).nwSt = s.nwSt := rfl
@[simp] theorem bt_seqs (f : Boot → Boot) : (s.bt f).seqs = s.seqs := rfl
@[simp] theorem bt_nextSeq (f : Boot → Boot) : (s.bt f).nextSeq = s.nextSeq := rfl
@[simp] theorem bt_nextCommit (f : Boot → Boot) : (s.bt f).nextCommit = s.nextCommit := rfl
@[simp] theorem bt_decHist (f : Boot → Boot) : (s.bt f).decHist = s.decHist := rfl
@[simp] theorem bt_preHist (f : Boot → Boot) : (s.bt f).preHist = s.preHist := rfl
@[simp] theorem bt_thr (f : Boot → Boot) : (s.bt f).thr = s.thr := rfl
@[simp] theorem bt_throttling (f : Boot → Boot) : (s.bt f).throttling = s.throttling := rfl
@[simp] theorem bt_frz (f : Boot → Boot) : (s.bt f).frz = s.frz := rfl
@[simp] theorem bt_qSince (f : Boot → Boot) : (s.bt f).qSince = s.qSince := rfl
@[simp] theorem bt_wrr (f : Boot → Boot) : (s.bt f).wrr = s.wrr := rfl
@[simp] theorem bt_lastCh (f : Boot → Boot) : (s.bt f).lastCh = s.lastCh := rfl
@[simp] theorem bt_moves (f : Boot → Boot) : (s.bt f).moves = s.moves := rfl
@[simp] theorem bt_movesUp (f : Boot → Boot) : (s.bt f).movesUp = s.movesUp := rfl
@[simp] theorem bt_wakeReq (f : Boot → Boot) : (s.bt f).wakeReq = s.wakeReq := rfl
@[simp] theorem bt_arrived (f : Boot → Boot) : (s.bt f).arrived = s.arrived := rfl
@[simp] theorem bt_admFwd (f : Boot → Boot) : (s.bt f).admFwd = s.admFwd := rfl
@[simp] theorem bt_copies (f : Boot → Boot) : (s.bt f).copies = s.copies := rfl
@[simp] theorem bt_wakeq (f : Boot → Boot) : (s.bt f).wakeq = s.wakeq := rfl
@[simp] theorem bt_l1 (f : Boot → Boot) : (s.bt f).l1 = s.l1 := rfl
@[simp] theorem bt_d3hot (f : Boot → Boot) : (s.bt f).d3hot = s.d3hot := rfl
@[simp] theorem bt_lastHost (f : Boot → Boot) : (s.bt f).lastHost = s.lastHost := rfl
@[simp] theorem bt_admHeld (f : Boot → Boot) : (s.bt f).admHeld = s.admHeld := rfl
@[simp] theorem bt_tenGone (f : Boot → Boot) : (s.bt f).tenGone = s.tenGone := rfl
@[simp] theorem bt_tenWant (f : Boot → Boot) : (s.bt f).tenWant = s.tenWant := rfl
@[simp] theorem bt_keys (f : Boot → Boot) : (s.bt f).keys = s.keys := rfl
@[simp] theorem bt_nonces (f : Boot → Boot) : (s.bt f).nonces = s.nonces := rfl
@[simp] theorem bt_planNext (f : Boot → Boot) : (s.bt f).planNext = s.planNext := rfl
@[simp] theorem bt_groups (f : Boot → Boot) : (s.bt f).groups = s.groups := rfl
@[simp] theorem bt_repair (f : Boot → Boot) : (s.bt f).repair = s.repair := rfl
@[simp] theorem bt_ports (f : Boot → Boot) : (s.bt f).ports = s.ports := rfl
@[simp] theorem bt_rxMsgs (f : Boot → Boot) : (s.bt f).rxMsgs = s.rxMsgs := rfl
@[simp] theorem bt_acksIn (f : Boot → Boot) : (s.bt f).acksIn = s.acksIn := rfl
@[simp] theorem bt_txSeq (f : Boot → Boot) : (s.bt f).txSeq = s.txSeq := rfl
@[simp] theorem bt_unacked (f : Boot → Boot) : (s.bt f).unacked = s.unacked := rfl
@[simp] theorem bt_rxSeq (f : Boot → Boot) : (s.bt f).rxSeq = s.rxSeq := rfl
@[simp] theorem bt_rxHeld (f : Boot → Boot) : (s.bt f).rxHeld = s.rxHeld := rfl
@[simp] theorem bt_hopDrop (f : Boot → Boot) : (s.bt f).hopDrop = s.hopDrop := rfl
@[simp] theorem bt_tenantDrop (f : Boot → Boot) : (s.bt f).tenantDrop = s.tenantDrop := rfl
@[simp] theorem bt_floodDue (f : Boot → Boot) : (s.bt f).floodDue = s.floodDue := rfl
@[simp] theorem bt_viewDue (f : Boot → Boot) : (s.bt f).viewDue = s.viewDue := rfl
@[simp] theorem bt_bypMove (f : Boot → Boot) : (s.bt f).bypMove = s.bypMove := rfl
@[simp] theorem bt_bypWait (f : Boot → Boot) : (s.bt f).bypWait = s.bypWait := rfl
@[simp] theorem bt_bypPin (f : Boot → Boot) : (s.bt f).bypPin = s.bypPin := rfl
@[simp] theorem bt_pavane (f : Boot → Boot) : (s.bt f).pavane = s.pavane := rfl
@[simp] theorem bt_bars (f : Boot → Boot) : (s.bt f).bars = s.bars := rfl
@[simp] theorem bt_releases (f : Boot → Boot) : (s.bt f).releases = s.releases := rfl
@[simp] theorem bt_lateRel (f : Boot → Boot) : (s.bt f).lateRel = s.lateRel := rfl
@[simp] theorem bt_colls (f : Boot → Boot) : (s.bt f).colls = s.colls := rfl
@[simp] theorem bt_supply (f : Boot → Boot) : (s.bt f).supply = s.supply := rfl
@[simp] theorem bt_dom (f : Boot → Boot) : (s.bt f).dom = s.dom := rfl
@[simp] theorem bt_mgmt (f : Boot → Boot) : (s.bt f).mgmt = s.mgmt := rfl
@[simp] theorem bt_keyDraws (f : Boot → Boot) : (s.bt f).keyDraws = s.keyDraws := rfl
@[simp] theorem bt_memKey (f : Boot → Boot) : (s.bt f).memKey = s.memKey := rfl
@[simp] theorem bt_caFail (f : Boot → Boot) : (s.bt f).caFail = s.caFail := rfl
@[simp] theorem bt_pllLost (f : Boot → Boot) : (s.bt f).pllLost = s.pllLost := rfl
@[simp] theorem bt_clrDead (f : Boot → Boot) : (s.bt f).clrDead = s.clrDead := rfl
@[simp] theorem bt_bgAt (f : Boot → Boot) : (s.bt f).bgAt = s.bgAt := rfl
@[simp] theorem bt_bgSlice (f : Boot → Boot) : (s.bt f).bgSlice = s.bgSlice := rfl
@[simp] theorem bt_halfRd (f : Boot → Boot) : (s.bt f).halfRd = s.halfRd := rfl
@[simp] theorem bt_halfWr (f : Boot → Boot) : (s.bt f).halfWr = s.halfWr := rfl
@[simp] theorem bt_lockvSeen (f : Boot → Boot) : (s.bt f).lockvSeen = s.lockvSeen := rfl
@[simp] theorem bt_tlmAt (f : Boot → Boot) : (s.bt f).tlmAt = s.tlmAt := rfl
@[simp] theorem bt_tlmBase (f : Boot → Boot) : (s.bt f).tlmBase = s.tlmBase := rfl
@[simp] theorem dm_pending (f : Domain → Domain) : (s.dm f).pending = s.pending := rfl
@[simp] theorem dm_now (f : Domain → Domain) : (s.dm f).now = s.now := rfl
@[simp] theorem dm_freeCtr (f : Domain → Domain) : (s.dm f).freeCtr = s.freeCtr := rfl
@[simp] theorem dm_out (f : Domain → Domain) : (s.dm f).out = s.out := rfl
@[simp] theorem dm_pav (f : Domain → Domain) : (s.dm f).pav = s.pav := rfl
@[simp] theorem dm_eng (f : Domain → Domain) : (s.dm f).eng = s.eng := rfl
@[simp] theorem dm_images (f : Domain → Domain) : (s.dm f).images = s.images := rfl
@[simp] theorem dm_items (f : Domain → Domain) : (s.dm f).items = s.items := rfl
@[simp] theorem dm_nextItem (f : Domain → Domain) : (s.dm f).nextItem = s.nextItem := rfl
@[simp] theorem dm_net (f : Domain → Domain) : (s.dm f).net = s.net := rfl
@[simp] theorem dm_tokens (f : Domain → Domain) : (s.dm f).tokens = s.tokens := rfl
@[simp] theorem dm_netSent (f : Domain → Domain) : (s.dm f).netSent = s.netSent := rfl
@[simp] theorem dm_netWrr (f : Domain → Domain) : (s.dm f).netWrr = s.netWrr := rfl
@[simp] theorem dm_netLast (f : Domain → Domain) : (s.dm f).netLast = s.netLast := rfl
@[simp] theorem dm_mem (f : Domain → Domain) : (s.dm f).mem = s.mem := rfl
@[simp] theorem dm_regs (f : Domain → Domain) : (s.dm f).regs = s.regs := rfl
@[simp] theorem dm_evHeld (f : Domain → Domain) : (s.dm f).evHeld = s.evHeld := rfl
@[simp] theorem dm_evLost (f : Domain → Domain) : (s.dm f).evLost = s.evLost := rfl
@[simp] theorem dm_streams (f : Domain → Domain) : (s.dm f).streams = s.streams := rfl
@[simp] theorem dm_preds (f : Domain → Domain) : (s.dm f).preds = s.preds := rfl
@[simp] theorem dm_chans (f : Domain → Domain) : (s.dm f).chans = s.chans := rfl
@[simp] theorem dm_gens (f : Domain → Domain) : (s.dm f).gens = s.gens := rfl
@[simp] theorem dm_watch (f : Domain → Domain) : (s.dm f).watch = s.watch := rfl
@[simp] theorem dm_rings (f : Domain → Domain) : (s.dm f).rings = s.rings := rfl
@[simp] theorem dm_reads (f : Domain → Domain) : (s.dm f).reads = s.reads := rfl
@[simp] theorem dm_nextTag (f : Domain → Domain) : (s.dm f).nextTag = s.nextTag := rfl
@[simp] theorem dm_vecs (f : Domain → Domain) : (s.dm f).vecs = s.vecs := rfl
@[simp] theorem dm_outbox (f : Domain → Domain) : (s.dm f).outbox = s.outbox := rfl
@[simp] theorem dm_regions (f : Domain → Domain) : (s.dm f).regions = s.regions := rfl
@[simp] theorem dm_grans (f : Domain → Domain) : (s.dm f).grans = s.grans := rfl
@[simp] theorem dm_rack (f : Domain → Domain) : (s.dm f).rack = s.rack := rfl
@[simp] theorem dm_view (f : Domain → Domain) : (s.dm f).view = s.view := rfl
@[simp] theorem dm_tables (f : Domain → Domain) : (s.dm f).tables = s.tables := rfl
@[simp] theorem dm_insts (f : Domain → Domain) : (s.dm f).insts = s.insts := rfl
@[simp] theorem dm_nextInst (f : Domain → Domain) : (s.dm f).nextInst = s.nextInst := rfl
@[simp] theorem dm_qwait (f : Domain → Domain) : (s.dm f).qwait = s.qwait := rfl
@[simp] theorem dm_rbufs (f : Domain → Domain) : (s.dm f).rbufs = s.rbufs := rfl
@[simp] theorem dm_jobs (f : Domain → Domain) : (s.dm f).jobs = s.jobs := rfl
@[simp] theorem dm_nextJob (f : Domain → Domain) : (s.dm f).nextJob = s.nextJob := rfl
@[simp] theorem dm_slots (f : Domain → Domain) : (s.dm f).slots = s.slots := rfl
@[simp] theorem dm_inbox (f : Domain → Domain) : (s.dm f).inbox = s.inbox := rfl
@[simp] theorem dm_tlmAcc (f : Domain → Domain) : (s.dm f).tlmAcc = s.tlmAcc := rfl
@[simp] theorem dm_nwCfg (f : Domain → Domain) : (s.dm f).nwCfg = s.nwCfg := rfl
@[simp] theorem dm_nwSt (f : Domain → Domain) : (s.dm f).nwSt = s.nwSt := rfl
@[simp] theorem dm_seqs (f : Domain → Domain) : (s.dm f).seqs = s.seqs := rfl
@[simp] theorem dm_nextSeq (f : Domain → Domain) : (s.dm f).nextSeq = s.nextSeq := rfl
@[simp] theorem dm_nextCommit (f : Domain → Domain) : (s.dm f).nextCommit = s.nextCommit := rfl
@[simp] theorem dm_decHist (f : Domain → Domain) : (s.dm f).decHist = s.decHist := rfl
@[simp] theorem dm_preHist (f : Domain → Domain) : (s.dm f).preHist = s.preHist := rfl
@[simp] theorem dm_thr (f : Domain → Domain) : (s.dm f).thr = s.thr := rfl
@[simp] theorem dm_throttling (f : Domain → Domain) : (s.dm f).throttling = s.throttling := rfl
@[simp] theorem dm_frz (f : Domain → Domain) : (s.dm f).frz = s.frz := rfl
@[simp] theorem dm_qSince (f : Domain → Domain) : (s.dm f).qSince = s.qSince := rfl
@[simp] theorem dm_wrr (f : Domain → Domain) : (s.dm f).wrr = s.wrr := rfl
@[simp] theorem dm_lastCh (f : Domain → Domain) : (s.dm f).lastCh = s.lastCh := rfl
@[simp] theorem dm_moves (f : Domain → Domain) : (s.dm f).moves = s.moves := rfl
@[simp] theorem dm_movesUp (f : Domain → Domain) : (s.dm f).movesUp = s.movesUp := rfl
@[simp] theorem dm_wakeReq (f : Domain → Domain) : (s.dm f).wakeReq = s.wakeReq := rfl
@[simp] theorem dm_arrived (f : Domain → Domain) : (s.dm f).arrived = s.arrived := rfl
@[simp] theorem dm_admFwd (f : Domain → Domain) : (s.dm f).admFwd = s.admFwd := rfl
@[simp] theorem dm_copies (f : Domain → Domain) : (s.dm f).copies = s.copies := rfl
@[simp] theorem dm_wakeq (f : Domain → Domain) : (s.dm f).wakeq = s.wakeq := rfl
@[simp] theorem dm_l1 (f : Domain → Domain) : (s.dm f).l1 = s.l1 := rfl
@[simp] theorem dm_d3hot (f : Domain → Domain) : (s.dm f).d3hot = s.d3hot := rfl
@[simp] theorem dm_lastHost (f : Domain → Domain) : (s.dm f).lastHost = s.lastHost := rfl
@[simp] theorem dm_admHeld (f : Domain → Domain) : (s.dm f).admHeld = s.admHeld := rfl
@[simp] theorem dm_tenGone (f : Domain → Domain) : (s.dm f).tenGone = s.tenGone := rfl
@[simp] theorem dm_tenWant (f : Domain → Domain) : (s.dm f).tenWant = s.tenWant := rfl
@[simp] theorem dm_keys (f : Domain → Domain) : (s.dm f).keys = s.keys := rfl
@[simp] theorem dm_nonces (f : Domain → Domain) : (s.dm f).nonces = s.nonces := rfl
@[simp] theorem dm_planNext (f : Domain → Domain) : (s.dm f).planNext = s.planNext := rfl
@[simp] theorem dm_groups (f : Domain → Domain) : (s.dm f).groups = s.groups := rfl
@[simp] theorem dm_repair (f : Domain → Domain) : (s.dm f).repair = s.repair := rfl
@[simp] theorem dm_ports (f : Domain → Domain) : (s.dm f).ports = s.ports := rfl
@[simp] theorem dm_rxMsgs (f : Domain → Domain) : (s.dm f).rxMsgs = s.rxMsgs := rfl
@[simp] theorem dm_acksIn (f : Domain → Domain) : (s.dm f).acksIn = s.acksIn := rfl
@[simp] theorem dm_txSeq (f : Domain → Domain) : (s.dm f).txSeq = s.txSeq := rfl
@[simp] theorem dm_unacked (f : Domain → Domain) : (s.dm f).unacked = s.unacked := rfl
@[simp] theorem dm_rxSeq (f : Domain → Domain) : (s.dm f).rxSeq = s.rxSeq := rfl
@[simp] theorem dm_rxHeld (f : Domain → Domain) : (s.dm f).rxHeld = s.rxHeld := rfl
@[simp] theorem dm_hopDrop (f : Domain → Domain) : (s.dm f).hopDrop = s.hopDrop := rfl
@[simp] theorem dm_tenantDrop (f : Domain → Domain) : (s.dm f).tenantDrop = s.tenantDrop := rfl
@[simp] theorem dm_floodDue (f : Domain → Domain) : (s.dm f).floodDue = s.floodDue := rfl
@[simp] theorem dm_viewDue (f : Domain → Domain) : (s.dm f).viewDue = s.viewDue := rfl
@[simp] theorem dm_bypMove (f : Domain → Domain) : (s.dm f).bypMove = s.bypMove := rfl
@[simp] theorem dm_bypWait (f : Domain → Domain) : (s.dm f).bypWait = s.bypWait := rfl
@[simp] theorem dm_bypPin (f : Domain → Domain) : (s.dm f).bypPin = s.bypPin := rfl
@[simp] theorem dm_pavane (f : Domain → Domain) : (s.dm f).pavane = s.pavane := rfl
@[simp] theorem dm_bars (f : Domain → Domain) : (s.dm f).bars = s.bars := rfl
@[simp] theorem dm_releases (f : Domain → Domain) : (s.dm f).releases = s.releases := rfl
@[simp] theorem dm_lateRel (f : Domain → Domain) : (s.dm f).lateRel = s.lateRel := rfl
@[simp] theorem dm_colls (f : Domain → Domain) : (s.dm f).colls = s.colls := rfl
@[simp] theorem dm_supply (f : Domain → Domain) : (s.dm f).supply = s.supply := rfl
@[simp] theorem dm_boot (f : Domain → Domain) : (s.dm f).boot = s.boot := rfl
@[simp] theorem dm_mgmt (f : Domain → Domain) : (s.dm f).mgmt = s.mgmt := rfl
@[simp] theorem dm_keyDraws (f : Domain → Domain) : (s.dm f).keyDraws = s.keyDraws := rfl
@[simp] theorem dm_memKey (f : Domain → Domain) : (s.dm f).memKey = s.memKey := rfl
@[simp] theorem dm_caFail (f : Domain → Domain) : (s.dm f).caFail = s.caFail := rfl
@[simp] theorem dm_pllLost (f : Domain → Domain) : (s.dm f).pllLost = s.pllLost := rfl
@[simp] theorem dm_clrDead (f : Domain → Domain) : (s.dm f).clrDead = s.clrDead := rfl
@[simp] theorem dm_bgAt (f : Domain → Domain) : (s.dm f).bgAt = s.bgAt := rfl
@[simp] theorem dm_bgSlice (f : Domain → Domain) : (s.dm f).bgSlice = s.bgSlice := rfl
@[simp] theorem dm_halfRd (f : Domain → Domain) : (s.dm f).halfRd = s.halfRd := rfl
@[simp] theorem dm_halfWr (f : Domain → Domain) : (s.dm f).halfWr = s.halfWr := rfl
@[simp] theorem dm_lockvSeen (f : Domain → Domain) : (s.dm f).lockvSeen = s.lockvSeen := rfl
@[simp] theorem dm_tlmAt (f : Domain → Domain) : (s.dm f).tlmAt = s.tlmAt := rfl
@[simp] theorem dm_tlmBase (f : Domain → Domain) : (s.dm f).tlmBase = s.tlmBase := rfl
@[simp] theorem mg_pending (f : Mgmt → Mgmt) : (s.mg f).pending = s.pending := rfl
@[simp] theorem mg_now (f : Mgmt → Mgmt) : (s.mg f).now = s.now := rfl
@[simp] theorem mg_freeCtr (f : Mgmt → Mgmt) : (s.mg f).freeCtr = s.freeCtr := rfl
@[simp] theorem mg_out (f : Mgmt → Mgmt) : (s.mg f).out = s.out := rfl
@[simp] theorem mg_pav (f : Mgmt → Mgmt) : (s.mg f).pav = s.pav := rfl
@[simp] theorem mg_eng (f : Mgmt → Mgmt) : (s.mg f).eng = s.eng := rfl
@[simp] theorem mg_images (f : Mgmt → Mgmt) : (s.mg f).images = s.images := rfl
@[simp] theorem mg_items (f : Mgmt → Mgmt) : (s.mg f).items = s.items := rfl
@[simp] theorem mg_nextItem (f : Mgmt → Mgmt) : (s.mg f).nextItem = s.nextItem := rfl
@[simp] theorem mg_net (f : Mgmt → Mgmt) : (s.mg f).net = s.net := rfl
@[simp] theorem mg_tokens (f : Mgmt → Mgmt) : (s.mg f).tokens = s.tokens := rfl
@[simp] theorem mg_netSent (f : Mgmt → Mgmt) : (s.mg f).netSent = s.netSent := rfl
@[simp] theorem mg_netWrr (f : Mgmt → Mgmt) : (s.mg f).netWrr = s.netWrr := rfl
@[simp] theorem mg_netLast (f : Mgmt → Mgmt) : (s.mg f).netLast = s.netLast := rfl
@[simp] theorem mg_mem (f : Mgmt → Mgmt) : (s.mg f).mem = s.mem := rfl
@[simp] theorem mg_regs (f : Mgmt → Mgmt) : (s.mg f).regs = s.regs := rfl
@[simp] theorem mg_evHeld (f : Mgmt → Mgmt) : (s.mg f).evHeld = s.evHeld := rfl
@[simp] theorem mg_evLost (f : Mgmt → Mgmt) : (s.mg f).evLost = s.evLost := rfl
@[simp] theorem mg_streams (f : Mgmt → Mgmt) : (s.mg f).streams = s.streams := rfl
@[simp] theorem mg_preds (f : Mgmt → Mgmt) : (s.mg f).preds = s.preds := rfl
@[simp] theorem mg_chans (f : Mgmt → Mgmt) : (s.mg f).chans = s.chans := rfl
@[simp] theorem mg_gens (f : Mgmt → Mgmt) : (s.mg f).gens = s.gens := rfl
@[simp] theorem mg_watch (f : Mgmt → Mgmt) : (s.mg f).watch = s.watch := rfl
@[simp] theorem mg_rings (f : Mgmt → Mgmt) : (s.mg f).rings = s.rings := rfl
@[simp] theorem mg_reads (f : Mgmt → Mgmt) : (s.mg f).reads = s.reads := rfl
@[simp] theorem mg_nextTag (f : Mgmt → Mgmt) : (s.mg f).nextTag = s.nextTag := rfl
@[simp] theorem mg_vecs (f : Mgmt → Mgmt) : (s.mg f).vecs = s.vecs := rfl
@[simp] theorem mg_outbox (f : Mgmt → Mgmt) : (s.mg f).outbox = s.outbox := rfl
@[simp] theorem mg_regions (f : Mgmt → Mgmt) : (s.mg f).regions = s.regions := rfl
@[simp] theorem mg_grans (f : Mgmt → Mgmt) : (s.mg f).grans = s.grans := rfl
@[simp] theorem mg_rack (f : Mgmt → Mgmt) : (s.mg f).rack = s.rack := rfl
@[simp] theorem mg_view (f : Mgmt → Mgmt) : (s.mg f).view = s.view := rfl
@[simp] theorem mg_tables (f : Mgmt → Mgmt) : (s.mg f).tables = s.tables := rfl
@[simp] theorem mg_insts (f : Mgmt → Mgmt) : (s.mg f).insts = s.insts := rfl
@[simp] theorem mg_nextInst (f : Mgmt → Mgmt) : (s.mg f).nextInst = s.nextInst := rfl
@[simp] theorem mg_qwait (f : Mgmt → Mgmt) : (s.mg f).qwait = s.qwait := rfl
@[simp] theorem mg_rbufs (f : Mgmt → Mgmt) : (s.mg f).rbufs = s.rbufs := rfl
@[simp] theorem mg_jobs (f : Mgmt → Mgmt) : (s.mg f).jobs = s.jobs := rfl
@[simp] theorem mg_nextJob (f : Mgmt → Mgmt) : (s.mg f).nextJob = s.nextJob := rfl
@[simp] theorem mg_slots (f : Mgmt → Mgmt) : (s.mg f).slots = s.slots := rfl
@[simp] theorem mg_inbox (f : Mgmt → Mgmt) : (s.mg f).inbox = s.inbox := rfl
@[simp] theorem mg_tlmAcc (f : Mgmt → Mgmt) : (s.mg f).tlmAcc = s.tlmAcc := rfl
@[simp] theorem mg_nwCfg (f : Mgmt → Mgmt) : (s.mg f).nwCfg = s.nwCfg := rfl
@[simp] theorem mg_nwSt (f : Mgmt → Mgmt) : (s.mg f).nwSt = s.nwSt := rfl
@[simp] theorem mg_seqs (f : Mgmt → Mgmt) : (s.mg f).seqs = s.seqs := rfl
@[simp] theorem mg_nextSeq (f : Mgmt → Mgmt) : (s.mg f).nextSeq = s.nextSeq := rfl
@[simp] theorem mg_nextCommit (f : Mgmt → Mgmt) : (s.mg f).nextCommit = s.nextCommit := rfl
@[simp] theorem mg_decHist (f : Mgmt → Mgmt) : (s.mg f).decHist = s.decHist := rfl
@[simp] theorem mg_preHist (f : Mgmt → Mgmt) : (s.mg f).preHist = s.preHist := rfl
@[simp] theorem mg_thr (f : Mgmt → Mgmt) : (s.mg f).thr = s.thr := rfl
@[simp] theorem mg_throttling (f : Mgmt → Mgmt) : (s.mg f).throttling = s.throttling := rfl
@[simp] theorem mg_frz (f : Mgmt → Mgmt) : (s.mg f).frz = s.frz := rfl
@[simp] theorem mg_qSince (f : Mgmt → Mgmt) : (s.mg f).qSince = s.qSince := rfl
@[simp] theorem mg_wrr (f : Mgmt → Mgmt) : (s.mg f).wrr = s.wrr := rfl
@[simp] theorem mg_lastCh (f : Mgmt → Mgmt) : (s.mg f).lastCh = s.lastCh := rfl
@[simp] theorem mg_moves (f : Mgmt → Mgmt) : (s.mg f).moves = s.moves := rfl
@[simp] theorem mg_movesUp (f : Mgmt → Mgmt) : (s.mg f).movesUp = s.movesUp := rfl
@[simp] theorem mg_wakeReq (f : Mgmt → Mgmt) : (s.mg f).wakeReq = s.wakeReq := rfl
@[simp] theorem mg_arrived (f : Mgmt → Mgmt) : (s.mg f).arrived = s.arrived := rfl
@[simp] theorem mg_admFwd (f : Mgmt → Mgmt) : (s.mg f).admFwd = s.admFwd := rfl
@[simp] theorem mg_copies (f : Mgmt → Mgmt) : (s.mg f).copies = s.copies := rfl
@[simp] theorem mg_wakeq (f : Mgmt → Mgmt) : (s.mg f).wakeq = s.wakeq := rfl
@[simp] theorem mg_l1 (f : Mgmt → Mgmt) : (s.mg f).l1 = s.l1 := rfl
@[simp] theorem mg_d3hot (f : Mgmt → Mgmt) : (s.mg f).d3hot = s.d3hot := rfl
@[simp] theorem mg_lastHost (f : Mgmt → Mgmt) : (s.mg f).lastHost = s.lastHost := rfl
@[simp] theorem mg_admHeld (f : Mgmt → Mgmt) : (s.mg f).admHeld = s.admHeld := rfl
@[simp] theorem mg_tenGone (f : Mgmt → Mgmt) : (s.mg f).tenGone = s.tenGone := rfl
@[simp] theorem mg_tenWant (f : Mgmt → Mgmt) : (s.mg f).tenWant = s.tenWant := rfl
@[simp] theorem mg_keys (f : Mgmt → Mgmt) : (s.mg f).keys = s.keys := rfl
@[simp] theorem mg_nonces (f : Mgmt → Mgmt) : (s.mg f).nonces = s.nonces := rfl
@[simp] theorem mg_planNext (f : Mgmt → Mgmt) : (s.mg f).planNext = s.planNext := rfl
@[simp] theorem mg_groups (f : Mgmt → Mgmt) : (s.mg f).groups = s.groups := rfl
@[simp] theorem mg_repair (f : Mgmt → Mgmt) : (s.mg f).repair = s.repair := rfl
@[simp] theorem mg_ports (f : Mgmt → Mgmt) : (s.mg f).ports = s.ports := rfl
@[simp] theorem mg_rxMsgs (f : Mgmt → Mgmt) : (s.mg f).rxMsgs = s.rxMsgs := rfl
@[simp] theorem mg_acksIn (f : Mgmt → Mgmt) : (s.mg f).acksIn = s.acksIn := rfl
@[simp] theorem mg_txSeq (f : Mgmt → Mgmt) : (s.mg f).txSeq = s.txSeq := rfl
@[simp] theorem mg_unacked (f : Mgmt → Mgmt) : (s.mg f).unacked = s.unacked := rfl
@[simp] theorem mg_rxSeq (f : Mgmt → Mgmt) : (s.mg f).rxSeq = s.rxSeq := rfl
@[simp] theorem mg_rxHeld (f : Mgmt → Mgmt) : (s.mg f).rxHeld = s.rxHeld := rfl
@[simp] theorem mg_hopDrop (f : Mgmt → Mgmt) : (s.mg f).hopDrop = s.hopDrop := rfl
@[simp] theorem mg_tenantDrop (f : Mgmt → Mgmt) : (s.mg f).tenantDrop = s.tenantDrop := rfl
@[simp] theorem mg_floodDue (f : Mgmt → Mgmt) : (s.mg f).floodDue = s.floodDue := rfl
@[simp] theorem mg_viewDue (f : Mgmt → Mgmt) : (s.mg f).viewDue = s.viewDue := rfl
@[simp] theorem mg_bypMove (f : Mgmt → Mgmt) : (s.mg f).bypMove = s.bypMove := rfl
@[simp] theorem mg_bypWait (f : Mgmt → Mgmt) : (s.mg f).bypWait = s.bypWait := rfl
@[simp] theorem mg_bypPin (f : Mgmt → Mgmt) : (s.mg f).bypPin = s.bypPin := rfl
@[simp] theorem mg_pavane (f : Mgmt → Mgmt) : (s.mg f).pavane = s.pavane := rfl
@[simp] theorem mg_bars (f : Mgmt → Mgmt) : (s.mg f).bars = s.bars := rfl
@[simp] theorem mg_releases (f : Mgmt → Mgmt) : (s.mg f).releases = s.releases := rfl
@[simp] theorem mg_lateRel (f : Mgmt → Mgmt) : (s.mg f).lateRel = s.lateRel := rfl
@[simp] theorem mg_colls (f : Mgmt → Mgmt) : (s.mg f).colls = s.colls := rfl
@[simp] theorem mg_supply (f : Mgmt → Mgmt) : (s.mg f).supply = s.supply := rfl
@[simp] theorem mg_boot (f : Mgmt → Mgmt) : (s.mg f).boot = s.boot := rfl
@[simp] theorem mg_dom (f : Mgmt → Mgmt) : (s.mg f).dom = s.dom := rfl
@[simp] theorem mg_keyDraws (f : Mgmt → Mgmt) : (s.mg f).keyDraws = s.keyDraws := rfl
@[simp] theorem mg_memKey (f : Mgmt → Mgmt) : (s.mg f).memKey = s.memKey := rfl
@[simp] theorem mg_caFail (f : Mgmt → Mgmt) : (s.mg f).caFail = s.caFail := rfl
@[simp] theorem mg_pllLost (f : Mgmt → Mgmt) : (s.mg f).pllLost = s.pllLost := rfl
@[simp] theorem mg_clrDead (f : Mgmt → Mgmt) : (s.mg f).clrDead = s.clrDead := rfl
@[simp] theorem mg_bgAt (f : Mgmt → Mgmt) : (s.mg f).bgAt = s.bgAt := rfl
@[simp] theorem mg_bgSlice (f : Mgmt → Mgmt) : (s.mg f).bgSlice = s.bgSlice := rfl
@[simp] theorem mg_halfRd (f : Mgmt → Mgmt) : (s.mg f).halfRd = s.halfRd := rfl
@[simp] theorem mg_halfWr (f : Mgmt → Mgmt) : (s.mg f).halfWr = s.halfWr := rfl
@[simp] theorem mg_lockvSeen (f : Mgmt → Mgmt) : (s.mg f).lockvSeen = s.lockvSeen := rfl
@[simp] theorem mg_tlmAt (f : Mgmt → Mgmt) : (s.mg f).tlmAt = s.tlmAt := rfl
@[simp] theorem mg_tlmBase (f : Mgmt → Mgmt) : (s.mg f).tlmBase = s.tlmBase := rfl

end Sys2Proof.Machine
end

