-- ==== Sys2Proof/Tests/Slice0.lean ====
section
/-! SUPPORT. Tests: ill-formed commands are refused by the well-formedness check, worked examples of the manual, and for each statement states
and operands that meet its hypotheses. -/

namespace Sys2Proof.Tests

open Sys2Proof Sys2Proof.Machine

set_option Elab.async false

/-! ### Helpers -/

/-- A slot word from an OP and (position, value) fields. -/
def word (op : Nat) (fs : List (Nat × Nat)) : W64 := BitVec.ofNat 64 (fs.foldl (fun n p => n + p.2 * 2 ^ p.1) op)

/-- Quadrant 0 on. -/
def onRegs : SMap W64 := (State.setField {} 0x10100 32 3 0).regs
/-- Engine 0 runs work item 1 with a program of these needs. -/
def one (h : Hdr) (c : Core) : State :=
  { eng := [(0, { st := .running, item := 1, core := c, snap := c })], items := [(1, { hdr := h, phase := .running, engines := [0] })], regs := onRegs }

def hdr8 : Hdr := { bundles := 8, kNeed := 8192, lNeed := 8192, tNeed := 8192 }


/-- A state with register fields written: (offset, first bit, bits, value). -/
def withFields (s : State) (fs : List (Nat × Nat × Nat × Nat)) : State := fs.foldl (fun s f => s.setField f.1 f.2.1 f.2.2.1 f.2.2.2) s
/-- A module in service: out of reset, READY, head of its own domain, quadrant 0 on. -/
def up : State := withFields { boot := { sb := true, powerRst := false, bar0 := true, memDone := true, fabDone := true, hostUp := true }, now := 10 ^ 10 }
  [(rPHASE, 0, 5, 0x1D), (rDOMAIN_CFG, 14, 1, 1), (qclkOff 0, 32, 3, 0)]
/-- `n` bytes with fields (offset, bytes, value). -/
def bytesOf (n : Nat) (fs : List (Nat × Nat × Nat)) : Bytes := leBytes n (fs.foldl (fun a f => a + f.2.2 * 2 ^ (8 * f.1)) 0)

/-! ### Well-formedness: each check refuses an ill-formed command -/

/-- OP of a slot word is no other listed operation's; a DMA kind is no other listed kind. -/
theorem wf_op : (∀ c ∈ [Instr.tbD, Instr.iadd, Instr.fold, Instr.mvLd, Instr.send, Instr.brc], (c 0 2).wf = false) ∧
    (∀ c ∈ [
      Instr.tbS, Instr.tbP, Instr.isub, Instr.imin, Instr.imax, Instr.vxAnd, Instr.vxOr, Instr.vxXor, Instr.shl, Instr.shra, Instr.shrl, Instr.icmp,
      Instr.sel, Instr.lmul, Instr.ldiv, Instr.ladd, Instr.lsub, Instr.lsqr, Instr.lsqrt, Instr.lexp2, Instr.llog2, Instr.lcmp, Instr.lmax,
      Instr.lmin, Instr.lneg, Instr.vxCvt, Instr.rmax, Instr.rsum, Instr.vxMov, Instr.bcast, Instr.tos, Instr.xchg, Instr.plogic, Instr.iota,
      Instr.rqCvt, Instr.merge, Instr.anp, Instr.anpMeasurement, Instr.rqClr, Instr.mvSt, Instr.mvStr, Instr.mvAcw, Instr.mvAgset, Instr.mvThset,
      Instr.mvThadd, Instr.xopen, Instr.mvSld, Instr.mvSst, Instr.syNop, Instr.wait, Instr.stackLoad, Instr.stackStore, Instr.hostLoad,
      Instr.hostStore, Instr.planeGather, Instr.marlGather, Instr.peer, Instr.stackCopy, Instr.fmtFence, Instr.qsend, Instr.svsend, Instr.endOp,
      Instr.jmp, Instr.loop, Instr.sadd, Instr.ssub, Instr.sand, Instr.sor, Instr.sxor, Instr.sshl, Instr.sshr, Instr.ssra, Instr.smin, Instr.smax,
      Instr.slt, Instr.sltu, Instr.sli, Instr.slih], (c 0 1).wf = false) ∧
    (Instr.laD 0 0 2).wf = false ∧ (∀ c ∈ [Instr.laS, Instr.laC, Instr.laCs, Instr.laP], (c 0 0 1).wf = false) := by decide +kernel
theorem wf_kind : (∀ c ∈ [Instr.stackStore, Instr.hostLoad, Instr.hostStore, Instr.planeGather, Instr.marlGather, Instr.peer, Instr.stackCopy],
    (c 0 0x03).wf = false) ∧ (Instr.stackLoad 0 (0x03 + 1024)).wf = false := by decide +kernel
theorem wf_engines : (Instr.resume 1 [3, 3]).wf = false ∧ (Instr.workItemStart 1 [3, 4, 3]).wf = false ∧ (Instr.tc0Start 1 [5, 5]).wf = false ∧
    (Instr.expertWorkStart 1 [0, 0]).wf = false := by decide +kernel
theorem wf_accesses : (Instr.wakeWrite 0 3 0).wf = false ∧ (Instr.wakeWrite 0 4 (2 ^ 32)).wf = false ∧ (Instr.registerWrite 0 0 2 0).wf = false ∧
    (Instr.registerWrite 0 0 8 (2 ^ 64)).wf = false ∧ (Instr.work 1 [4096]).wf = false := by decide +kernel
theorem wf_frames : (∀ c ∈ [Instr.getStatus, .regRead, .regWrite, .domainRead, .domainWrite, .unlockChallenge false, .unlockResponse true, .getIdentity],
      (c []).wf = false ∧ (c [9, 0, 0]).wf = false) ∧ (Instr.getStatus (1 :: List.replicate 258 0)).wf = false := by decide +kernel
theorem wf_sizes : (Instr.flitReceive 0 (List.replicate 255 0) false 0).wf = false ∧ (Instr.portTrainingComplete 0 255 64 0 0 0).wf = false ∧
    (Instr.portTrainingComplete 0 255 0 64 0 0).wf = false ∧ (Instr.portTrainingComplete 0 255 0 0 16 0).wf = false ∧ (Instr.laserCheck 0 [700]).wf = false ∧
    (Instr.mchCalibration 0 0 [68] none true).wf = false ∧ (Instr.bgSlice 4 1).wf = false ∧ (Instr.bgSlice 5 0).wf = false ∧ (Instr.powerSample 1800 10 [200]).wf = false ∧
    (Instr.powerResetRelease 64 0 0).wf = false ∧ (Instr.powerResetRelease 0 64 0).wf = false ∧ (Instr.thermalSample [] 0 0 0).wf = false ∧
    (Instr.memoryPhaseComplete []).wf = false ∧ (Instr.memberLeave 3 0).wf = false ∧ (Instr.memberLeave 3 5).wf = false ∧ (Instr.modRstRelease 64 0).wf = false ∧
    (Instr.modRstRelease 0 64).wf = false ∧ (Instr.memoryPhaseComplete (.repaired none none none :: List.replicate 255 .pass)).wf = false ∧
    (Instr.memoryPhaseComplete (.repaired (some 68) none none :: List.replicate 255 .pass)).wf = false := by decide +kernel
theorem wf_accepts : (Instr.tbD 0 0x01).wf = true ∧ (Instr.stackCopy 0 (0x03 + 1024 * 7)).wf = true ∧ (Instr.stackCopy 0 (0x03 + 1024 * 9)).wf = true ∧
    (Instr.tbS 0 0x3F).wf = true ∧ (Instr.fold 0 0).wf = true ∧ (Instr.bgSlice 0 191).wf = true ∧ (Instr.memberLeave 3 4).wf = true := by
  decide +kernel
/-! ### States that meet the statements' hypotheses: slot operations -/

/-- LookupIsDotProduct, at the ends of each range. -/
theorem met_lookup : (∀ t ∈ ([-1, 0, 1, 1, -1] : List Int), t = -1 ∨ t = 0 ∨ t = 1) ∧ (4, 1) = ((4 : Nat), (1 : Nat)) ∧ (3, 4) = pairOf 9 ∧ (0, 1) = pairOf 0 ∧
    ([1, 2, 3, 4, 5, 6, 7, 8] : List Int).length = 8 := by decide +kernel

/-- LookupAccumulateResults: a word and a state for each of the five operations. -/
def laCore (mode : Nat) : Core := { ag := [(2, { store := 1 })], tiles := [(1, { tag := BitVec.ofNat 8 (2 + 16 * mode) })], scal := [(5, 4)] }
def laWord : W64 := word 1 [(9, 1), (11, 3), (15, 1), (22, 2), (28, 1), (29, 2)]
theorem met_la : ∀ p ∈ [(LKind.d, 0), (.s, 1), (.p, 2)], ∀ half : Fin 2, (one hdr8 (laCore p.1.mode)).slotOpen 0 (1 + half.val) laWord ∧
    laReads (one hdr8 (laCore p.1.mode)) ((one hdr8 (laCore p.1.mode)).engine 0) p.1 half.val laWord ∧ slotField laWord 29 4 = fI8 ∧
    onlySpans laWord false [(9, 2), (11, 4), (15, 7), (22, 4), (26, 1), (27, 1), (28, 1), (29, 4), (33, 1)] = true ∧
    setAddr p.1.tkind (((one hdr8 (laCore p.1.mode)).engine 0).core.t (slotField laWord 11 4)) (slotField laWord 15 7) + 2048 ≤ hdr8.tNeed := by
  unfold State.slotOpen State.slotFree laReads; decide +kernel
def laCol : W64 := word 3 [(9, 1), (22, 2), (28, 1), (29, 2), (34, 7), (40, 4), (45, 5)]
theorem met_laCol : ∀ k ∈ [LKind.c, .cs], (one hdr8 (laCore k.mode)).slotOpen 0 1 laCol ∧ laReads (one hdr8 (laCore k.mode)) ((one hdr8 (laCore k.mode)).engine 0) k 0 laCol ∧
    onlySpans laCol false [(9, 2), (11, 4), (15, 7), (22, 4), (26, 1), (27, 1), (28, 1), (29, 4), (33, 1), (34, 6), (40, 5), (45, 5)] = true ∧
    ((laCore k.mode).sw (slotField laCol 40 5)).toNat < ((laCore k.mode).sw (slotField laCol 45 5)).toNat := by
  unfold State.slotOpen State.slotFree laReads; decide +kernel

/-- ScalarOperationResults. -/
theorem met_scalar : (one hdr8 {}).slotOpen 0 6 (word 0x10 [(9, 3), (24, 1), (25, 0xFFFFFFFF)]) ∧ (one hdr8 {}).slotOpen 0 6 (word 0x1C [(9, 31), (25, 0x80000000)]) ∧
    onlySpans (word 0x10 [(9, 3), (24, 1), (25, 0xFFFFFFFF)]) false [(9, 5), (14, 5), (19, 5), (24, 1), (25, 32)] = true ∧
    slotField (word 0x10 [(9, 3), (24, 1), (25, 0xFFFFFFFF)]) 19 5 = 0 ∧ onlySpans (word 0x1C [(9, 31), (25, 0x80000000)]) false [(9, 5), (25, 32)] = true := by
  unfold State.slotOpen State.slotFree; decide +kernel

/-- BranchesAndLoops: targets 0 and the last bundle, one below and one above; counts 0 and 1; the fourth and the fifth loop. -/
def brWord (off : Nat) : W64 := word 1 [(9, 0), (11, 1), (16, off)]
theorem met_branch : (∀ off ∈ [0xFFFFFD, 4, 0xFFFFFC, 5], (one hdr8 { pc := 3 }).slotOpen 0 6 (brWord off) ∧ onlySpans (brWord off) false [(9, 2), (11, 5), (16, 24)] = true) ∧
    (3 : Int) + ((brWord 0xFFFFFD).extractLsb' 16 24).toInt = 0 ∧ (3 : Int) + ((brWord 4).extractLsb' 16 24).toInt = 7 ∧
    (3 : Int) + ((brWord 0xFFFFFC).extractLsb' 16 24).toInt = -1 ∧ (3 : Int) + ((brWord 5).extractLsb' 16 24).toInt = 8 ∧
    (one hdr8 { pc := 3 }).slotOpen 0 6 (word 2 [(16, 4)]) ∧ onlySpans (word 2 [(16, 4)]) false [(16, 24)] = true := by unfold State.slotOpen State.slotFree; decide +kernel
theorem met_loop : (∀ l ∈ [[], List.replicate 3 (⟨0, 7, 1⟩ : LoopSt), List.replicate 4 ⟨0, 7, 1⟩], (one hdr8 { pc := 3, loops := l }).slotOpen 0 6 (word 3 [(11, 1), (16, 4)])) ∧
   
    onlySpans (word 3 [(11, 1), (16, 4)]) false [(11, 5), (16, 16)] = true ∧ slotField (word 3 [(11, 1), (16, 4)]) 16 16 = 4 ∧ 3 + 4 < hdr8.bundles ∧
    (one hdr8 { pc := 3 }).slotOpen 0 6 (word 3 [(16, 5)]) ∧ slotField (word 3 [(16, 5)]) 16 16 = 5 ∧ ¬ 3 + 5 < hdr8.bundles := by unfold State.slotOpen State.slotFree; decide +kernel

/-- VectorIntegerResults, PredicateOperations, VectorL16Results, VectorMovesReductionsConversions. -/
theorem met_vector : (∀ op ∈ [1, 8, 0xB, 0x34, 0x14, 0x31, 0x32, 0x35, 0x29, 0x20], ∀ l ∈ [[], [(9, 1), (15, 2), (21, 63)]], (one hdr8 {}).slotOpen 0 3 (word op l)) ∧
    onlySpans (word 1 [(6, 7), (9, 63), (15, 1), (21, 2)]) true [(9, 6), (15, 6), (21, 6)] = true ∧
    onlySpans (word 8 [(9, 63), (15, 1), (21, 2)]) true [(9, 6), (15, 6), (21, 6), (27, 1), (28, 5)] = true ∧
    (word 8 [(9, 63), (15, 1), (27, 1), (28, 31)]).getLsbD 27 = true ∧ slotField (word 8 [(9, 63), (15, 1), (27, 1), (28, 31)]) 21 6 = 0 ∧
    onlySpans (word 0xB [(15, 1), (21, 2), (28, 5), (31, 7)]) true [(15, 6), (21, 6), (28, 3), (31, 3)] = true ∧
    onlySpans (word 0x34 [(31, 1), (34, 2), (37, 3), (40, 3)]) false [(31, 3), (34, 3), (37, 3), (40, 2)] = true ∧
    onlySpans (word 0x14 [(9, 1), (15, 2)]) true [(9, 6), (15, 6)] = true ∧ onlySpans (word 0x31 [(9, 1), (15, 31)]) true [(9, 6), (15, 5)] = true ∧
    onlySpans (word 0x32 [(9, 31), (15, 1), (21, 63)]) false [(9, 5), (15, 6), (21, 6)] = true ∧ onlySpans (word 0x35 [(9, 1)]) true [(9, 6)] = true ∧
    (∀ f ∈ [fI32, fL16], onlySpans (word 0x29 [(9, 1), (15, 2), (27, f)]) true [(9, 6), (15, 6), (27, 4)] = true ∧ slotField (word 0x29 [(9, 1), (27, f)]) 27 4 = f) ∧
    onlySpans (word 0x20 [(9, 1), (15, 2), (27, fI32), (31, fL16)]) true [(9, 6), (15, 6), (27, 4), (31, 4)] = true ∧ cvtFmtOk fI32 = true ∧ cvtFmtOk fL16 = true := by
  unfold State.slotOpen State.slotFree; decide +kernel
/-- XCHG: member 1 of a group of two, and member 2, which the group does not have. -/
theorem met_xchg : (∀ m ∈ [1, 2], (one { hdr8 with group := 2 } {}).slotOpen 0 3 (word 0x33 [(9, 1), (15, 2), (27, m)]) ∧
      onlySpans (word 0x33 [(9, 1), (15, 2), (27, m)]) true [(9, 6), (15, 6), (27, 5)] = true) ∧
    slotField (word 0x33 [(27, 1)]) 27 5 < 2 ∧ 2 ≤ slotField (word 0x33 [(27, 2)]) 27 5 := by unfold State.slotOpen State.slotFree; decide +kernel
/-- TableBuildResults: the eight positions of row 0, one byte apart by eight. -/
def tbWord (fmt : Nat) : W64 := word 1 [(9, 1), (13, 1), (20, 2), (24, 4), (29, 5), (34, 6), (39, fmt)]
def tbCore (fmt : Nat) : Core := { scal := [(5, 40), (6, 8)], loam := { tags := [(0, fmt)] } }
theorem met_tb : (∀ fmt ∈ [fI8, fI4], (one hdr8 (tbCore fmt)).slotOpen 0 0 (tbWord fmt) ∧
    onlySpans (tbWord fmt) true [(9, 4), (13, 7), (20, 4), (24, 5), (29, 5), (34, 5), (39, 4), (43, 2), (45, 1), (46, 5)] = true ∧ slotField (tbWord fmt) 39 4 = fmt ∧
    (tbWord fmt).getLsbD 45 = false ∧ slotField (tbWord fmt) 46 5 = 0 ∧ ((tbCore fmt).g (slotField (tbWord fmt) 20 4)).store = 0) ∧
    (∀ k ∈ [TKind.dense, .two5, .plane], setAddr k ((tbCore fI8).t 1) 1 + k.setBytes ≤ hdr8.tNeed) ∧
    (∀ n < 8, ∀ j < 8, actByte fI8 ((((tbCore fI8).g 2).cur.toNat + n * ((tbCore fI8).sw 6).toNat) % 2 ^ 32) (((tbCore fI8).sw 4).toNat + j) < hdr8.lNeed ∧
      (tbCore fI8).loam.tag (actByte fI8 ((((tbCore fI8).g 2).cur.toNat + n * ((tbCore fI8).sw 6).toNat) % 2 ^ 32) (((tbCore fI8).sw 4).toNat + j) / 256) = fI8) := by
  unfold State.slotOpen State.slotFree; decide +kernel

/-- LongAccumulatorTermsExact: 32 exponents apart, at the upper end of the window; the least exponent. -/
theorem met_lacc : (let x : LEl := ⟨1, 0, 0, false, false, false⟩
    let sum := x.w.toInt * 2 ^ (x.l.toInt - min x.l.toInt 32).toNat + (2 ^ 47 - 1) * 2 ^ ((32 : Int) - min x.l.toInt 32).toNat
    x.l.toInt ≤ x.h.toInt ∧ max x.h.toInt 32 - min x.l.toInt 32 ≤ 32 ∧ sum < 2 ^ 79 ∧ -(2 ^ 79) ≤ sum) ∧ LEl.clear.empty = true := by decide +kernel

/-- FoldMergeClearResults. -/
def rqCore : Core := { tiles := [(1, { tag := 2, chains := [(0, 10), (2047, -4)], fold := some ⟨[], []⟩ })], scal := [(7, 0x4E138)], loam := { tags := [(0, fSC8)] } }
def foldWord (new : Nat) : W64 := word 1 [(9, 1), (11, 1), (12, 1), (13, new), (14, 2), (22, 3), (32, 7)]
theorem met_fold : (∀ new ∈ [0, 1], (one hdr8 rqCore).slotOpen 0 4 (foldWord new) ∧ ((one hdr8 rqCore).engine 0).unitFree 4 = true ∧
    onlySpans (foldWord new) false [(9, 2), (11, 1), (12, 1), (13, 1), (14, 8), (22, 4), (26, 4), (30, 2), (32, 5)] = true ∧ slotField (foldWord new) 30 2 = 0 ∧ fmtReserved (slotField (foldWord new) 14 4) = false ∧ (rqCore.tile 1).ovf = false ∧ (rqCore.tile 1).errs = [] ∧
    ((rqCore.tile 1).tag.toNat = slotField (foldWord new) 14 8) ∧ (∀ kv ∈ (rqCore.tile 1).chains, kv.2.toInt % 2 = 0) ∧ (rqCore.tile 1).tag.toNat.testBit 6 = false) ∧
    (rqCore.tile 1).fold = some ⟨[], []⟩ ∧ (rqCore.sw 7).toNat < 2 ^ 20 ∧
    tscaleBad ((rqCore.sw 7).toNat / 2 ^ 8 % 4) ((rqCore.sw 7).toNat % 256) = false ∧ tscaleBad ((rqCore.sw 7).toNat / 2 ^ 18 % 4) ((rqCore.sw 7).toNat / 2 ^ 10 % 256) = false := by
  unfold State.slotOpen State.slotFree; decide +kernel
theorem met_foldScales : (match Engine.posScales 0 hdr8 (slotField (foldWord 1) 22 4) 1 (List.range 8) (((one hdr8 rqCore).engine 0).busyTill 4 12) with
    | .ok (pb, bad, m, _) => !bad && decide (m = 0) && pb.all (fun b => !e4m3Bad (b.headD 0).toNat)
    | .error _ => false) = true := by decide +kernel
/-- Tiles whose fold meets each thing that it reports: OVF, an odd chain, a parity error; a word whose TAG is a reserved format. -/
def badTile (t : Tile) : Core := { rqCore with tiles := [(1, { t with tag := 2, fold := some ⟨[], []⟩ })] }
theorem met_foldBad : (∀ t ∈ [({ ovf := true } : Tile), { chains := [(2047, 3)] }, { chains := [(5, 1)], errs := [(5, 1)] }],
      (one hdr8 (badTile t)).slotOpen 0 4 (foldWord 0) ∧ ((one hdr8 (badTile t)).engine 0).unitFree 4 = true ∧ (foldWord 0).getLsbD 12 = true ∧ (foldWord 0).getLsbD 13 = false ∧
      ((badTile t).tile 1).tag.toNat = slotField (foldWord 0) 14 8) ∧ (({ chains := [(2047, 3)] } : Tile).chainRead 2047).toInt % 2 ≠ 0 ∧
    ({ chains := [(5, 1)], errs := [(5, 1)] } : Tile).parity 0 0 2048 ≠ 0 ∧ fmtReserved (slotField (word 1 [(14, 13)]) 14 4) = true := by
  unfold State.slotOpen State.slotFree; decide +kernel
theorem met_mergeClear : (∀ p ∈ [(3, [(9, 3), (11, 7), (14, 2)]), (5, [(9, 3)])],
      (one hdr8 { loam := { tags := (List.range 16).map (fun r => (r, fLACC)) } }).slotOpen 0 4 (word p.1 p.2)) ∧
    onlySpans (word 3 [(9, 3), (11, 7), (14, 2)]) false [(9, 2), (11, 3), (14, 4)] = true ∧ onlySpans (word 5 [(9, 3)]) false [(9, 2)] = true ∧
    (∀ r ∈ rowsOf 0 4096, (({ tags := (List.range 16).map (fun r => (r, fLACC)) } : Store)).tag r = fLACC) := by unfold State.slotOpen State.slotFree; decide +kernel

/-- ConversionWritesRows: an L16 row written plain, and an I8 row that the compressor keeps open or closes. -/
def cvtWord (ofmt comp : Nat) : W64 := word 2 [(9, 1), (11, ofmt), (26, 4), (37, 2), (41, 3), (52, comp)]
theorem met_cvt : ∀ p ∈ [(fL16, 0), (fI8, 0), (fI8, 1), (fI8, 2)], (one hdr8 {}).slotOpen 0 4 (cvtWord p.1 p.2) ∧ ((one hdr8 {}).engine 0).unitFree 4 = true ∧
    onlySpans (cvtWord p.1 p.2) true [(9, 2), (11, 4), (15, 1), (16, 10), (26, 5), (31, 6), (37, 4), (41, 4), (45, 4), (49, 1), (50, 2), (52, 2), (54, 8)] = true ∧
    fmtReserved p.1 = false ∧ p.1 ≠ fNONE ∧ p.1 ≠ fRAW ∧ p.1 ≠ fSC8 ∧ p.1 ≠ fLACC ∧ slotField (cvtWord p.1 p.2) 26 5 ≤ 28 ∧ slotField (cvtWord p.1 p.2) 52 2 = p.2 ∧
    (cvtWord p.1 p.2).getLsbD 15 = false ∧ (cvtWord p.1 p.2).getLsbD 49 = false ∧ attrOk 0 = true ∧ ctlOk 0 fI8 = true ∧
    (∀ a ∈ (({} : Core).useTwo 2 3 8).1, a + 256 * fmtBits p.1 / 8 ≤ hdr8.lNeed ∧ a + 320 ≤ hdr8.lNeed) ∧
    (∀ a ∈ (({} : Core).useTwo 2 3 8).2.1, a + 8 ≤ hdr8.lNeed) := by unfold State.slotOpen State.slotFree; decide +kernel

/-- NeuronDecisions: a decision, and the report of tile 1's audit. -/
def anpWord (f thr : Nat) : W64 := word 4 [(9, 1), (11, 2), (15, 3), (19, f), (20, thr), (25, 960), (35, 4)]
theorem met_anp : (∀ f ∈ [0, 1], (one hdr8 {}).slotOpen 0 4 (anpWord f 9) ∧ onlySpans (anpWord f 9) true [(9, 2), (11, 4), (15, 4), (19, 1), (20, 5), (25, 10), (35, 4), (39, 5)] = true) ∧
    (anpWord 0 9).getLsbD 19 = false ∧ (anpWord 1 9).getLsbD 19 = true ∧
    (({ scal := [(9, BitVec.ofNat 64 lOVF)] } : Core).sw (slotField (anpWord 1 9) 20 5)).extractLsb' 0 16 = BitVec.ofNat 16 lOVF ∧ slotField (anpWord 1 9) 25 10 = 960 ∧
    (({ tiles := [(1, { audit := some (0, 7, [5]) })] } : Core).tile 1).audit = some (0, 7, [5]) ∧ (anpWord 0 9).extractLsb' 11 4 ≠ (anpWord 0 9).extractLsb' 15 4 ∧
    (anpWord 0 9).extractLsb' 11 4 ≠ (anpWord 0 9).extractLsb' 35 4 ∧ (anpWord 0 9).extractLsb' 15 4 ≠ (anpWord 0 9).extractLsb' 35 4 ∧ 0 + 512 ≤ hdr8.lNeed := by unfold State.slotOpen State.slotFree; decide +kernel
/-- MoveLoadsAndSettings and MoveStores: at the end of what the program declared. -/
def mvAg (st a : Nat) : Core := { ag := [(2, { addr := BitVec.ofNat 32 a, store := BitVec.ofNat 2 st })], scal := [(4, 0)] }
theorem met_mvLoads : (∀ p ∈ [(5, [(9, 15), (13, 28)]), (6, [(9, 15), (13, 0xFFFF)]), (7, [(9, 15), (13, 1023)]), (1, [(9, 63), (15, 2), (19, 2), (29, 1)]),
      (1, [(9, 63), (15, 2), (19, 1), (21, 255)]), (9, [(9, 31), (14, 2)])], (one hdr8 {}).slotOpen 0 5 (word p.1 p.2)) ∧ onlySpans (word 5 [(9, 15), (13, 28)]) false [(9, 4), (13, 5)] = true ∧ slotField (word 5 [(13, 28)]) 13 5 = 28 ∧
    onlySpans (word 6 [(9, 15), (13, 0xFFFF)]) false [(9, 4), (13, 16)] = true ∧ onlySpans (word 7 [(9, 15), (13, 1023)]) false [(9, 4), (13, 10)] = true ∧
    (∀ p ∈ [(0, StoreId.loam), (1, .kaolin), (2, .table)], storeOf ((mvAg p.1 (8192 - 256)).g 2).store.toNat = some p.2 ∧
      256 * (((mvAg p.1 (8192 - 256)).g 2).cur.toNat / 256) + 256 ≤ hdr8.need p.2 ∧ ((mvAg p.1 (8192 - 8)).g 2).cur.toNat / 8 * 8 + 8 ≤ hdr8.need p.2) ∧
    onlySpans (word 1 [(9, 63), (15, 2), (19, 2), (29, 1)]) true [(9, 6), (15, 4), (19, 2), (21, 8), (29, 1)] = true ∧
    onlySpans (word 1 [(9, 63), (15, 2), (19, 1), (21, 255)]) true [(9, 6), (15, 4), (19, 2), (21, 8), (29, 1)] = true ∧
    onlySpans (word 9 [(9, 31), (14, 2)]) false [(9, 5), (14, 4)] = true := by unfold State.slotOpen State.slotFree; decide +kernel
theorem met_mvStores : (∀ st ∈ [0, 1, 2], ∀ p ∈ [(2, [(9, 1), (15, 2), (19, 2), (21, fRAW)]), (3, [(9, 1), (15, 2), (19, 2), (21, fRAW), (25, 4)]), (4, [(9, 1), (15, 2), (20, 1), (21, 4)]),
      (10, [(9, 1), (14, 2)])], (one hdr8 (mvAg st 7936)).slotOpen 0 5 (word p.1 p.2)) ∧
    onlySpans (word 2 [(9, 1), (15, 2), (19, 2), (21, fRAW)]) true [(9, 6), (15, 4), (19, 2), (21, 4)] = true ∧ fmtReserved fRAW = false ∧
    7936 % 256 + 64 * 4 ≤ 256 ∧ 7936 + 64 * 4 ≤ hdr8.lNeed ∧
    onlySpans (word 3 [(9, 1), (15, 2), (19, 2), (21, fRAW), (25, 4)]) true [(9, 6), (15, 4), (19, 2), (21, 4), (25, 5)] = true ∧
    (one hdr8 (mvAg 0 7936)).destOf ((one hdr8 (mvAg 0 7936)).engine 0) ((mvAg 0 7936).sw 4).toNat = some 0 ∧
    (∀ w64 ∈ [0, 1], ∀ rem ∈ [0, 1], onlySpans (word 4 [(9, 1), (15, 2), (19, w64), (20, rem), (21, 4)]) true [(9, 6), (15, 4), (19, 1), (20, 1), (21, 5)] = true) ∧
    ((mvAg 0 7936).g 2).store = 0 ∧ ((mvAg 0 7936).g 2).cur.toNat / 256 * 256 + 256 ≤ hdr8.lNeed ∧ onlySpans (word 10 [(9, 1), (14, 2)]) false [(9, 5), (14, 4)] = true := by
  unfold State.slotOpen State.slotFree; decide +kernel

/-- BlockOpening: the header of a raw block of 256 bytes, the same with a wrong magic, and a checker at work. -/
def rawHead (magic : Nat) : Bytes :=
  let a := leBytes 2 magic ++ [1, 9] ++ leBytes 4 256 ++ leBytes 4 768 ++ leBytes 8 0
  a ++ leBytes 4 (crc32c (a ++ List.replicate 492 0)) ++ List.replicate 488 0
def xCore (magic : Nat) (busy : Bool) : Core :=
  { ag := [(2, { store := 1 })], kaolin := { data := Memory.writeN [] 0 (rawHead magic) }, x1 := { checking := busy } }
theorem met_xopen : (∀ busy ∈ [true, false], (one hdr8 (xCore 0x4B42 busy)).slotOpen 0 5 (word 8 [(9, 1), (10, 2)])) ∧ onlySpans (word 8 [(9, 1), (10, 2)]) false [(9, 1), (10, 4)] = true ∧
    ((xCore 0 true).x 1).checking = true ∧ ((xCore 0 false).x 1).checking = false ∧ ((xCore 0 false).g 2).store = 1 := by unfold State.slotOpen State.slotFree; decide +kernel
set_option maxRecDepth 200000 in
theorem met_xopenGood : headerFault (rawHead 0x4B42) = none := by decide +kernel
theorem met_xopenBad : headerFault (rawHead 0x4B43) ≠ none := by decide +kernel
set_option maxRecDepth 200000 in
theorem met_xopenHeader : Memory.readN (xCore 0x4B42 false).kaolin.data 0 512 = rawHead 0x4B42 := by decide +kernel

/-- SyncOperations. -/
theorem met_sync : (one hdr8 { tk := [(3, 5)] }).slotFree 0 7 ∧ (∀ p ∈ [(1, [(11, 0), (19, 3), (24, 255)]), (2, [(10, 3), (15, 5), (31, 5)]), (2, [(15, 6)]), (7, [])],
      (one hdr8 { tk := [(3, 5)] }).slotOpen 0 7 (word p.1 p.2)) ∧ (one hdr8 { tk := [(3, 5)] }).quiet 0 ∧ ((one hdr8 {}).item 1).phase ≠ .suspending ∧
    onlySpans (word 0 [(9, 1)]) false [(9, 1)] = true ∧
    onlySpans (word 1 [(11, 0), (19, 3), (24, 255)]) false [(9, 1), (10, 1), (11, 8), (19, 5), (24, 8)] = true ∧
    (one hdr8 {}).destOf ((one hdr8 {}).engine 0) 0 = some 0 ∧ onlySpans (word 2 [(10, 3), (15, 5), (31, 5)]) false [(9, 1), (10, 5), (15, 16), (31, 16)] = true ∧
    slotField (word 2 [(10, 3), (15, 5), (31, 5)]) 31 16 ≤ slotField (word 2 [(10, 3), (15, 5), (31, 5)]) 15 16 ∧
    slotField (word 2 [(15, 5)]) 15 16 ≤ (SMap.get ({ tk := [(3, 5)] } : Core).tk 3 0).toNat ∧ (SMap.get ({ tk := [(3, 5)] } : Core).tk 3 0).toNat < slotField (word 2 [(15, 6)]) 15 16 ∧
    slotField (word 1 [(11, 0), (19, 3), (24, 255)]) 24 8 ≠ 0 ∧ onlySpans (word 7 []) false [] = true := by unfold State.slotOpen State.slotFree State.quiet; decide +kernel

/-- The format fence of the worked example after R206: its word, digit for digit. -/
def fenceWord : W64 := word 4 [(11, 1), (14, 0x42), (22, 256), (34, 64), (47, 5)]
theorem test_fence_example_word : fenceWord = 0x0002810040108804 := by decide +kernel
theorem met_fence : (one { hdr8 with lNeed := 81920 } {}).slotOpen 0 7 fenceWord ∧ (one { hdr8 with lNeed := 81920 } {}).quiet 0 ∧
    onlySpans fenceWord false [(9, 1), (10, 4), (14, 8), (22, 12), (34, 13), (47, 4)] = true ∧ slotField fenceWord 14 8 % 16 = fI8 ∧ slotField fenceWord 14 8 / 16 % 4 ≠ 3 ∧ slotField fenceWord 34 13 ≤ 4096 ∧
    fmtReserved (slotField fenceWord 47 4) = false ∧ 256 * (slotField fenceWord 22 12 + slotField fenceWord 34 13) ≤ 81920 := by
  unfold State.slotOpen State.slotFree State.quiet; decide +kernel

/-- QueuedOperations: a transfer of nothing passes its checks; one to a store that does not exist fails. -/
def qEng : State :=
  let e : Engine := { st := .running, item := 1, queue := [⟨0, .token 0 0 1⟩] }
  { eng := [(0, e)], items := [(1, { hdr := hdr8, phase := .running, engines := [0] })], regs := onRegs }
theorem met_queued : (∀ p ∈ [(3, [(14, 28), (19, 1), (24, 1)]), (5, [(14, 28), (19, 1), (24, 1)])], qEng.slotOpen 0 7 (word p.1 p.2)) ∧ qEng.quiet 0 ∧
    (qEng.engine 0).queue.length < 16 ∧ slotField (word 3 [(14, 28), (19, 1), (24, 1)]) 14 5 ≤ 28 ∧ slotField (word 3 [(14, 28), (19, 1), (24, 1)]) 10 4 = 0 ∧
    (qEng.item 1).unitEnd false 0 0 0 0 ≤ hdr8.lNeed ∧ (qEng.item 1).unitEnd true 0 0 0 0 ≤ hdr8.lNeed ∧
    hdr8.lNeed < ({ routing := 1, experts := [100], stepTokens := 1 } : WorkItem).unitEnd false 8192 1 0 0 ∧
    hdr8.lNeed < ({ srv := some { prefill := false, vocab := 2, entries := [⟨0, 0, 1, 1, [], .undecided⟩] } } : WorkItem).unitEnd true 8192 0 1 2 ∧
    onlySpans (word 3 [(14, 28), (19, 1), (24, 1)]) false [(9, 1), (10, 4), (14, 5), (19, 5), (24, 8)] = true ∧
    onlySpans (word 5 [(14, 28), (19, 1), (24, 1)]) false [(9, 1), (14, 5), (19, 5), (24, 8)] = true ∧
    (match qEng.dmaCheck (qEng.engine 0) 0 0 0 0 0 with | .ok _ => true | .error _ => false) = true ∧
    (match qEng.dmaCheck (qEng.engine 0) 0 0 (BitVec.ofNat 64 (2 ^ 63)) 32 0 with | .ok _ => false | .error _ => true) = true := by
  unfold State.slotOpen State.slotFree State.quiet; decide +kernel

/-- EncodingFaults. -/
theorem met_encoding : (BitVec.ofNat 64 (2 ^ 63)).getLsbD 63 = true ∧ (∀ k ∈ [0, 1, 2, 3, 4, 5, 6, 7], (one hdr8 {}).slotFree 0 k ∧
      (one hdr8 {}).slotOpen 0 k (word 1 [(63, 1)]) ∧ opListed k 63 = false) ∧ slotField (word 63 []) 0 6 = 63 ∧ slotField (word 0 [(63, 1)]) 0 6 = 0 ∧
    (one hdr8 {}).quiet 0 ∧ onlySpans (word 0 [(63, 1)]) false [(9, 1)] = false ∧ (one hdr8 {}).group 0 = [0] ∧
    SMap.find? (one hdr8 {}).items ((one hdr8 {}).engine 0).item = some ((one hdr8 {}).item 1) ∧ ((one hdr8 {}).item 1).phase = .running := by
  unfold State.slotOpen State.slotFree State.quiet; decide +kernel

/-! ### Engines besides issue, the dispatcher -/

/-- One engine with one work item around it. -/
def eng0 (e : Engine) (w : WorkItem := { phase := .running, engines := [0] }) : State := { eng := [(0, e)], items := [(1, w)], regs := onRegs }

/-- TokensWaitsAndAcknowledgements: a token behind an acknowledged store, one at the limit of its counter, a wait at exactly its threshold. -/
def tkEng : Engine := { st := .running, item := 1, hold := [.wait 3 5 5 false], core := { tk := [(3, 5)] }, acks := [(4, 0, 0)], unacked := [4], stall := 1 }
def aToken : TokenMsg := { src := 1, dst := 0, tk := 3, inc := 65535, item := 1 }
def tokS : State := { eng0 { st := .running, item := 1, core := { tk := [(3, 5)] } } with tokens := [aToken], netSent := 1 }
theorem met_tokens : (let s := eng0 { st := .running, item := 1, queue := [⟨3, .token 1 2 9⟩], unacked := [3] }
      s.bundleOpen 0 ∧ (s.engine 0).queue = [⟨3, .token 1 2 9⟩] ∧ (s.engine 0).hold = [] ∧ (∀ n ∈ (s.engine 0).unacked, 3 ≤ n)) ∧
    (tokS.engine 0).item = aToken.item ∧ tokS.mayArrive (netPath 1 0) aToken.wire = true ∧
    (let s := eng0 tkEng
     s.bundleOpen 0 ∧ (s.engine 0).hold = [.wait 3 5 5 false] ∧ (s.engine 0).st = .running ∧ s.frozen = false ∧ 5 ≤ (SMap.get (s.engine 0).core.tk 3 0).toNat ∧
      SMap.wf (s.engine 0).core.tk = true ∧ (s.engine 0).acks = [(4, 0, 0)] ∧ (s.engine 0).queue = [] ∧ 0 < (s.engine 0).stall ∧ s.canonical) := by
  unfold State.bundleOpen State.canonical; decide +kernel

/-- TransfersAndRemoteWrites: a transfer that ends well, a PEER to engine 1, each failure, a write to its work item and one to another. -/
def dmaOf (f : DmaFate) (kind : Nat := 0) (x3 : W64 := 0) : DmaRec := { id := 7, kind := kind, x0 := 0, x1 := 0, x2 := 0, x3 := x3, tk := 3, inc := 1, mark := 0, fate := f }
def theWrite (item : Nat) : NetW := { src := 1, dst := 0, item := item, seq := 4, kind := .plain ⟨.kaolin, [(0, 0x55)], 0, 0, false⟩ }
def writeTo (item : Nat) : State :=
  { eng0 { st := .running, item := 1 } with net := [theWrite item], netSent := 1, items := [(1, { phase := .running, engines := [0, 1] }), (2, { phase := .running })] }
theorem met_transfers : (∀ d ∈ [dmaOf .good, dmaOf .good 6 0x2501], let s := eng0 { item := 1, dma := [d] } { phase := .running, engines := [0, 1] }
      (s.engine 0).dma = [d] ∧ d.id = 7 ∧ d.fate = .good ∧ s.awaiting (.dma 0 7) = false ∧ s.net = [] ∧
      (d.kind = 6 → (s.item 1).engines.getD (bits d.x3.toNat 0 8) 0 ≠ 0)) ∧
    (∀ f ∈ [DmaFate.tagFail, .index, .hostRange, .hostFail, .undelivered], let s := eng0 { item := 1, dma := [dmaOf f] }
      (s.engine 0).dma = [dmaOf f] ∧ s.group 0 = [0] ∧ (s.engine 0).snap.pend = [] ∧ SMap.find? s.items (s.engine 0).item = some (s.item 1) ∧ (s.item 1).phase = .running) ∧
    (∀ item ∈ [1, 2], let s := writeTo item
      s.net = [theWrite item] ∧ decide ((s.engine 0).item = item) = decide (item = 1) ∧ s.mayArrive (netPath 1 0) (theWrite item).wire = true ∧ (s.engine 0).st = .running ∧
      (s.engine 0).issued = [] ∧ (s.engine 0).redo = false ∧ (s.engine 0).core.kaolin.errs = [] ∧ (s.engine 0).snap.kaolin.errs = [] ∧
      SMap.find? s.items item = some (s.item item) ∧ (s.item item).phase = .running ∧ s.canonical) := by unfold State.canonical; decide +kernel

/-- WriteBacksCheckersAndScrub: a raw block is good; an encoded one that gives its sub-block no bits is not. -/
def xEng (flags : Nat) : Engine :=
  let h := leBytes 2 0x4B42 ++ leBytes 1 1 ++ leBytes 1 flags ++ leBytes 4 256 ++ leBytes 4 768
  let c : Core := { kaolin := { data := Memory.writeN [] 0 h, wb := [3] }, x0 := { checking := true } }
  { core := c, snap := c }
/-- An XOPEN of context 0 waits for its checker. -/
def xWaits : State := eng0 { xEng 9 with st := .running, item := 1, hold := [.checker 0 { opened := true, base := 512 }] }
theorem met_writeBack : (∀ fl ∈ [0, 9], ((eng0 (xEng fl)).engine 0).core.kaolin.wb.contains 3 = true ∧ ((eng0 (xEng fl)).engine 0).snap.kaolin.wb.contains 3 = true ∧
    (((eng0 (xEng fl)).engine 0).snap.x 0).checking = true ∧ (((eng0 (xEng fl)).engine 0).snap.x 0).failed = false ∧ ((eng0 (xEng fl)).engine 0).hold = []) ∧
    checkBlock (xEng 9).snap.kaolin.data (Memory.readN (xEng 9).snap.kaolin.data 0 512) 0 = none ∧
    checkBlock (xEng 0).snap.kaolin.data (Memory.readN (xEng 0).snap.kaolin.data 0 512) 0 = some (0, 7) ∧
    (∀ row ∈ [0, 8190, 8191], let s := ((eng0 {}).setField 0x10100 32 3 0).setField (engOff 0 0x178) 0 13 row
      (s.engine 0).st ≠ .clearing ∧ s.getField 0x10100 32 3 ≠ 4 ∧ s.getField (engOff 0 0x178) 0 13 = row ∧ s.extBusy 0 .kaolin row = false ∧ s.canonical) ∧
    (xWaits.engine 0).hold = [.checker 0 { opened := true, base := 512 }] ∧ xWaits.bundleOpen 0 ∧ ((xWaits.engine 0).snap.x 0).checking = true := by
  unfold State.canonical State.bundleOpen; decide +kernel

/-- SuspensionAndWatchdog. -/
def wdS : State := withFields { up with eng := [(0, { st := .running, item := 1, wd := 101 })], items := [(1, { phase := .running, engines := [0] })] } [(engOff 0 oYWD_LIMIT, 0, 24, 100)]
def vicS : State := withFields { up with eng := [(0, { st := .running, item := 1 })], chans := [(1, {}), (2, {})], items := [
  (1, { phase := .running, engines := [0], chan := 1 }), (2, { tc := 0, chan := 2, hdr := { logical := 24 } })] } [(memOff 0 8, 0, 1, 1)]
theorem met_suspend : (wdS.engine 0).st = .running ∧ wdS.getField (engOff 0 oYWD_LIMIT) 0 24 < (wdS.engine 0).wd ∧ wdS.group 0 = [0] ∧ (wdS.item 1).phase = .running ∧
    SMap.find? wdS.rings 255 = none ∧ SMap.find? vicS.items 2 = some (vicS.item 2) ∧ vicS.mayStart (vicS.item 2) = true ∧ vicS.onWarm (vicS.item 2) = true ∧
    vicS.warmComing < (vicS.item 2).hdr.logical ∧ vicS.victims.head? = some 1 := by decide +kernel
def susW : WorkItem := { phase := .suspending, engines := [0, 3], hdr := { logical := 2 } }
def susS : State := { up with eng := [(0, { st := .yielded, item := 1 }), (3, { st := .done, item := 1, logical := 1 })], items := [(1, susW)] }
def readyEng : Engine := { clearedOnce := true, resident := some 0 }
def resW : WorkItem := { susW with phase := .suspended, engines := [], frames := [⟨0, 0, { pc := 4 }, [], false, ⟨4, 4, 0, 0, 0, 0⟩⟩, ⟨1, 3, { pc := 9 }, [], true, ⟨9, 9, 0, 0, 0, 0⟩⟩] }
def resS : State := { up with eng := [(5, readyEng), (6, readyEng)], items := [(1, resW)] }
theorem met_resume : (susS.item 1).engines.all susS.yielded = true ∧ resS.mayRun = true ∧ resS.assignOk resW [6, 5] = true ∧
    (∀ e ∈ [6, 5], (resS.engine e).pool = resW.decode ∧ resS.engReady resW e = true) ∧ resS.quadsReady (dedup ([6, 5].map quadOf)) (needClk resW.hdr.ymax) = true ∧
    (∀ p ∈ [6, 5].zipIdx, (resW.frames.find? (fun f => f.logical == p.2)).isSome = true) := by decide +kernel

/-- WorkItemsStart: one engine each, in a lower class, in class 0 and as expert work. -/
def startS (tc : Nat) : State :=
  { up with eng := [(5, readyEng)], chans := [(1, {})], items := [(1, { tc := tc, chan := 1, service := 1, hdr := { logical := 1 } })] }
def expImg : Bytes := List.replicate 20 0 ++ leBytes 2 1 ++ List.replicate 42 0
def theJob : Job := ⟨List.replicate 64 0, 3, 7, [], none⟩
def jobS : State :=
  { up with eng := [(5, { readyEng with resident := some 1, pool := true })], slots := [(3, ⟨0, 1, 0, 0⟩)], images := [(1, ⟨0, expImg⟩)], jobs := [(1, theJob)] }
theorem met_starts : ∀ tc ∈ [0, 1, 2, 3], let s := startS tc
    let w := s.item 1
    SMap.find? s.items 1 = some w ∧ w.job = none ∧ s.mayStart w = true ∧ s.assignOk w [5] = true ∧ s.engReady w 5 = true ∧ (s.engine 5).pool = w.decode ∧
    s.quadsReady (dedup ([5].map quadOf)) (needClk w.hdr.ymax) = true ∧ (tc ≠ 0 → s.tc0Waits = false ∧ s.fits w = true ∧ s.isNext w = true) ∧
    (tc = 0 → s.onWarm w = false) ∧ s.freeEng 5 = true ∧ (s.engine 5).clearedOnce = true ∧ (s.engine 5).bound = none ∧ s.qState (quadOf 5) < 4 := by decide +kernel
def wantS : State := { startS 2 with items := [(1, { tc := 2, chan := 1, service := 1, image := 3, hdr := { logical := 1 } })] }
theorem met_copyIn : let w := wantS.item 1
    (wantS.wanting 3).head? = some w ∧ wantS.placeFor w 5 = true ∧ wantS.freeEng 5 = true ∧ (wantS.engine 5).resident ≠ some 3 ∧
    canPlace w (fun x => wantS.freeSet.contains x && wantS.placeFor w x && wantS.engReady w x) = false := by decide +kernel
theorem met_expertStart : let w := jobS.expertItem 1 theJob
    SMap.find? jobS.jobs 1 = some theJob ∧ theJob.origin ≠ 64 * jobS.rack + jobS.self ∧ jobS.slotGood theJob = true ∧
    paramsOk (SMap.get jobS.images w.image ⟨0, []⟩).bytes w.params = true ∧ jobS.placeFor w 5 = true ∧ (w.tc ≠ 0 → jobS.tc0Waits = false ∧ (jobS.fits w = true → jobS.isNext w = true)) ∧ jobS.mayStart w = true ∧ jobS.assignOk w [5] = true ∧ jobS.engReady w 5 = true ∧ (jobS.engine 5).pool = true ∧
    jobS.quadsReady (dedup ([5].map quadOf)) (needClk w.hdr.ymax) = true := by decide +kernel

/-- WorkItemsEnd: alone, and with another engine that still runs. -/
def endS (d : EState) : State :=
  { up with eng := [(0, { st := .ending, item := 1 }), (1, { st := d, item := 1 })], items := [(1, { phase := .running, engines := [0, 1] })] }
def endedS : State := { up with items := [(1, { phase := .ended }), (2, { phase := .stopping, engines := [4] })] }
theorem met_ends : (∀ d ∈ [EState.running, .done], let s := endS d
      SMap.find? s.items 1 = some (s.item 1) ∧ (s.engine 0).item = 1 ∧ s.partOver 0 = true ∧ (s.engine 0).core.pend = [] ∧ (s.item 1).phase = .running ∧ 0 ∈ (s.item 1).engines ∧
      (s.engine 1).st = d) ∧
    SMap.find? endedS.items 2 = some (endedS.item 2) ∧ (endedS.item 2).phase = .stopping ∧ (endedS.item 1).phase = .ended ∧ endedS.normWaits 1 = false ∧
    (endedS.item 1).srv = none ∧ SMap.wf endedS.items = true := by decide +kernel

/-- ClearingAndPools: 100 engines prefill and 92 decode, exactly as the limits say; with 91 in the decode pool one must move. -/
def clrS : State := { up with eng := [(0, { st := .clearing, clearAt := 10 ^ 9 })], frz := 0, moves := 1, movesUp := true }
def allDecode (n : Nat) : State := { up with eng := (List.range n).map (fun e => (e, ({ pool := true } : Engine))) }
def limS (n : Nat) (l : List Nat) : State := withFields (allDecode n) ([(rSRV_CTRL, 1, 1, 0)] ++ ((l.zipIdx).map (fun p => (rSRV_LIMITS, 8 * p.2, 8, p.1))))
theorem met_clearing : (up.engine 1).st = .idle ∧ (up.engine 1).item = 0 ∧ up.frozen = false ∧ up.qState (quadOf 1) = 0 ∧ up.canonical ∧
    (up.engine 1).clrFail = false ∧ clrS.qState (quadOf 0) = 0 ∧ (clrS.engine 0).st = .clearing ∧ clrS.frozen = false ∧ (clrS.engine 0).clearAt + 3000 < clrS.eff ∧ clrS.reserved.head? = some 1 := by unfold State.canonical; decide +kernel
theorem met_pools :
    (let s := limS 92 [100, 100, 92, 92]
     let l := fun (o : Nat) => s.getField rSRV_LIMITS o 8
     s.getField rSRV_CTRL 1 1 = 0 ∧ (∀ k ∈ s.items, k.2.phase ≠ .waiting) ∧ s.canonical ∧ l 0 + l 16 ≤ s.availCount ∧ l 16 ≤ s.decodeSize ∧ s.decodeSize ≤ l 24 ∧
      s.availCount ≤ s.decodeSize + l 8 ∧ s.decodeSize + l 0 ≤ s.availCount) ∧
    (let s := limS 91 [100, 100, 92, 92]
     let l := fun (o : Nat) => s.getField rSRV_LIMITS o 8
     s.decodeSize < l 16 ∧ l 16 ≤ l 24 ∧ s.availCount ≤ l 16 + l 8 ∧ l 16 + l 0 ≤ s.availCount) := by unfold State.canonical; decide +kernel

/-! ### Quadrille, decisions after a step -/

/-- InstancesOpenAndAdmit: two tokens that both choose expert 0, which takes one. -/
def qReq : UnitReq := { eng := 0, item := 1, x0 := 0, x1 := 1, x2 := 2, x3 := 0, tk := 0, inc := 1 }
def openS : State := { up with qwait := [qReq], items := [(1, {})], mem := { owner := [(0, 0)] } }
def admInst : Inst :=
  { chan := 1, item := 1, tenant := 0, tc := 1, handle := 1, step := 0, layer := 0, epoch := 0, tokens := 2, opened := 0, scores := [(0, [0x400, 0]), (1, [0x200, 0])],
    lrec := bytesOf 64 [(0, 2, 2), (4, 2, 1), (6, 1, 1), (7, 1, 1)] }
def admS : State := { up with items := [(1, {})], insts := [(1, admInst)], mem := { owner := [(0, 0)], data := [(2, 0x10)] } }
theorem met_instances : openS.instOf qReq.item qReq.x2.toNat = none ∧ openS.instFree (openS.item qReq.item).tc = true ∧ openS.qsendGate qReq = .go ∧
    openS.mayRead (openS.item qReq.item).tenant ((openS.item qReq.item).routing + 64 + 64 * qReq.x2.toNat) 64 = true ∧
    admInst.tokens ≤ admInst.scores.length ∧ SMap.wf admInst.scores = true ∧ admS.canonical ∧ admInst.choose = ([(0x400, 0, 0)], 1, 2) ∧
    (∀ g ∈ dedup (admInst.choose.1.map (fun p => p.2.2)), admS.readGate (admS.failFast 1) (admInst.emap + 8 * g) 8 = .go ∧ admS.mayRead 0 (admInst.emap + 8 * g) 8 = true) ∧
    (admS.mapEntries admInst.item admInst.emap (dedup (admInst.choose.1.map (fun p => p.2.2)))).2.1 = false := by unfold State.canonical; decide +kernel

/-- BundlesAndReturnsTravel: a pair for the next module along X. -/
def onePair (st : PairSt) : QPair := { tok := 0, gid := 5, score := 0, w := 0, entry := 2 ^ 20 + 64 + 3 * 4096, st := st }
def sendS : State := { withFields up [(memOff 0 8, 0, 32, 1)] with items := [(1, {})], tables := { view := { up := [(0, 1)] } }, insts := [(1, { admInst with admitted := true, pairs := [onePair .admitted] })], mem := { owner := [(0, 0)] } }
def bunHdr : Bytes := bytesOf 64 [(0x15, 1, 7), (0x20, 2, 1), (0x22, 2, 32)]
def bunS : State := { withFields up [(memOff 0 8, 0, 32, 1)] with inbox := [⟨1, 1, 9, 0, 7, bunHdr ++ leBytes 4 0 ++ leBytes 2 5 ++ leBytes 1 3 ++ leBytes 1 0 ++ List.replicate 64 0⟩], slots := [(3, ⟨7, 1, 0, 0⟩)] }
def retBody (origin : Nat) : Bytes := bytesOf 64 [(0x04, 4, 1), (0x16, 2, origin), (0x20, 2, 1), (0x22, 2, 2)] ++ bytesOf 32 [(4, 2, 5)]
def retS (origin : Nat) : State := { up with inbox := [⟨2, 1, 9, 0, 0, retBody origin⟩], insts := [(1, { admInst with pairs := [onePair .sent] })] }
theorem met_bundles : sendS.chooseLoc admInst.flow (onePair .admitted).entry = some (1, 3, false) ∧ 1 / 64 = sendS.rack ∧ 1 ≠ 64 * sendS.rack + sendS.self ∧ sendS.canonical ∧
    sendS.readGate (sendS.failFast 1) (admInst.xdpa + 0 * admInst.xrow) admInst.xrow = .go ∧ sendS.mayRead admInst.tenant (admInst.xdpa + 0 * admInst.xrow) admInst.xrow = true ∧
    bunHdr.length = 64 ∧ field bunHdr 0x20 2 = 1 ∧ (List.replicate 64 (0 : Byte)).length = 32 * ceilDiv (field bunHdr 0x22 2 + field bunHdr 0x22 2 / 32) 32 ∧
    bunS.slotOk (field bunHdr 0x15 1 % 64) 3 = true ∧ bunS.self = 0 ∧ bunS.jobs = [] := by unfold State.canonical; decide +kernel
theorem met_reserve : (sendS.reserve [admInst.buf 0 5]).isSome = true := by
  have h : ((sendS.rbufs ++ [admInst.buf 0 5]).map (·.size)).sum ≤ retSize 16384 + Config.returnSpace :=
    Nat.le_trans (by decide +kernel : _ ≤ retSize 16384) (Nat.le_add_right _ _)
  have g : sendS.hasStack = true := by decide +kernel
  simpa [State.reserve, g] using h
theorem met_returns : let m : Msg := ⟨2, 1, 9, 0, 0, retBody 0⟩
    (retS 0).inbox = [m] ∧ field m.body 0x16 2 % 4096 = 64 * (retS 0).rack + (retS 0).self ∧ field m.body 0x20 2 = 1 ∧ (retS 0).instByHdr m.body = some 1 ∧
    (let r := (m.body.drop 64).take (32 * ceilDiv (16 + 2 * field m.body 0x22 2) 32)
     ∃ p ∈ [onePair .sent], p.tok = field r 0 4 ∧ p.gid = field r 4 2 ∧ p.st = .sent) ∧
    field (retBody 5) 0x16 2 % 4096 ≠ 64 * (retS 5).rack + (retS 5).self := by decide +kernel

/-- MergeAndDeadlines: the last row that the declared need holds; a nanosecond past the deadline; at the deadline of the scores. -/
def mrgInst (d : Option Nat) (st : PairSt) : Inst :=
  { admInst with admitted := true, scores := [(0, [])], parts := [⟨0, 0, 1, []⟩], pairs := [{ onePair st with row := List.replicate 64 0x400 }], deadline := d,
                 lrec := bytesOf 64 [(0x20, 2, 64), (0x24, 4, 8192 - 256)] }
def mrgS (d : Option Nat) (st : PairSt) (attr : Nat) : State :=
  { eng0 {} with items := [(1, { phase := .running, hdr := hdr8, chan := 1 })], insts := [(1, mrgInst d st)], chans := [(1, { attr := attr })], pav := 2000000 }
theorem met_merge : (mrgInst none .returned).parts.find? (fun p => decide (p.t0 ≤ 0 ∧ 0 < p.t0 + p.n) && !p.done.contains 0) = some ⟨0, 0, 1, []⟩ ∧
    (mrgInst none .returned).settled 0 = true ∧ (mrgInst none .returned).mergeLoam + (mrgInst none .returned).mrow ≤ ((mrgS none .returned 0).item 1).hdr.lNeed ∧
    (mrgInst none .returned).mergeLoam % 256 = 0 ∧ Memory.wf ((mrgS none .returned 0).engine 0).core.loam.data = true ∧
    (∀ attr ∈ [0, 2], let s := mrgS (some 1999999) .sent attr
      1999999 + (s.thr - (mrgInst none .sent).thr0) < s.pav ∧ SMap.find? s.rings 255 = none ∧ s.canonical ∧ SMap.find? s.items 1 = some (s.item 1) ∧ (s.item 1).phase = .running ∧
      (mrgInst none .sent).pairs.filter (fun p => p.st == .admitted || p.st == .sent) ≠ [] ∧ bit (s.chan 1).attr 1 = (attr == 2)) ∧
    (mrgInst none .sent).scores.length < (mrgInst none .sent).tokens ∧ (mrgInst none .sent).opened + 1000 * (mrgInst none .sent).deadlineUs ≤ (mrgS none .sent 0).pav := by
  unfold State.canonical; decide +kernel

/-- PredictorAndNormDecisions: the window at 4,095 and at 4,096 tokens; a mean square, and an overflow. -/
def decW : WorkItem :=
  { phase := .ended, chan := 1, audits := [(2, 0, 10, 1)], skips := [(2, 0, true)], normSq := [(3, 0, 0x400), (4, 0, lOVF)], normOver := [5] }
def decS (tokens : Nat) : State :=
  { up with items := [(1, decW)], preds := [(64 + 2, { tokens := tokens })], nwCfg := [(256 + 3, 1 + 2 ^ 11), (256 + 4, 1), (256 + 5, 1)] }
theorem met_decisions : (∀ n ∈ [4094, 4095], SMap.find? (decS n).preds (decW.chan * 64 + 2) = some { tokens := n } ∧ decW.audits.filter (fun a => a.1 == 2) ≠ [] ∧
      decW.evald.contains 2 = false) ∧
    (∀ i ∈ [3, 4], (decS 0).mayDecide decW i = true ∧ decW.normLeft.contains i = true ∧ (decS 0).normFirst 1 i = true ∧ bit ((decS 0).nwWord 1 i) 0 = true ∧
      decW.normSq.any (fun p => p.1 == i) = true) ∧
    lIsOvf (decW.meanSq 3) = false ∧ (SMap.get (decS 0).nwSt (256 + 3) {}).updates < nwWarm ((decS 0).nwWord 1 3) ∧ lIsOvf (decW.meanSq 4) = true := by decide +kernel

/-- StepsCommitAndSample: the sequence ends with this token, or goes on. -/
def smpW (dec : Dec) (commit : Option Nat) : WorkItem :=
  { phase := .ended, chan := 1, srv := some { prefill := false, vocab := 2, entries := [{ slot := 6, flags := 2, ntok := 1, seq := 9, parts := [(0, [0x400, 0])], dec := dec }],
                                              commit := commit } }
def smpS (w : WorkItem) (max : Nat) : State := { up with items := [(1, w)], chans := [(1, {})], seqs := [(16384 + 6, { id := 9, spr := bytesOf 512 [(0x14, 4, 1), (0x18, 4, max)] })] }
theorem met_commit : let w := smpW .undecided none
    let s := smpS w 1
    s.normWaits 1 = false ∧ w.outcome.1 = stOK ∧ (s.chan w.chan).epoch = w.epoch ∧ (∀ sv, w.srv = some sv → ∀ e : SEntry, e ∈ sv.entries →
      e.samples = true ∧ e.full sv.vocab = true ∧ (e.parts.all (fun p => p.2.all lIsOvf)) = false ∧ (s.entSeq 1 e).isSome = true) := by decide +kernel
theorem met_sample : ∀ p ∈ [(1, true), (2, false)], let s := smpS (smpW .sample (some 4)) p.1
    s.nextToSample = some 1 ∧ (∀ sv, (s.item 1).srv = some sv → ∀ e : SEntry, e ∈ sv.entries → (match s.entSeq 1 e with
      | some q => decide (q.cancel = false) && (decide ((commitToken q (pickToken q e)).2 ≠ 0) == p.2)
      | none => false) = true) ∧ SMap.wf s.seqs = true ∧ s.canonical := by unfold State.canonical; decide +kernel

/-! ### Host interface -/

/-- DoorbellsReachChannels: a control block exactly one interval after its last read, and a producer index a whole ring ahead. -/
def dbBlock : Bytes := leBytes 4 16 ++ leBytes 4 5 ++ leBytes 8 0
def dbS : State :=
  { up with watch := [(1, { handle := 1, cb := 64, tc := 1, last := up.now - 250 })], chans := [(1, { epoch := 5 })], reads := [(1, ⟨.doorbell 1, 64, 16, 0⟩)] }
def ntfMsg : Msg := ⟨3, 1, 0, 0, 255, bytesOf 24 [(0, 1, 4), (2, 1, 255), (8, 4, 16), (0x0C, 4, 5), (0x10, 4, 1)]⟩
def ntfS : State := { dbS with inbox := [ntfMsg] }
theorem met_doorbells : dbS.isHead = true ∧ dbS.formed = true ∧ dbS.d3hot = false ∧ (∀ w, SMap.find? dbS.watch 1 = some w → w.reading = false ∧ w.last + w.interval ≤ dbS.now ∧
      field dbBlock 0 8 + 2 ^ 64 * field dbBlock 8 4 ≠ w.word) ∧ dbS.readOut (.doorbell 1) ∧ 1 = 4096 * dbS.self + 1 ∧
    (∀ c, SMap.find? dbS.chans 1 = some c → field dbBlock 4 4 = c.epoch ∧ doorbellBad c false (field dbBlock 0 4) (field dbBlock 4 4) = none ∧
      field ntfMsg.body 0x0C 4 = c.epoch ∧ doorbellBad c false (field ntfMsg.body 8 4) c.epoch = none) ∧
    field ntfMsg.body 0 1 = 4 ∧ (match ntfS.ofHandle (field ntfMsg.body 0x10 4) with | .ok ch => ch == 1 | .error _ => false) = true ∧ dbS.canonical ∧
    bits 1 12 6 = 0 ∧ 4096 * 0 + 1 % 4096 = 1 ∧ (SMap.get dbS.wakeq 0 []).length < 256 := by unfold State.canonical State.readOut; decide +kernel

/-- FetchAndCompletion: the last slot of the last lap, a ring full for exactly 100 ms, a vector unmasked and masked. -/
def feS : State :=
  { up with chans := [(1, { asked := 2, cqPi := 31, cqCi := 16, recs := [⟨List.replicate 32 0, false⟩] }), (2, { cqPi := 16, fullSince := some (up.now - 100000000) })],
            reads := [(1, ⟨.desc 1 0, 0, 64, 0⟩), (2, ⟨.admin, 0, 64, 0⟩), (3, ⟨.doorbell 4, 0, 16, 0⟩)], watch := [(4, { handle := 4, cb := 0, tc := 1 })],
            vecs := [(255, { due := true })] }
theorem met_fetch : feS.readOut (.desc 1 0) ∧ (feS.chan 1).arg = 0 ∧ (feS.chan 1).st = .active ∧ (feS.chan 1).fullNow = false ∧ feS.isHead = true ∧ 4 = 4096 * feS.self + 4 ∧
    (SMap.find? feS.watch 4).isSome = true ∧ (feS.chan 2).fullNow = true ∧ (feS.chan 2).st = .active ∧ up.now - 100000000 + 100000000 ≤ feS.now ∧ feS.canonical ∧
    SMap.find? feS.rings 255 = none ∧ (∀ v ∈ [0, 1], (withFields feS [(0x28008 + 16 * 255, 32, 1, v)]).getField (0x28008 + 16 * 255) 32 1 = v) ∧
    ({ feS with chans := [(4, {})] } : State).arrived = [] := by unfold State.canonical State.readOut; decide +kernel

/-- DescriptorsBecomeWork: a program without parameters, one tensor of a byte, no routing table. -/
def tenTable : Bytes := bytesOf 48 [(0, 2, 0x5454), (2, 2, 1), (24, 8, 1)]
def deS (tables : Bytes) (desc : Bytes) : State :=
  withFields { up with chans := [(1, { fetched := [⟨4, desc, [], 0⟩] })], images := [(3, ⟨0, expImg⟩)], mem := { owner := [(0, 0)], data := Memory.writeN [] 0 tables } } [(memOff 0 8, 0, 32, 1)]
def wkDesc : Bytes := bytesOf 64 [(0, 1, 1), (1, 1, 2), (2, 2, 3)]
theorem met_work : let s0 := (deS tenTable wkDesc).setChan 1 { (deS tenTable wkDesc).chan 1 with steps := 1 }
    let d : Desc := ⟨4, wkDesc, [], 0⟩
    epochStatus ((deS tenTable wkDesc).chan 1) (field wkDesc 4 4) = stOK ∧ (deS tenTable wkDesc).fatal = false ∧ workFields ((deS tenTable wkDesc).chan 1) d = true ∧
    imgHandles expImg = [] ∧ paramsOk expImg (workParams d) = true ∧ (s0.tensorCheck 0 (field wkDesc 8 8)).1 = none ∧
    (match ((s0.tensorCheck 0 (field wkDesc 8 8)).2.routingCheck 0 (field wkDesc 0x10 8) (expertParams expImg (workParams d))).1 with | .ok _ => true | .error _ => false) = true ∧ bit (dFlags wkDesc) 3 = false ∧
    bit (dFlags wkDesc) 4 = false ∧ ((deS tenTable wkDesc).workGate ((deS tenTable wkDesc).chan 1) wkDesc).1 = .go ∧
    (deS tenTable wkDesc).images = [(3, ⟨0, expImg⟩)] := by decide +kernel
def caDesc : Bytes := bytesOf 64 [(0, 1, 2), (8, 1, 1), (0x0C, 4, 6)]
def caS : State := { smpS (smpW .sample (some 4)) 1 with chans := [(1, { fetched := [⟨4, caDesc, [], 0⟩] })] }
theorem met_cancel : zeroAt caDesc [(1, 3), (9, 3), (0x3C, 4)] = true ∧ caS.slotBusy 1 (field caDesc 0x0C 4) = true ∧
    (SMap.find? caS.seqs (16384 * 1 + field caDesc 0x0C 4)).isSome = true ∧ epochStatus (caS.chan 1) (field caDesc 4 4) = stOK ∧
    zeroAt (bytesOf 64 [(0, 1, 3)]) [(1, 3), (8, 56)] = true ∧ (caS.chan 1).writesRecs = true := by decide +kernel

/-! ### Admin descriptors, the proxy -/

/-- An admin descriptor of a kind with fields, and the head with it first in the ring. -/
def adD (kind : Nat) (fs : List (Nat × Nat × Nat)) : Desc := ⟨9, bytesOf 64 ((0, 1, kind) :: fs), [], 0⟩
def adS (d : Desc) (s : State := up) : State := { s with chans := SMap.set s.chans 0 { fetched := [d] } }
/-- Tenant 7 is enabled with a window of 64 KiB from 0. -/
def ten7 : State := withFields up [(tenOff 7 0, 0, 1, 1), (tenOff 7 0x108, 0, 52, 16)]
/-- What the adminTurn of a statement asks, as a Bool. -/
def turn (s : State) (d : Desc) (kind : Nat) : Bool :=
  !s.fatal && s.isHead && s.copies.isEmpty && field d.bytes 0 1 == kind && adMember d.bytes == s.self && (s.chan 0).st == .active && (s.chan 0).fetched == [d]

/-- AdminChannels: the smallest rings. -/
def crD : Desc := adD 0x40 [(3, 1, 7), (0x08, 8, 0), (0x10, 8, 4096), (0x18, 8, 8192), (0x28, 1, 4), (0x29, 1, 4), (0x2A, 1, 1), (0x2C, 2, 0xFFFF)]
theorem met_create : let s := adS crD ten7
    let b := crD.bytes
    turn s crD 0x40 = true ∧ adReserved false [(0x08, 0x28)] b = true ∧ s.tenantEnabled (adTenant b) = true ∧ createOk b = true ∧ field b 0x2A 1 ≠ 0 ∧
    SMap.firstFree s.chans 1 4095 = 1 ∧ s.inWindow (adTenant b) (field b 0x08 8) (64 * 2 ^ field b 0x28 1) = true ∧
    s.inWindow (adTenant b) (field b 0x10 8) (32 * 2 ^ field b 0x29 1) = true ∧ s.inWindow (adTenant b) (field b 0x18 8) 64 = true ∧ field b 0x20 8 = 0 := by decide +kernel
def chD (kind : Nat) : Desc := adD kind [(3, 1, 7), (4, 4, 1)]
def chS (kind : Nat) (c : Chan) : State := { adS (chD kind) with chans := [(0, { fetched := [chD kind] }), (1, c)] }
theorem met_channels : (∀ p ∈ [(0x41, ChState.active), (0x42, .active), (0x43, .halted)], let s := chS p.1 { st := p.2 }
      turn s (chD p.1) p.1 = true ∧ adReserved true [] (chD p.1).bytes = true ∧ (match s.ofHandle (adHandle (chD p.1).bytes) with | .ok ch => ch == 1 | .error _ => false) = true ∧
      (s.chan 1).st = p.2 ∧ (s.chan 1).destroy = none) ∧
    (let s := chS 0x41 { destroy := some (9, 0) }
     turn s (chD 0x41) 0x41 = true ∧ (s.chan 1).destroy = some ((chD 0x41).seq, 0) ∧ (s.chan 1).fetched = [] ∧ (s.chan 1).recs = [] ∧ s.slotsOf 1 = [] ∧ s.items = [] ∧
     SMap.wf s.chans = true) := by decide +kernel

/-- AdminProgramsAndStreams: the smallest image that passes every check. -/
def okImg : Bytes :=
  let h := fun (crc : Nat) => bytesOf 64 [(0, 4, 0x54455A48), (4, 2, 1), (8, 4, 152), (0x0C, 4, 1), (0x14, 2, 1), (0x1C, 4, 17376), (0x20, 4, 128), (0x24, 2, 1), (0x28, 4, 152),
    (0x38, 4, crc)]
  h (crc32c (h 0)) ++ List.replicate 88 0
def ldD : Desc := adD 0x44 [(3, 1, 7), (0x10, 4, 152)]
theorem met_loadProgram : let s := { adS ldD with reads := [(1, ⟨.admin, 0, 152, 0⟩)] }
    turn s ldD 0x44 = true ∧ adReserved false [(0x08, 12)] ldD.bytes = true ∧ s.readOut .admin ∧ adTenant ldD.bytes < 64 ∧ 64 ≤ field ldD.bytes 0x10 4 ∧
    SMap.firstFree s.images 1 1023 ≤ 1023 ∧ imageFault (padTo (field ldD.bytes 0x10 4) okImg) (field ldD.bytes 0x10 4) s.ymaxLimit s.storeSizes = none := by
  unfold State.readOut; decide +kernel
def ulD : Desc := adD 0x45 [(3, 1, 7), (8, 2, 5)]
def rsD (len : Nat) : Desc := adD 0x46 [(3, 1, 7), (8, 4, 0xEFFFFFFF), (0x0C, 1, 1), (0x18, 8, 2 ^ 64 - len), (0x20, 8, len)]
def dsD : Desc := adD 0x47 [(3, 1, 7), (8, 2, 3)]
def drS : State := { adS dsD with streams := [(7 * 1024, ⟨some 3, 0, 0, false, 0, 1, false⟩)] }
theorem met_programsAndStreams : (let s := { adS ulD with images := [(5, ⟨7, okImg⟩)] }
      turn s ulD 0x45 = true ∧ adReserved false [(0x08, 2)] ulD.bytes = true ∧ (SMap.find? s.images 5).isSome = true ∧ s.imageUsed 5 = false ∧ SMap.wf s.images = true) ∧
    (∀ len ∈ [1, 2 ^ 63], let s := adS (rsD len)
      let b := (rsD len).bytes
      turn s (rsD len) 0x46 = true ∧ adReserved false [(0x08, 5), (0x10, 24)] b = true ∧ field b 0x0C 1 ≤ 1 ∧ field b 0x08 4 < 0xF0000000 ∧ field b 0x20 8 ≠ 0 ∧
      field b 0x18 8 + field b 0x20 8 ≤ 2 ^ 64 ∧ (s.regEntries 7).length < 1024 ∧ s.freeHandle 7 < 960 ∧
      s.collides 7 (field b 0x08 4) (field b 0x10 8) (field b 0x0C 1 == 1) (field b 0x18 8) (field b 0x20 8) = false) ∧
    turn drS dsD 0x47 = true ∧ adReserved false [(0x08, 2)] dsD.bytes = true ∧ drS.handleOk 7 3 = true ∧ drS.handleUsed 7 3 = false := by decide +kernel

/-- ProxyCarriesAccesses: the longest read and write, the last vector. -/
def prMsg (op len : Nat) (data : Bytes) : Msg := ⟨3, 1, 5, 0, 255, bytesOf 24 [(0, 1, op), (2, 1, 255), (4, 4, 77), (0x10, 4, len), (0x14, 2, 255)] ++ data⟩
theorem met_proxy : let s := fun (m : Msg) => { up with inbox := [m] }
    (∀ op ∈ [1, 3], (s (prMsg op 32768 [])).isHead = true ∧ field (prMsg op 32768 []).body 0 1 = op ∧ field (prMsg op 32768 []).body 0x10 4 ≤ 32768 ∧
      (s (prMsg op 32768 [])).proxyMay (prMsg op 32768 []).body = true ∧ field (prMsg op 32768 []).body 0x14 2 ≤ 255) ∧
    (let b := (prMsg 2 4 [1, 2, 3, 4]).body
     field b 0 1 = 2 ∧ field b 0x10 4 ≤ 32768 ∧ b.length = 0x18 + field b 0x10 4 ∧ (s (prMsg 2 4 [1, 2, 3, 4])).proxyMay b = true) ∧
    (let b := bytesOf 12 [(0, 4, 6)]
     field b 0 4 = 6 ∧ field b 4 1 = 0 ∧ 6 < 2 ^ 32) ∧ ({ up with reads := [(6, ⟨.proxy 5 77, 0, 4, 0⟩)] } : State).arrived = [] := by decide +kernel

/-- AdminMemory: the last granule; a copy onto itself; a mark in a granule to be declared. -/
def grD (kind owner : Nat) (fs : List (Nat × Nat × Nat)) : Desc := adD kind ([(3, 1, 255), (8, 2, 4095), (0x0A, 2, 1), (0x0C, 1, owner)] ++ fs)
def ownS (d : Desc) (o : Nat) : State := { adS d with mem := { owner := [(4095, o)] } }
theorem met_granules : (∀ d ∈ [grD 0x48 0x40 [], grD 0x49 0 [], grD 0x54 1 [(0x0D, 1, 63), (0x0E, 1, 63)]], adGranules d.bytes = some [4095]) ∧
    turn (ownS (grD 0x48 0x40 []) 0xFF) (grD 0x48 0x40 []) 0x48 = true ∧ adReserved false [(0x08, 5)] (grD 0x48 0x40 []).bytes = true ∧ (ownS (grD 0x48 0x40 []) 0xFF).ownerOf 4095 = 0xFF ∧
    turn (ownS (grD 0x49 0 []) 0x40) (grD 0x49 0 []) 0x49 = true ∧ adReserved false [(0x08, 4)] (grD 0x49 0 []).bytes = true ∧ (ownS (grD 0x49 0 []) 0x40).ownerOf 4095 ≤ 0x40 ∧
    (let d := grD 0x54 1 [(0x0D, 1, 63), (0x0E, 1, 63)]
     turn (ownS d 0x40) d 0x54 = true ∧ adReserved false [(0x08, 7), (0x10, 8)] d.bytes = true ∧ field d.bytes 0x0C 1 = 1 ∧ field d.bytes 0x0D 1 ≤ 63 ∧ field d.bytes 0x0E 1 ≤ 63 ∧
     (ownS d 0x40).ownerOf 4095 = 0x40) := by decide +kernel
def cpD (n : Nat) : Desc := adD 0x4A [(3, 1, 255), (0x08, 8, 0), (0x10, 8, 2 ^ 28 - n), (0x18, 4, n), (0x1C, 1, 2)]
def cpS (n : Nat) : State := { adS (cpD n) with mem := { owner := [(0, 5)] } }
theorem met_copy : (∀ n ∈ [32, 2 ^ 28], turn (cpS n) (cpD n) 0x4A = true ∧ adReserved false [(0x08, 21)] (cpD n).bytes = true ∧ field (cpD n).bytes 0x18 4 % 32 = 0 ∧
      field (cpD n).bytes 0x18 4 ≤ 2 ^ 30 ∧ field (cpD n).bytes 0x1C 1 = 2 ∧ adTenant (cpD n).bytes = 255 ∧ (cpS n).copyMay 255 (field (cpD n).bytes 0x08 8) n = true ∧
      (cpS n).copyMay 255 (field (cpD n).bytes 0x10 8) n = true) ∧
    turn (adS (adD 0x4B [(3, 1, 255)])) (adD 0x4B [(3, 1, 255)]) 0x4B = true ∧ adReserved false [] (adD 0x4B [(3, 1, 255)]).bytes = true := by decide +kernel

/-- AdminTables. -/
def tbD (kind : Nat) (fs : List (Nat × Nat × Nat)) : Desc := adD kind ([(3, 1, 255)] ++ fs)
def tbS (d : Desc) : State := { adS d ten7 with chans := [(0, { fetched := [d] }), (1, { tenant := 7 })], reads := [(1, ⟨.admin, 0, 64, 0⟩)], images := [(5, ⟨7, okImg⟩)] }
/-- A table of equal entries, and what a reader finds at each. -/
def rep (n : Nat) (e : Bytes) : Bytes := (List.replicate n e).flatten
theorem rep_entry (e : Bytes) : ∀ n i, i < n → ((rep n e).drop (e.length * i)).take e.length = e
  | 0, i, h => absurd h (Nat.not_lt_zero i)
  | n + 1, 0, _ => by simp [rep, List.replicate_succ]
  | n + 1, i + 1, h => by
    have := rep_entry e n i (Nat.lt_of_succ_lt_succ h)
    rw [show rep (n + 1) e = e ++ rep n e by simp [rep, List.replicate_succ], Nat.mul_succ, Nat.add_comm, ← List.drop_drop]
    simpa using this
theorem rep_padTo (n : Nat) (e : Bytes) (m : Nat) (h : n * e.length = m) : padTo m (rep n e) = rep n e := by
  have hl : (rep n e).length = m := by simp [rep, h]
  simp only [padTo, hl, Nat.sub_self, List.replicate_zero, List.append_nil]
  exact List.take_of_length_le (Nat.le_of_eq hl)
def nwEntry : Bytes := leBytes 8 (8 + 128)
def prEntry : Bytes := leBytes 8 (2 ^ 4 + 6 * 2 ^ 5 + 500 * 2 ^ 25) ++ leBytes 8 0
theorem met_tables : (∀ k ∈ [0x4C, 0x4D, 0x4E], let d := tbD k [(4, 4, 1)]
      turn (tbS d) d k = true ∧ adReserved true [(0x08, 8)] d.bytes = true ∧ (match (tbS d).ofHandle (adHandle d.bytes) with | .ok ch => ch == 1 | .error _ => false) = true ∧
      (tbS d).readOut .admin ∧ ({ tbS d with reads := [] } : State).reading .admin = false ∧ (tbS d).adAddr d.bytes (field d.bytes 8 8) 4080 = true ∧
      ((tbS d).regEntries ((tbS d).chan 1).tenant).length ≤ 960) ∧
    (let d := adD 0x4F [(3, 1, 7), (8, 1, 255), (9, 1, 1), (0x0A, 2, 5)]
     let s := withFields (tbS d) [(memOff 0 8, 0, 32, 1)]
     turn s d 0x4F = true ∧ s.hasStack = true ∧ adReserved false [(0x08, 4), (0x10, 10)] d.bytes = true ∧ (SMap.find? (tbS d).images (field d.bytes 0x0A 2)).isSome = true) ∧
    (let d := adD 0x50 [(3, 1, 7), (0x10, 8, 65532), (0x18, 1, 4), (0x1A, 2, 255)]
     let b := d.bytes
     turn (tbS d) d 0x50 = true ∧ adReserved false [(0x08, 17), (0x1A, 2)] b = true ∧ field b 0x10 8 % 4 = 0 ∧ (tbS d).tenantEnabled (adTenant b) = true ∧
     (tbS d).inWindow (adTenant b) (field b 8 8) (32 * 2 ^ field b 0x18 1) = true ∧ (tbS d).inWindow (adTenant b) (field b 0x10 8) 4 = true) ∧
    (∀ n ∈ [12, 15], let d := tbD 0x51 [(8, 1, n)]
     turn (tbS d) d 0x51 = true ∧ adReserved false [(0x08, 1), (0x0C, 12)] d.bytes = true ∧ field d.bytes 8 1 = n) ∧
    (let d := tbD 0x52 []
     turn (tbS d) d 0x52 = true ∧ adReserved false [(0x08, 8)] d.bytes = true) ∧
    (let d := tbD 0x53 [(8, 1, 7), (9, 1, 31)]
     turn (tbS d) d 0x53 = true ∧ adReserved false [(0x08, 2)] d.bytes = true) ∧
    (let d := tbD 0x55 [(8, 2, 100), (0x0A, 2, 100), (0x0C, 2, 92), (0x0E, 2, 92), (0x10, 2, 192)]
     turn (tbS d) d 0x55 = true ∧ adReserved false [(0x08, 10)] d.bytes = true ∧ (tbS d).availCount = 192 ∧ (tbS d).canonical) ∧
    (let d := tbD 0x56 [(8, 4, 0xFFFFF8)]
     turn (tbS d) d 0x56 = true ∧ adReserved false [(0x08, 5), (0x10, 8)] d.bytes = true ∧ field d.bytes 0x0C 1 = 0 ∧ barOk (field d.bytes 8 4) 8 = true) := by
  unfold State.readOut State.canonical; decide +kernel
theorem met_normTable : ∀ i < 256, nwValid (field (padTo 2048 (rep 256 nwEntry)) (8 * i) 8) = true := by
  intro i h
  have e := rep_entry nwEntry 256 i h
  rw [rep_padTo 256 nwEntry 2048 (by decide)]
  exact (congrArg (fun b => nwValid (leNat b)) e).trans (by decide +kernel)
theorem met_predictorTable : ∀ i < 64, (predEntry (((padTo 1024 (rep 64 prEntry)).drop (16 * i)).take 16)).isSome = true := by
  intro i h
  have e := rep_entry prEntry 64 i h
  rw [rep_padTo 64 prEntry 1024 (by decide)]
  exact (congrArg (fun b => (predEntry b).isSome) e).trans (by decide +kernel)
theorem leNat_zeros : ∀ n, leNat (List.replicate n (0 : Byte)) = 0
  | 0 => rfl
  | n + 1 => by rw [List.replicate_succ, leNat, leNat_zeros n]; rfl
theorem met_plan : ∀ m, planOk 0 (padTo m []) = true := by
  intro m
  have hw : ∀ r i, planWord (padTo m []) r i = 0 := by
    intro r i; simp only [planWord, field, padTo, List.nil_append, List.take_replicate, List.drop_replicate, leNat_zeros]
  simp only [planOk, hw]
  decide +kernel

/-! ### Registers, management -/

/-- RegisterReads: an upper half exactly 10 µs after its latch, in the last register. RegisterWrites. EnablesTakeEffect. -/
def inService : State := withFields up [(0x60018, 0, 4, 0), (portOff 11 0, 0, 1, 1), (portOff 11 8, 0, 3, 0)]
theorem met_reads : up.barUp = true ∧ up.canonical ∧ 0xFFFFF8 % 8 = 0 ∧ 0xFFFFF8 + 8 ≤ 2 ^ 24 ∧ (∀ req : Fin 3,
    let s : State := { up with halfRd := [(16 * req.val + blockIx (0xFFFFF8 + 4), (0xFFFFF8, 1, up.now - 10000))] }
    SMap.find? s.halfRd (16 * req.val + blockIx (0xFFFFF8 + 4)) = some (0xFFFFF8, 1, up.now - 10000) ∧ s.now ≤ up.now - 10000 + 10000) := by unfold State.canonical; decide +kernel
theorem met_writes : (∀ req : Fin 3, SMap.find? ({ up with halfWr := [(2 ^ 24 * req.val + 0x40, 2 ^ 32 - 1)] } : State).halfWr (2 ^ 24 * req.val + 0x40) = some (2 ^ 32 - 1)) ∧
    up.subMember = false ∧ (∀ n : Fin 64, up.tenantEnabled n = false) ∧ ten7.tenantEnabled 7 = true ∧ ten7.barUp = true ∧ ten7.canonical ∧ bit 32 5 = true ∧
    (∀ v ∈ [0, 1], (withFields up [(rRAS_STATUS, 9, 1, v)]).getField rRAS_STATUS 9 1 = v) := by unfold State.canonical; decide +kernel
theorem met_enables : up.getField rRAS_STATUS 8 1 = 0 ∧ SMap.find? up.tenGone 7 = none ∧ ten7.tenBusy 7 = false ∧ ({ up with tenWant := [7] } : State).tenWant.contains 7 = true ∧
    (∀ k ∈ [4, 12], let s := withFields up [(0x20020, 0, 4, k), (0x20020, 4, 4, k)]
      s.isHead = true ∧ s.getField rPHASE 3 1 = 1 ∧ s.getField 0x20000 0 1 = 0 ∧ s.getField rADMIN_STATUS 0 2 = 0 ∧ (s.reg 0x20008).toNat % 4096 = 0 ∧
      (s.reg 0x20010).toNat % 4096 = 0 ∧ (s.reg 0x20018).toNat % 64 = 0 ∧ s.getField 0x20020 0 4 = k ∧ s.getField 0x20020 4 4 = k) ∧
    (withFields up [(rADMIN_STATUS, 0, 2, 1)]).getField rADMIN_STATUS 0 2 = 1 ∧
    (let s := { withFields up [(rADMIN_STATUS, 0, 2, 3)] with chans := [(0, {})] }
     s.getField rADMIN_STATUS 0 2 = 3 ∧ (s.chan 0).asked = 0 ∧ s.getField 0x20000 0 1 = 0 ∧ SMap.wf s.chans = true) ∧
    inService.getField 0x60018 0 3 = 0 ∧ inService.bypMove = none ∧ inService.getField 0x60000 0 1 = 0 ∧ inService.getField (portOff 11 0) 0 1 = 1 ∧ inService.bypassed = false ∧
    (({ inService with ports := [(11, { light := true })] } : State).port 11).light = true := by decide +kernel

/-- ManagementAnswers: one good frame of each command, the last instant of a nonce and the first after it. -/
def frame (code : Nat) (data : Bytes) : Bytes :=
  let f := leBytes 1 code ++ leBytes 1 data.length ++ data
  f ++ leBytes 1 (pec (leBytes 1 0x94 ++ f))
theorem met_frames : (∀ p ∈ [(1, []), (2, leBytes 4 0xFFFFF8), (3, leBytes 4 0x40 ++ leBytes 8 1), (4, []), (5, List.replicate 32 0), (6, [1]), (6, [2]), (8, [])],
      up.boot.sb = true ∧ up.frameCheck (frame p.1 p.2) = 0 ∧ field (frame p.1 p.2) 0 1 = p.1 ∧ ((frame p.1 p.2).drop 2).take ((frame p.1 p.2).length - 3) = p.2) ∧
    barOk 0xFFFFF8 8 = true ∧ up.mgmt.blocked ≤ up.now := by decide +kernel
set_option maxRecDepth 100000 in
theorem met_responseFrame : up.frameCheck (frame 7 (1 :: List.replicate 192 0)) = 0 ∧ field (frame 7 (1 :: List.replicate 192 0)) 0 1 = 7 := by decide +kernel
theorem met_nonce : (∀ at_ ∈ [up.now - 10000000000], ({ up with mgmt := { nonce := some (1, [], at_) }, now := up.now + 1 } : State).mgmt.nonce = some (1, [], at_) ∧
    at_ + 10000000000 < up.now + 1) := by decide +kernel
/-- The PEC of the byte string "123456789" is the check value of CRC-8 with polynomial 0x07: 0xF4. -/
theorem test_pec : pec (leBytes 9 0x393837363534333231) = 0xF4 := by decide +kernel

/-! ### Links, ports and transport -/

/-- Port 11 carries traffic over all lanes. -/
def linkS (x : Port) : State := { withFields up [(portOff 11 8, 0, 3, 2), (portOff 11 8, 3, 8, 255)] with ports := [(11, x)] }
def flitOf (ft seq : Nat) (bad : Nat) : Bytes :=
  let b := leBytes 12 (flitHdr ft 1 true true seq 0 0 0 239) ++ List.replicate 240 7
  b ++ leBytes 4 (crc32c b + bad)
def goodFlit (f : Bytes) : Bool :=
  let h := field f 0 12
  f.length == 256 && field f 252 4 == crc32c (f.take 252) && bits h 10 6 == 0 && bits h 60 4 == 0 && bits h 72 24 == 0

/-- LinkRetry: sequence numbers at the wrap, the eighth resend, a flit that waits for exactly 12 µs. -/
theorem met_receive : (linkS { expect := 65535 }).carrying 11 = true ∧ (linkS {}).injOn = false ∧ (linkS {}).canonical ∧
    (let f := flitOf 1 65535 0
     goodFlit f = true ∧ bits (field f 0 12) 0 4 = 1 ∧ bits (field f 0 12) 16 16 = 65535 ∧ bit (field f 0 12) 8 = true ∧ bit (field f 0 12) 9 = true) ∧
    (let f := flitOf 2 0 0
     goodFlit f = true ∧ bits (field f 0 12) 0 4 = 2) ∧
    (let f := flitOf 1 0 1
     field f 252 4 ≠ crc32c (f.take 252)) := by unfold State.canonical; decide +kernel
theorem met_receiveOther : goodFlit (flitOf 1 0 0) = true ∧ bits (field (flitOf 1 0 0) 0 12) 0 4 = 1 ∧ bits (field (flitOf 1 0 0) 0 12) 16 16 ≠ 65535 := by decide +kernel
def aFlit : Flit := ⟨65535, 1, true, true, [7]⟩
def rtx (tries : Nat) : Port := { replay := [aFlit], nackIn := some 65535, tries := tries, ackAt := up.now - 12000 }
theorem met_resend : (∀ t ∈ [7, 8], let x := (linkS (rtx t)).port 11
      x.nackIn = some 65535 ∧ x.replay.any (fun f => f.seq == 65535) = true ∧ x.tries = t ∧ x.ackAt + 12000 ≤ (linkS (rtx t)).now) ∧ (linkS {}).outbox = [] := by decide +kernel
def txS : Port := { txq := [⟨1, 1, List.replicate 240 7, false⟩] }
theorem met_transmit : txS.pick = some 0 ∧ (∀ m, txS.txq[0]? = some m → m.started = false ∧ m.bytes.length ≤ 240) ∧ txS.owe = [] ∧ txS.pavOut = none ∧ txS.rewind = none ∧
    (let x : Port := { replay := [aFlit], rewind := some 65535 }
     x.rewind = some aFlit.seq ∧ x.replay.find? (fun g => g.seq == aFlit.seq) = some aFlit ∧ aFlit.eom = true) ∧ ({} : Port).pick = none := by decide +kernel

/-- PortsAndLanes: four lanes are enough, three are not; on a torus port, the neighbour its cable leads to. -/
def trainS : State := withFields up [(portOff 11 8, 0, 3, 1), (portOff 11 0, 0, 1, 1)]
def lanesS (l : Nat) : State := withFields (linkS {}) [(portOff 11 8, 3, 8, l)]
def downS : State := { withFields up [(portOff 11 8, 0, 3, 4), (portOff 11 0, 0, 1, 1)] with ports := [(11, { downAt := some (up.now - 1000000) })] }
theorem met_ports : trainS.portSt 11 = 1 ∧ (mate 11 = 10 ∧ (ringSteps trainS.self 48 (11 % 6)).isSome = true) ∧ popcount 8 0x0F = 4 ∧ popcount 8 0x07 < 4 ∧
    (ringSteps trainS.self 1 (11 % 6)).isSome = false ∧ (downS.port 11).downAt = some (up.now - 1000000) ∧ downS.portSt 11 = 4 ∧
    up.now - 1000000 + 1000000 ≤ downS.now ∧ downS.getField (portOff 11 8) 11 4 ≠ 3 ∧ downS.getField (portOff 11 0) 0 1 = 1 ∧ downS.canonical ∧
    (∀ l ∈ [0x1F, 0x0F], (lanesS l).carrying 11 = true ∧ bit ((lanesS l).lanes 11) 0 = true ∧ (lanesS l).lanes 11 = l) ∧ popcount 8 (0x1F - 1) = 4 ∧ popcount 8 (0x0F - 1) < 4 ∧
    bit ((lanesS 0x7F).lanes 11) 7 = false ∧ ((lanesS 0x7F).port 11).slots % (5 * popcount 8 ((lanesS 0x7F).lanes 11)) = 0 ∧
    ({ slots := 34 } : Port).slots % (5 * popcount 8 0x7F) ≠ 0 ∧ ({ light := true } : Port).light = true := by unfold State.canonical; decide +kernel
/-- R384: over seven lanes, a lane that has returned joins after flit slot 34 and not after slot 33. -/
theorem test_lane_joins : ((lanesS 0x7F).setPort 11 { (lanesS 0x7F).port 11 with joining := 0x80, slots := 35 }).joinLanes 11 |>.lanes 11 |> (· = 255) := by decide +kernel
theorem test_lane_waits : ((lanesS 0x7F).setPort 11 { (lanesS 0x7F).port 11 with joining := 0x80, slots := 34 }).joinLanes 11 |>.lanes 11 |> (· = 127) := by decide +kernel
/-- Lane 0 alone has less light than 700 units. -/
theorem met_laser : ∀ i v, [699, 700, 700, 700, 700, 700, 700, 700][i]? = some v → i ≠ 0 → 700 ≤ v
  | 0, _, _, n => absurd rfl n
  | k + 1, v, h, _ => by
    have m : v ∈ List.replicate 7 700 := List.mem_of_getElem? (l := List.replicate 7 700) (i := k) h
    simp at m; omega

/-- TransportAndRoutes: messages whose number is the one expected, one behind, and 2^31 apart; a last and a further hop. -/
def msgOf (kind mseq hops dst : Nat) : Bytes :=
  bytesOf 32 [(0, 1, kind), (1, 1, 1), (2, 2, 5), (4, 2, dst), (6, 2, 3), (8, 4, mseq), (0x0C, 4, 4), (0x10, 4, 4), (0x14, 1, 255), (0x15, 1, hops)] ++ [1, 2, 3, 4]
def rxS (kind mseq hops dst : Nat) : State := { withFields (linkS {}) [(memOff 0 8, 0, 32, 1)] with rxMsgs := [(0, 1, msgOf kind mseq hops dst)], rxSeq := [(flowKey 5 3 1, 2 ^ 32 - 1)] }
theorem met_delivery : (∀ k ∈ [1, 2, 5, 7, 8], let raw := msgOf k (2 ^ 32 - 1) 30 0
      let s := rxS k (2 ^ 32 - 1) 30 0
      let h := raw.take 32
      s.encrypts 0 = false ∧ 32 ≤ raw.length ∧ (raw.drop 32).length = field h 0x0C 4 ∧ field h 0x15 1 < 31 ∧ field h 4 2 % 4096 = s.addr ∧ field h 0 1 = k ∧
      field h 8 4 = SMap.get s.rxSeq (flowKey (field h 2 2 % 4096) (field h 6 2) (bits (field h 1 1) 0 2)) 0 ∧ s.rxHeld = [] ∧ bit (field h 1 1) 2 = false ∧
      (raw.drop 32).length = field h 0x10 4 ∧ s.canonical ∧ s.hasStack = true ∧ s.tenantOk ⟨k, 1, 5, 3, 63, raw.drop 32⟩ = true) ∧ (linkS {}).hasStack = false ∧
    (∀ q ∈ [2 ^ 32 - 2, 2 ^ 31 - 1], 2 ^ 31 ≤ (q + 2 ^ 32 - SMap.get (rxS 1 q 0 0).rxSeq (flowKey 5 3 1) 0) % 2 ^ 32) ∧ 31 ≤ field (msgOf 1 0 31 0) 0x15 1 ∧
    (let s := withFields { linkS {} with rxMsgs := [(12, 1, [])] } [(portOff 12 0, 1, 1, 1)]
     s.encrypts 12 = true ∧ SMap.find? s.keys 12 = none) := by unfold State.canonical; decide +kernel
/-- Module 48 is the neighbour along −Z (direction 5, ports 5 and 11). -/
def hopS : State := { rxS 2 0 30 48 with tables := { view := { up := [(0, 2048)] } } }
theorem met_transit : hopS.nextHop 48 3 (some (0, false, false)) = some (11, true, false) ∧ bit 1 0 = true ∧ hopS.carrying 11 = true ∧ hopS.encrypts 11 = false ∧
    field (msgOf 2 0 30 48) 4 2 % 4096 ≠ hopS.addr := by decide +kernel
def unS (kind tries : Nat) (body : Bytes) : State :=
  { withFields (eng0 {}) [(0x60000, 8, 8, 1), (0x60000, 16, 4, 3)] with unacked := [⟨7, ⟨kind, 1, 5, 3, 0, body⟩, 0, tries⟩], now := 10000, colls := [(3, { item := some 1 })] }
theorem met_timeouts : (∀ k ∈ [1, 5, 8], ∀ t ∈ [2, 3], let s := unS k t [0xB0]
      0 + s.getField 0x60000 8 8 * 10000 ≤ s.now ∧ s.getField 0x60000 16 4 = 3 ∧ s.canonical) ∧ field [0xB0] 0 1 = 0xB0 ∧
    (SMap.get (unS 5 3 []).colls 3 {}).item = some 1 ∧ (SMap.find? (unS 5 3 []).items 1).isSome = true ∧ ((unS 5 3 []).item 1).phase = .running ∧
    ({ up with viewDue := true, floodDue := true } : State).viewDue = true := by unfold State.canonical; decide +kernel

/-- PavaneDiscipline: an offset of exactly 800 eighths, and one more. -/
def pavS (t4 : Nat) : State :=
  { withFields (linkS { pavIn := some (bytesOf 48 [(0, 1, 1), (2, 2, 0), (0x28, 8, t4)], 100) }) [(rPAV_CTRL, 9, 1, 1), (rPAV_CTRL, 0, 4, 11), (rPAV_STATUS, 0, 2, 2)] with
    pavane := { prev := some (65535, 5000, 5000, 5000) } }
theorem met_pavane : (∀ p ∈ [(5000 + 1600, -800), (5000 + 1602, -801)], let s := pavS p.1
      let b := bytesOf 48 [(0, 1, 1), (2, 2, 0), (0x28, 8, p.1)]
      s.carrying 11 = true ∧ (s.port 11).pavIn = some (b, 100) ∧ field b 0 1 = 1 ∧ s.parent = some 11 ∧ (65535 + 1) % 2 ^ 16 = field b 2 2 ∧ field b 0x28 8 ≠ 0 ∧ s.pavState = 2 ∧
      (((5000 : Int) - 5000) - ((field b 0x28 8 : Int) - 5000)).fdiv 2 = p.2 ∧ s.canonical) ∧
    ({ pavS 0 with pavane := {} } : State).pavane.prev = none ∧ field (bytesOf 48 [(0, 1, 2)]) 0 1 = 2 := by unfold State.canonical; decide +kernel
/-- Primary parent on port 11, alternate on port 10. -/
def lossS (st : Nat) (alt : Bool) (up10 up11 : Nat) : State :=
  { withFields up [(rPAV_CTRL, 0, 4, 11), (rPAV_CTRL, 4, 4, 10), (rPAV_CTRL, 9, 2, 3), (rPAV_STATUS, 0, 2, st), (portOff 10 8, 0, 3, up10), (portOff 11 8, 0, 3, up11)] with
    pavane := { alt := alt } }
def parentUp (s : State) (alt : Bool) : Bool :=
  let c := (s.reg rPAV_CTRL).toNat
  if alt then bit c 10 && decide (s.portSt (bits c 4 4) = 2) else bit c 9 && decide (s.portSt (bits c 0 4) = 2)
theorem met_parentLoss : (∀ p ∈ [(1, 2), (2, 2), (3, 2), (1, 3), (2, 4)], let s := lossS p.1 false p.2 4
      bit (s.reg rPAV_CTRL).toNat 8 = false ∧ parentUp s false = false ∧ parentUp s true = decide (p.2 = 2) ∧ s.pavState = p.1 ∧ s.canonical) := by
  unfold State.canonical; decide +kernel

/-- BarriersCollectivesAndByPass: one arrival of two, then the last; a release at its time; the reduced sum of two ranks. -/
def barMsg (op peer : Nat) : Msg := ⟨6, 1, peer, 9, 0, barBody op 9 4 100⟩
def barS (op : Nat) (arrived : List Nat) : State :=
  { linkS {} with inbox := [barMsg op 11], groups := [(9, [0, 10, 11])], bars := [(9, ⟨4, arrived, false⟩)], pav := 100, releases := [(9, 4, 100)],
                  items := [(1, { barrier := some (9, 4), barWait := true, barDeadline := 100 })] }
theorem met_barrier : (∀ p ∈ [([], false), ([0, 10], true)], let s := barS 1 p.1
      (match s.takeBar 1 with | some (m, _) => m == barMsg 1 11 | none => false) = true ∧ field (barMsg 1 11).body 2 2 = 9 ∧ field (barMsg 1 11).body 4 4 = 4 ∧
      p.1.contains 11 = false ∧ (SMap.get s.groups 9 []).all (fun a => (p.1 ++ [11]).contains a) = p.2 ∧ s.canonical) ∧
    (∀ op ∈ [2, 3], (match (barS op []).takeBar op with | some (m, _) => m == barMsg op 11 | none => false) = true ∧ (barS op []).atBarrier 9 4 = [1]) ∧
    100 ≤ (barS 2 []).pav ∧ ((barS 2 []).item 1).barDeadline ≤ (barS 2 []).pav ∧ ((barS 2 []).item 1).phase = .waiting := by unfold State.canonical; decide +kernel
def cPart (op : Nat) : CollPart := { coll := 3, ranks := [0, 11], rank := 1, op := op, fmt := fI32, all := false, compress := false, item := none }
def colS (parts : List (Nat × Bytes)) : State := { up with inbox := [⟨5, 1, 11, 3, 0, [255, 255, 255, 255]⟩], colls := [(3, { parts := parts })] }
theorem met_collective : (∀ parts ∈ [[], [(0, [1, 0, 0, 0])]], let s := colS parts
      let c := cPart 0
      (s.takeMsg (fun m => m.kind == 5 && decide (some m.peer = c.ranks[c.rank]?) && decide (m.flow = c.coll))).isSome = true ∧
      (SMap.get s.colls c.coll {}).parts.any (fun p => p.1 == c.rank) = false ∧ (SMap.get s.colls c.coll {}).result = none ∧
      (∀ p ∈ parts ++ [(c.rank, [255, 255, 255, 255])], p.2.length = 4) ∧ decide ((parts ++ [(c.rank, [255, 255, 255, 255])]).length < c.ranks.length) = parts.isEmpty) ∧
    ({ up with bypMove := some (true, up.now - 5000000) } : State).bypMove = some (true, up.now - 5000000) ∧ up.now - 5000000 + 5000000 ≤ up.now ∧
    (3 : BitVec 3).toNat ≠ 7 := by decide +kernel

/-! ### Upkeep of memory -/

/-- MemoryUpkeep: a buffer of exactly 2 µs, the last line of the last MCH, the oldest time of each limit. -/
def wcbS : State := { up with mem := { wcb := [⟨5, (List.range 64).map (fun i => (i, 1)), 0, up.now - 2000⟩] } }
def scrS (line : Nat) : State := withFields up [(memOff 7 8, 0, 32, 2 ^ 31), (memOff 7 0x18, 28, 5, 31), (memOff 7 0x18, 0, 28, line)]
theorem met_upkeep : (wcbS.mem.wcb.map (·.line)).Nodup ∧ (∀ w ∈ wcbS.mem.wcb, w.time + 2000 ≤ wcbS.now ∧ 64 ≤ w.bytes.length) ∧ wcbS.canonical ∧
    (∀ line ∈ [0, 2 ^ 26 - 2, 2 ^ 26 - 1], let s := scrS line
      let l := s.mchs 7
      l.zipIdx.find? (fun p => decide (s.getField (memOff 7 0x18) 28 5 ≤ p.1)) = some (31, 0) ∧ s.getField (memOff 7 0x18) 0 28 = line ∧ l[1]? = none ∧ s.mem.errs = [] ∧
      s.wcbOf (dpaOf 7 l.length 0 (64 * line) / 64) = none ∧ l.contains 31 = true ∧
      s.mem.caErr = [] ∧ s.getField (memOff 7 (0x100 + 8 * 31)) 19 2 = 0 ∧ s.getField (memOff 7 (0x100 + 8 * 31)) 0 7 = 0x7F ∧ s.getField (memOff 7 0x10) 8 1 = 0) ∧
    (let s : State := { withFields (scrS 0) [(0x48000, 16, 8, 5), (memOff 7 0x10, 9, 1, 1)] with bgAt := [(1024 + 7, up.now), (2048 + 255, up.now)] }
     s.getField 0x48000 16 8 ≠ 0 ∧ s.mem.zeroing = [] ∧ s.bgSlice = [] ∧ SMap.get s.mem.lastReq 7 0 + 1000 * s.getField 0x48000 16 8 ≤ s.now ∧ s.mchs 7 ≠ [] ∧
     s.scrubDue 7 = false ∧ s.calDue 7 = false ∧ s.getField (memOff 7 0x10) 9 1 = 1) ∧
    ({ up with bgSlice := [1024 * 4 + 0] } : State).bgSlice.contains (1024 * 4 + 0) = true ∧
    (∀ a ≤ 4, a ≠ 1 → SMap.get up.bgAt (1024 * a + ([192, 8, 256, 128, 1].getD a 0 - 1)) up.boot.startAt + bgLimit a ≤ up.now) ∧
    (∀ v ∈ [0, 1], (withFields up [(0xD0000, 0, 1, v)]).getField 0xD0000 0 1 = v) := by unfold State.canonical; decide +kernel
def reg5 (source : Nat) : Region := ⟨4, 2, source, 0, 11, 2 ^ 28, 255⟩
def refS (x : Gran) (source : Nat) : State :=
  { up with grans := [(5, x)], regions := [(2, reg5 source)], reads := [(1, ⟨.refill 5, 2 ^ 29, 2 ^ 28, 0⟩)] }
theorem met_refill : (∀ src ∈ [0, 1], (refS ⟨2, 0, 0, none, 0, false, false⟩ src).regOf 5 = some (2, reg5 src)) ∧
    (∀ t ∈ [0, 1], (match (refS ⟨3, 0, t, none, 0, false, false⟩ 0).refillData 5 (reg5 0) .failed with | some (none, _) => true | _ => false) = true) := by decide +kernel
theorem met_refillGood : ∃ b s1, (refS ⟨3, 0, 0, none, 0, false, false⟩ 0).refillData 5 (reg5 0) (.ok [1] false) = some (some b, s1) := ⟨_, _, rfl⟩
def askMsg (n : Nat) : Msg := ⟨8, 1, 11, 0, 0, refillAsk 5 (2 ^ 28 - n) n⟩
def askS (n : Nat) : State := { up with inbox := [askMsg n], mem := { owner := [(0, 0x40)] } }
theorem met_peerRefill : (∀ n ∈ [64, 32768], let s := askS n
      (match s.takeMsg (fun m => m.isMgmt 0xB0) with | some (m, _) => m == askMsg n | none => false) = true ∧ field (askMsg n).body 4 4 = 5 ∧ field (askMsg n).body 16 4 = n ∧
      field (askMsg n).body 8 8 % 64 = 0 ∧ s.granulesOk (field (askMsg n).body 8 8) n (· == 0x40) = true) ∧ field (askMsg 0).body 16 4 = 0 ∧
    (askMsg 0).isMgmt 0xB0 = true := by decide +kernel
def stlS : State := withFields { eng0 { item := 1, dma := [{ dmaOf (.stalled 5) with since := up.now - 1000000 }] } with now := up.now } [(rRAS_CTRL, 8, 8, 1)]
theorem met_stalled : (stlS.engine 0).dma.length = 1 ∧ up.now - 1000000 + max 1 (stlS.getField rRAS_CTRL 8 8) * 1000000 ≤ stlS.now ∧
    (SMap.find? stlS.items 1).isSome = true ∧ (stlS.item 1).phase = .running := by decide +kernel

/-! ### Power and faults of the module -/

/-- PowerAndFatalFaults: the warning's limit, its release at the end of 100 µs and of the ramp, the limits of the thermal states. -/
def warnS : State := { withFields up [(rPWR_STATUS, 0, 2, 3)] with supply := { clearAt := some (up.now - 100000), rampAt := some (up.now - 10000) } }
def thermS : State := withFields up [(rPWR_CTRL, 12, 8, 95)]
theorem met_power : 1710 ≤ 1710 ∧ up.getField rPWR_STATUS 0 1 = 0 ∧ warnS.getField rPWR_STATUS 0 1 = 1 ∧ warnS.getField rPWR_STATUS 1 1 = 1 ∧
    up.now - 100000 + 100000 ≤ warnS.now ∧ up.now - 10000 + 10000 ≤ warnS.now ∧ warnS.canonical ∧ up.supply.fastPin = false ∧ up.inReset = false ∧ State.reset.inReset = true ∧
    State.reset.supply.fastPin = false ∧
    (let l := (up.now, 1800, 1000) :: up.supply.samples
     meanW l up.now 1000 ≤ 2400 ∧ 1800 * 1000 / 1000 ≤ (withFields up [(rPWR_CTRL, 1, 11, 1800)]).cap ∧ meanW l up.now 100000000 ≤ (withFields up [(rPWR_CTRL, 1, 11, 1800)]).cap ∧
      up.supply.capSince = none) ∧ up.supply.clocksOff = false ∧ up.fatal = false := by unfold State.canonical; decide +kernel
theorem met_thermal : (∀ tj ∈ [94, 95, 99, 100, 109, 110], hottest (List.replicate 40 tj) (List.range 40) = tj) ∧ thermS.getField rPWR_CTRL 12 8 = 95 ∧
    thermS.getField rPWR_STATUS 3 2 = 0 ∧ (∀ i, i < 8 → thermS.getField (memOff i 0x10) 0 8 < 95) ∧ thermS.canonical := by unfold State.canonical; decide +kernel

/-- QuadrantPowerStates: quadrant 7, one nanosecond's end of each idle time. -/
def idleS (st since : Nat) : State :=
  { withFields up [(qclkOff 7, 32, 3, st), (rPWR_CTRL, 20, 12, 1), (rPWR_CTRL, 32, 12, 2), (rPWR_CTRL, 44, 12, 3)] with qSince := [(7, up.now - since)] }
theorem met_quadrants : (∀ p ∈ [(1, 1000 * 1), (2, 1000 * 2), (3, 1000000 * 3)], let s := idleS p.1 p.2
      s.idleFor 7 p.1 p.2 = true ∧ s.getField rPWR_CTRL 20 12 = 1 ∧ s.getField rPWR_CTRL 32 12 = 2 ∧ s.getField rPWR_CTRL 44 12 = 3 ∧ s.canonical) ∧
    (let s : State := { withFields (idleS 4 0) [(rPWR_STATUS, 7, 1, 1)] with wakeReq := [7] }
     s.qState 7 ≠ 0 ∧ (s.wakeReq.contains 7 || s.warmQuads.contains 7) = true ∧ s.pllLost.contains 7 = false ∧ s.mayClock = true) ∧
    (let s : State := { up with items := [(1, { phase := .running, engines := [0, 30] })] }
     s.qState 0 < 3 ∧ s.pllLost.contains 0 = false ∧ SMap.find? s.items 1 = some (s.item 1) ∧ quadOf 0 = 0) ∧
    (let s : State := { withFields up [(rPWR_STATUS, 7, 1, 1)] with pllLost := [0] }
     (s.pllLost.contains 0 || s.clearFailed 0) = true ∧ s.items = [] ∧ s.mayClock = true ∧ s.clrDead = []) := by unfold State.canonical; decide +kernel

/-! ### Resets and bring-up -/

/-- ResetsAndLinkPower: the lowest voltage and the shortest delay of a release. -/
def rstS : State := { boot := { sb := true, powerRst := true }, now := 50000000 }
def memberS : State := { withFields up [(rPHASE, 4, 1, 0)] with inbox := [⟨8, 1, 0, 0, 0, [0xF3, 3, 0, 0]⟩, ⟨8, 1, 0, 0, 0, [0xF3, 4, 0, 0]⟩], boot := { up.boot with hostUp := false } }
theorem met_resets : up.boot.powerRst = false ∧ up.inReset = false ∧ rstS.boot.modRst = false ∧ rstS.inReset = true ∧ rstS.boot.sb = true ∧ rstS.boot.sbAt + 50000000 ≤ rstS.now ∧
    ({ up with boot := { up.boot with modRst := true } } : State).boot.modRst = true ∧ State.reset.boot.sb = false ∧ 1 ≤ up.phase ∧
    ({ up with boot := { up.boot with hostUp := false } } : State).boot.hostUp = false ∧ memberS.inReset = false ∧ memberS.isHead = false ∧
    (memberS.takeMsg (isHifMsg 3)).isSome = true ∧ (memberS.takeMsg (isHifMsg 4)).isSome = true ∧ memberS.boot.hostUp = false ∧ memberS.canonical ∧
    up.l1 = false ∧ up.lastHost + 100000 ≤ up.now ∧ up.anyChannel = false ∧ ({ up with d3hot := true } : State).chans = [] := by unfold State.canonical; decide +kernel

/-- BringUpPhases: each phase, with the coolant in and out of its limits. -/
def phS (ph : Nat) (b : Boot) : State :=
  let r : Boot := { sb := true, powerRst := false, hostUp := b.hostUp, fabDone := b.fabDone, throughAt := b.throughAt }
  { withFields up [(rPHASE, 0, 7, ph)] with boot := r, supply := { temps := [25] } }
theorem met_bringUp : (phS 0 {}).phase = 0 ∧ (phS 0 {}).boot.failed = false ∧ (phS 0 {}).inReset = false ∧ (phS 0 {}).canonical ∧
    (∀ c ∈ [0, 1], let s := withFields (phS 1 {}) [(rPWR_STATUS, 7, 1, c)]
      s.phase = 1 ∧ s.boot.bar0 = false ∧ s.supply.fastPin = false ∧ s.supply.temps ≠ [] ∧ s.coolantOk = (c == 1) ∧ s.fatal = false) ∧
    (let s := withFields (phS 65 {}) [(rPWR_STATUS, 7, 1, 1)]
     s.phase = 1 ∧ s.getField rPHASE 6 1 = 1 ∧ s.coolantOk = true) ∧
    (∀ d ∈ [false, true], (phS 2 { fabDone := d }).phase = 2 ∧ (phS 2 { fabDone := d }).boot.memDone = false ∧ (phS 2 { fabDone := d }).boot.fabDone = d) ∧
    (∀ ph ∈ [2, 3], let s := withFields (phS ph { throughAt := some (up.now - 10000000) }) [(0x60018, 0, 4, 0), (rPAV_CTRL, 8, 1, 1), (portOff 3 8, 0, 3, 1)]
      s.boot.throughAt = some (up.now - 10000000) ∧ s.phase = ph ∧ s.boot.fabDone = false ∧ s.bypassed = false ∧ up.now - 10000000 + 10000000 ≤ s.now ∧
      bit (s.reg rPAV_CTRL).toNat 8 = true) ∧ (phS 0 {}).boot.perst = false ∧ (phS 0 {}).boot.hostUp = false := by unfold State.canonical; decide +kernel

/-- DomainFormation: modules 0 and 1 to 15 in one record, with module 3 its head; this is module 0. -/
def recB : Bytes :=
  let r := bytesOf 28 [(0, 2, 0x4D44), (2, 1, 1), (4, 1, 3), (8, 8, 0xFFFF), (0x10, 2, 1)]
  r ++ leBytes 4 (crc32c r)
def domS (msgs : SMap DomMsg) (pav : Nat) : State :=
  { withFields { boot := up.boot, now := up.now } [(rPHASE, 0, 7, 4)] with pav := pav, dom := { sector := some recB, msgs := msgs, entered := some 0, ownDone := up.now - 1000000 } }
def heard (r : Bytes) (link : Bool) : DomMsg := ⟨r.take 0x1C, link, 0, 1000000, if link then some 1000000 else none⟩
def floodMsg : Msg := ⟨8, 1, 3, 0, 0, recB.take 0x1C ++ List.replicate 20 0⟩
theorem met_election : recordCheck 0 recB = 0 ∧ (domS [] 0).inReset = false ∧ (domS [] 0).phase = 4 ∧ (domS [] 0).getField rPHASE 5 1 = 0 ∧
    (domS [] 2000000).elect = none ∧ (domS [] 2000001).elect = some none ∧
    (domS [(3, heard recB true)] 0).elect = some (some 3) ∧ (heard recB true).record = (domS [] 0).record.take 0x1C ∧
    (heard (leBytes 28 7) true).record ≠ (domS [] 0).record.take 0x1C ∧ (domS [] 0).canonical ∧ (withFields (domS [] 0) [(rPHASE, 5, 1, 1)]).getField rPHASE 5 1 = 1 ∧
    (({ domS [] 0 with inbox := [floodMsg] } : State).takeMsg isDomMsg).isSome = true ∧ floodMsg.peer / 64 = (domS [] 0).rack ∧
    (∀ l ∈ [true, false], (domS [(3, heard recB l)] 0).linkSeen (recHead (domS [] 0).record) = l) := by unfold State.canonical; decide +kernel
def allHeard : SMap DomMsg := (List.range 16).map (fun m => (m, heard recB true))
def formS (s : State) : State := { s with dom := { s.dom with head := some s.self } }
def hubMsg : Msg := ⟨8, 1, 3, 0, 0, [0xF2] ++ List.replicate 7 0 ++ leBytes 8 0xFFFF⟩
def inDom (head : Nat) : State := { withFields (domS allHeard 0) [(rPHASE, 0, 5, 13 + 16 * head), (rDOMAIN_CFG, 14, 1, 1), (rDOMAIN_CFG, 0, 6, 3 - 3 * head), (rDOMAIN_MEMBERS, 0, 64, 0x5)] with
  dom := { (domS allHeard 0).dom with unreach := [(2, up.now - 10000000), (3, up.now - 10000000)] } }
theorem met_formation : (∀ m ∈ (formS (domS allHeard 0)).listed, (formS (domS allHeard 0)).recordEq m = true) ∧ (formS (domS allHeard 0)).dom.head = some (formS (domS allHeard 0)).self ∧
    (formS (domS [] 0)).dom.ownDone + recWait (formS (domS [] 0)).record * 1000000 ≤ (formS (domS [] 0)).now ∧
    (({ domS [] 0 with inbox := [hubMsg] } : State).takeMsg (fun m => m.isMgmt 0xF2 && decide (m.peer / 64 = (domS [] 0).rack))).isSome = true ∧ (domS [] 0).dom.head = none ∧
    (let s := inDom 1
     s.isHead = true ∧ s.formed = true ∧ s.self = 0 ∧ bit (s.reg rDOMAIN_MEMBERS).toNat 1 = false ∧ s.listed.contains 1 = true ∧ s.recordEq 1 = true ∧
     bit (s.reg rDOMAIN_MEMBERS).toNat 2 = true ∧ SMap.find? s.dom.unreach 2 = some (up.now - 10000000) ∧ up.now - 10000000 + 10000000 ≤ s.now ∧ s.canonical) ∧
    (let s := inDom 0
     s.isHead = false ∧ s.formed = true ∧ s.phase = 5 ∧ s.headIx = 3 ∧ (SMap.find? s.dom.unreach s.headIx).isSome = true) := by unfold State.canonical; decide +kernel

/-! ### The queue and the state as a whole -/

/-- StepRunsFrontCommand, CommandsLeaveQueueAndTime, StepKeepsCanonicalForm, IdleStepPassesOneNanosecond. -/
theorem met_step : ({ up with pending := [.nop 1, .regStream] } : State).pending = .nop 1 :: [.regStream] ∧ up.canonical ∧ State.reset.canonical ∧
    (match step { up with pending := [.nop 1] } with | .next t => t.pending == [] && decide (t.now = up.now) | _ => false) = true ∧
    (match step up with | .next t => decide (t.now = up.now + 1) | _ => false) = true ∧ up.pending = [] ∧ up.pavane.steer = 0 ∧
    (∀ k ∈ [999, 1000], ({ up with mem := { calAt := [(2, up.now - k)] } } : State).canonical) := by
  unfold State.canonical; decide +kernel

/-! ### Worked examples of the manual -/

/-- After R44: code 36 is 0, +1, 0, 0, −1. -/
theorem test_code36 : (List.range 5).map (tritOf25 36) = [0, 1, 0, 0, -1] := by decide +kernel
/-- R77: 0x2C as a UE4M3 scale has significand 12 and scale exponent −5. -/
theorem test_scale : scaleParts 1 0x2C = (12, -5) := by decide +kernel
/-- 00: engine E77 lies in quadrant Q3 with local index 5; the module at (2, 1, 3) has index 54. -/
theorem test_numbers : quadOf 77 = 3 ∧ 77 % 24 = 5 ∧ coord 54 0 = 2 ∧ coord 54 1 = 1 ∧ coord 54 2 = 3 := by decide +kernel
/-- R378: P0 of (x, y, z) goes to P1 of the neighbour, and P8 to P9. -/
theorem test_cables : mate 0 = 1 ∧ mate 8 = 9 := by decide +kernel
/-- 17: every member entered DOMAIN at 470 ms and waits 500 ms: the election deadline is 970 ms; without a report, the decision falls in the next millisecond. -/
theorem test_election : (({ domS [(3, ⟨recB.take 0x1C, false, 470000000, 0, none⟩)] 0 with dom := { (domS [] 0).dom with
      sector := some (let r := bytesOf 28 [(0, 2, 0x4D44), (2, 1, 1), (4, 1, 3), (8, 8, 0xFFFF), (0x10, 2, 500)]; r ++ leBytes 4 (crc32c r)),
      entered := some 470000000 } } : State).deadline = 970000000) := by decide +kernel
/-- CRC-32C of the byte string "123456789", the standard's check value. -/
theorem test_crc : crc32c (leBytes 9 0x393837363534333231) = 0xE3069283 := by decide +kernel
/-- FIPS 180-4: SHA-384 of "abc" begins with CB 00 75 3F. -/
theorem test_sha384 : (sha384 [0x61, 0x62, 0x63]).take 4 = [0xCB, 0x00, 0x75, 0x3F] := by decide +kernel
/-- FIPS 197: the AES-256 example vector. -/
theorem test_aes : aesBlock (roundKeys ((List.range 32).map (BitVec.ofNat 8))) ((List.range 16).map (fun i => BitVec.ofNat 8 (17 * i))) =
    [0x8E, 0xA2, 0xB7, 0xCA, 0x51, 0x67, 0x45, 0xBF, 0xEA, 0xFC, 0x49, 0x90, 0x4B, 0x49, 0x60, 0x89] := by decide +kernel
/-- R611: a scratch register holds what was written, 64 bits of it. -/
theorem test_scratch : (match exec (.registerWrite 0 0x40 8 0x123456789) up with | .next t => (t.reg 0x40).toNat | _ => 0) = 0x123456789 := by decide +kernel
/-- R100: the published known-answer vector of Philox-4x32-10 for key 0 and counter 0. -/
theorem test_philox : (List.range 4).map (philox 0 0 0) = [0x6627E8D5, 0xE169C58D, 0xBC57AC4C, 0x9B00DBD8] := by decide +kernel

end Sys2Proof.Tests
end

section
/-! SUPPORT. Register fields: what setting one reads back as, and what a write of a list of fields by their access codes leaves in each (R16). -/

namespace Sys2Proof.Machine

/-! ### Bits of a register value -/

theorem bits_lt (v lo len : Nat) : bits v lo len < 2 ^ len := Nat.mod_lt _ (Nat.two_pow_pos _)

theorem testBit_bits (v lo len i : Nat) : (bits v lo len).testBit i = (decide (i < len) && v.testBit (lo + i)) := by
  rw [bits, Nat.testBit_mod_two_pow, Nat.testBit_div_two_pow, Nat.add_comm]

theorem bits_mod_two_pow (v n lo len : Nat) (h : lo + len ≤ n) : bits (v % 2 ^ n) lo len = bits v lo len := by
  apply Nat.eq_of_testBit_eq
  intro i
  simp only [testBit_bits, Nat.testBit_mod_two_pow]
  by_cases hi : i < len
  · simp [hi, show lo + i < n by omega]
  · simp [hi]

/-- A value is its low part, a field, and what lies above the field. -/
theorem eq_two_pow_mul_add_bits (v lo len : Nat) : v = 2 ^ lo * (2 ^ len * (v / 2 ^ lo / 2 ^ len) + bits v lo len) + v % 2 ^ lo := by
  rw [bits, Nat.div_add_mod, Nat.div_add_mod]

theorem setBits_eq (v : W64) (lo len x : Nat) :
    setBits v lo len x = BitVec.ofNat 64 (2 ^ lo * (2 ^ len * (v.toNat / 2 ^ lo / 2 ^ len) + x % 2 ^ len) + v.toNat % 2 ^ lo) := by
  have h := eq_two_pow_mul_add_bits v.toNat lo len
  unfold setBits
  congr 1
  generalize v.toNat / 2 ^ lo / 2 ^ len = a at *
  generalize bits v.toNat lo len = b at *
  generalize v.toNat % 2 ^ lo = c at *
  rw [h, Nat.mul_add, Nat.mul_add, Nat.mul_comm b, Nat.mul_comm (x % _)]
  omega

/-- Setting a field changes the bits of the field and no other. -/
theorem testBit_setBits (v : W64) (lo len x i : Nat) (hi : i < 64) :
    (setBits v lo len x).toNat.testBit i = if lo ≤ i ∧ i < lo + len then x.testBit (i - lo) else v.toNat.testBit i := by
  rw [setBits_eq, BitVec.toNat_ofNat, Nat.testBit_mod_two_pow, Nat.testBit_two_pow_mul_add _ (Nat.mod_lt _ (Nat.two_pow_pos _)),
    Nat.testBit_two_pow_mul_add _ (Nat.mod_lt _ (Nat.two_pow_pos _)), Nat.testBit_mod_two_pow, Nat.testBit_mod_two_pow,
    Nat.testBit_div_two_pow, Nat.testBit_div_two_pow]
  by_cases h1 : i < lo
  · simp [hi, h1, show ¬ lo ≤ i by omega]
  · by_cases h2 : i < lo + len
    · simp [hi, h1, h2, show lo ≤ i by omega, show i - lo < len by omega]
    · simp [hi, h1, h2, show ¬ i - lo < len by omega, show i - lo - len + len + lo = i by omega]

theorem bits_setBits_same (v : W64) (lo len x : Nat) (h : lo + len ≤ 64) : bits (setBits v lo len x).toNat lo len = x % 2 ^ len := by
  apply Nat.eq_of_testBit_eq
  intro i
  rw [testBit_bits, Nat.testBit_mod_two_pow]
  by_cases hi : i < len
  · simp [hi, testBit_setBits v lo len x (lo + i) (by omega)]
  · simp [hi]

theorem bits_setBits_disjoint (v : W64) (lo len x l n : Nat) (hd : l + n ≤ lo ∨ lo + len ≤ l) (hn : l + n ≤ 64) :
    bits (setBits v lo len x).toNat l n = bits v.toNat l n := by
  apply Nat.eq_of_testBit_eq
  intro i
  rw [testBit_bits, testBit_bits]
  by_cases hi : i < n
  · rw [testBit_setBits v lo len x (l + i) (by omega), if_neg (by omega)]
  · simp [hi]

/-- A field set to the bits it has leaves the value as it is. -/
theorem setBits_bits_self (v : W64) (lo len : Nat) : setBits v lo len (bits v.toNat lo len) = v := by
  rw [setBits_eq, Nat.mod_eq_of_lt (bits_lt ..), ← eq_two_pow_mul_add_bits, BitVec.ofNat_toNat, BitVec.setWidth_eq]

/-- A field of the whole register takes the value written. -/
theorem setBits_whole (v : W64) (x : Nat) : setBits v 0 64 (bits x 0 64) = BitVec.ofNat 64 x := by
  apply BitVec.eq_of_toNat_eq
  have h := bits_setBits_same v 0 64 (bits x 0 64) (Nat.le_refl _)
  rw [bits, Nat.pow_zero, Nat.div_one, Nat.mod_eq_of_lt (BitVec.isLt _), Nat.mod_eq_of_lt (bits_lt ..)] at h
  rw [h, bits, Nat.pow_zero, Nat.div_one, BitVec.toNat_ofNat]

theorem getField_setReg_same {s : State} (h : s.canonical) (off : Nat) (v : W64) (lo len : Nat) :
    (s.setReg off v).getField off lo len = bits v.toNat lo len := by
  rw [State.getField, reg_setReg_same s off v h.2]

theorem getField_setField_same {s : State} (h : s.canonical) (off lo len x : Nat) (h64 : lo + len ≤ 64) :
    (s.setField off lo len x).getField off lo len = x % 2 ^ len := by
  rw [State.setField, getField_setReg_same h, bits_setBits_same _ _ _ _ h64]

theorem getField_setField_disjoint {s : State} (h : s.canonical) (off lo len x l n : Nat) (hd : l + n ≤ lo ∨ lo + len ≤ l) (hn : l + n ≤ 64) :
    (s.setField off lo len x).getField off l n = s.getField off l n := by
  rw [State.setField, getField_setReg_same h, bits_setBits_disjoint _ _ _ _ _ _ hd hn, State.getField]

/-! ### Writing the fields of a register (R16) -/

/-- What a field that holds `old` holds after `x` is written to it: a writable field takes it, ones clear a status field, any other keeps its value. -/
def RField.takes (f : RField) (old x : Nat) : Nat :=
  match f.acc with
  | .rw | .rwl => x
  | .rw1c => old - (old &&& x)
  | _ => old

/-- A register's value with one field written from `val`. -/
def RField.written (val v : Nat) (f : RField) : Nat :=
  match f.acc with
  | .rw | .rwl => (setBits (BitVec.ofNat 64 v) f.lo f.len (bits val f.lo f.len)).toNat
  | .rw1c => (setBits (BitVec.ofNat 64 v) f.lo f.len (bits v f.lo f.len - (bits v f.lo f.len &&& bits val f.lo f.len))).toNat
  | _ => v

/-- A span of bits shares none with a field. -/
abbrev RField.misses (f : RField) (lo len : Nat) : Prop := lo + len ≤ f.lo ∨ f.lo + f.len ≤ lo

/-- The fields lie in the register and share no bit. -/
abbrev disjointFields (fs : List RField) : Prop := fs.Pairwise (fun f g => g.misses f.lo f.len) ∧ ∀ f ∈ fs, f.lo + f.len ≤ 64

theorem RField.takes_lt (f : RField) (old x : Nat) (ho : old < 2 ^ f.len) (hx : x < 2 ^ f.len) : f.takes old x < 2 ^ f.len := by
  unfold RField.takes
  split <;> omega

/-- Writing a field is setting it to what it takes. -/
theorem RField.written_eq (f : RField) (val : Nat) (v : W64) :
    RField.written val v.toNat f = (setBits v f.lo f.len (f.takes (bits v.toNat f.lo f.len) (bits val f.lo f.len))).toNat := by
  unfold RField.written RField.takes
  simp only [BitVec.ofNat_toNat, BitVec.setWidth_eq]
  split
  · rfl
  · rfl
  · rfl
  · rw [setBits_bits_self]

theorem exists_foldl_written (val : Nat) (fs : List RField) (v : W64) : ∃ w : W64, fs.foldl (RField.written val) v.toNat = w.toNat := by
  induction fs generalizing v with
  | nil => exact ⟨v, rfl⟩
  | cons f fs ih => rw [List.foldl_cons, RField.written_eq]; exact ih _

/-- Writing fields leaves the bits outside them alone. -/
theorem bits_foldl_written_misses (val : Nat) (fs : List RField) (lo len : Nat) (h64 : lo + len ≤ 64) (hf : ∀ f ∈ fs, f.misses lo len) (v : W64) :
    bits (fs.foldl (RField.written val) v.toNat) lo len = bits v.toNat lo len := by
  induction fs generalizing v with
  | nil => rfl
  | cons f fs ih =>
    rw [List.foldl_cons, RField.written_eq, ih (fun g hg => hf g (List.mem_cons_of_mem _ hg)),
      bits_setBits_disjoint _ _ _ _ _ _ (hf f List.mem_cons_self) h64]

/-- Each field written takes its bits of the value by its access code. -/
theorem bits_foldl_written_mem (val : Nat) (fs : List RField) (hd : disjointFields fs) (f : RField) (hf : f ∈ fs) (v : W64) :
    bits (fs.foldl (RField.written val) v.toNat) f.lo f.len = f.takes (bits v.toNat f.lo f.len) (bits val f.lo f.len) := by
  induction fs generalizing v with
  | nil => cases hf
  | cons g fs ih =>
    obtain ⟨hp, h64⟩ := hd
    obtain ⟨hg, hp⟩ := List.pairwise_cons.mp hp
    have h64' : ∀ f ∈ fs, f.lo + f.len ≤ 64 := fun f hf => h64 f (List.mem_cons_of_mem _ hf)
    rw [List.foldl_cons, RField.written_eq]
    rcases List.mem_cons.mp hf with rfl | hf
    · rw [bits_foldl_written_misses _ _ _ _ (h64 f List.mem_cons_self) hg,
        bits_setBits_same _ _ _ _ (h64 f List.mem_cons_self), Nat.mod_eq_of_lt (f.takes_lt _ _ (bits_lt ..) (bits_lt ..))]
    · rw [ih ⟨hp, h64'⟩ hf, bits_setBits_disjoint _ _ _ _ _ _ (hg f hf).symm (h64' f hf)]

end Sys2Proof.Machine
end

section
/-! SUPPORT. What a register write leaves alone: raising events, counting a violation, the injection and pool checks that follow a write. -/

namespace Sys2Proof.Machine

/-! ### Data and one register kept -/

/-- The module's data and the register at `o` are as they were. -/
def State.keepsReg (o : Nat) (s t : State) : Prop := s.keepsData t ∧ t.reg o = s.reg o

theorem keepsReg_refl (o : Nat) (s : State) : State.keepsReg o s s := ⟨⟨rfl, rfl, rfl, rfl, rfl⟩, rfl⟩

theorem keepsData_trans {s t u : State} (h : s.keepsData t) (k : t.keepsData u) : s.keepsData u := by
  obtain ⟨h1, h2, h3, h4, h5⟩ := h
  obtain ⟨k1, k2, k3, k4, k5⟩ := k
  exact ⟨k1.trans h1, k2.trans h2, k3.trans h3, k4.trans h4, k5.trans h5⟩

theorem keepsReg_trans {o : Nat} {s t u : State} (h : State.keepsReg o s t) (k : State.keepsReg o t u) : State.keepsReg o s u :=
  ⟨keepsData_trans h.1 k.1, k.2.trans h.2⟩

theorem keepsReg_foldl {o : Nat} {α : Type} (f : State → α → State) (hf : ∀ s a, State.keepsReg o s (f s a)) (l : List α) :
    ∀ s : State, State.keepsReg o s (l.foldl f s) := by
  induction l with
  | nil => exact keepsReg_refl o
  | cons a l ih => exact fun s => keepsReg_trans (hf s a) (ih _)

theorem getField_of_keepsReg {o : Nat} {s t : State} (h : State.keepsReg o s t) (lo len : Nat) : t.getField o lo len = s.getField o lo len := by
  rw [State.getField, h.2, State.getField]

theorem setReg_keepsData (s : State) (p : Nat) (v : W64) : s.keepsData (s.setReg p v) := ⟨rfl, rfl, rfl, rfl, rfl⟩

theorem setReg_keepsReg {o p : Nat} (h : o ≠ p) (s : State) (v : W64) : State.keepsReg o s (s.setReg p v) :=
  ⟨setReg_keepsData s p v, reg_setReg_ne s p o v h⟩

theorem setField_keepsReg {o p : Nat} (h : o ≠ p) (s : State) (lo len x : Nat) : State.keepsReg o s (s.setField p lo len x) :=
  setReg_keepsReg h s _

theorem setPort_keepsReg (o : Nat) (s : State) (p : Nat) (x : Port) : State.keepsReg o s (s.setPort p x) :=
  ⟨⟨rfl, rfl, rfl, rfl, rfl⟩, rfl⟩

theorem port_setPort_same (s : State) (p : Nat) (x : Port) : (s.setPort p x).port p = x := SMap.get_set_same ..

theorem port_setPort_ne (s : State) (p q : Nat) (x : Port) (h : q ≠ p) : (s.setPort p x).port q = s.port q := SMap.get_set_ne _ _ _ _ _ h

/-! ### Events (R467) -/

theorem hostWr_regs (s : State) (flow tc ten : Nat) (st : Bool) (who : Option ReadWho) (iova : Nat) (b : Bytes) :
    (s.hostWr flow tc ten st who iova b).regs = s.regs := by
  unfold State.hostWr
  split
  · rfl
  · exact foldl_same State.regs _ (fun s a => by rcases a with ⟨c, i⟩; rfl) _ s

theorem signal_regs (s : State) (flow : Nat) (v : Option Nat) : (s.signal flow v).regs = s.regs := by
  unfold State.signal
  repeat' split
  all_goals rfl

theorem toRing_reg (s : State) (key : Nat) (e : Ev) {o : Nat} (h : o ≠ rEVENT_LOST) : (s.toRing key e).reg o = s.reg o := by
  unfold State.toRing
  split
  · rfl
  · split
    · exact reg_setReg_ne _ _ _ _ h
    · rw [State.reg, signal_regs, hostWr_regs]; rfl

theorem toDevice_reg (s : State) (e : Ev) {o : Nat} (h : o ≠ rEVENT_LOST) : (s.toDevice e).reg o = s.reg o := by
  unfold State.toDevice
  split
  · exact toRing_reg _ _ _ h
  · split
    · rfl
    · exact reg_setReg_ne _ _ _ _ h

theorem toTenant_reg (s : State) (n : Nat) (e : Ev) {o : Nat} (h : o ≠ rEVENT_LOST) : (s.toTenant n e).reg o = s.reg o := by
  unfold State.toTenant
  dsimp only
  split
  · rw [toDevice_reg _ _ h, toRing_reg _ _ _ h]
  · exact toRing_reg _ _ _ h

/-- Raising an event changes no register but the count of lost events. -/
theorem raise_reg (s : State) (code handle : Nat) (ten : Option Nat) (det : List (Nat × Nat)) {o : Nat} (h : o ≠ rEVENT_LOST) :
    (s.raise code handle ten det).reg o = s.reg o := by
  unfold State.raise
  dsimp only
  split
  · rw [toDevice_reg _ _ h]; split <;> rfl
  · rw [toTenant_reg _ _ _ h, toDevice_reg _ _ h]; split <;> rfl

theorem raise_keepsReg {o : Nat} (h : o ≠ rEVENT_LOST) (s : State) (code handle : Nat) (ten : Option Nat) (det : List (Nat × Nat)) :
    State.keepsReg o s (s.raise code handle ten det) :=
  ⟨eventOnly_keepsData (raise_eventOnly ..), raise_reg _ _ _ _ _ h⟩

theorem eventOnly_ports {s t : State} (h : s.eventOnly t) : t.ports = s.ports := by rw [h]

theorem raise_port (s : State) (code handle : Nat) (ten : Option Nat) (det : List (Nat × Nat)) (p : Nat) :
    (s.raise code handle ten det).port p = s.port p := by
  rw [State.port, eventOnly_ports (raise_eventOnly ..), State.port]

/-! ### Checks that follow a write -/

theorem poolLimit_keepsReg {o : Nat} (h : o ≠ rEVENT_LOST) (s : State) : State.keepsReg o s s.poolLimit := by
  unfold State.poolLimit
  split
  · exact raise_keepsReg h ..
  · exact keepsReg_refl o s

theorem releaseHeld_keepsReg (o : Nat) (s : State) (p : Nat) : State.keepsReg o s (s.releaseHeld p) := by
  unfold State.releaseHeld
  dsimp only
  split
  · exact keepsReg_refl o s
  · exact ⟨⟨rfl, rfl, rfl, rfl, rfl⟩, rfl⟩

theorem injEvents_keepsReg {o : Nat} (h : o ≠ rEVENT_LOST) (s : State) : State.keepsReg o s s.injEvents := by
  refine keepsReg_foldl _ (fun s p => ?_) _ s
  dsimp only
  split
  · split
    · exact keepsReg_refl o s
    · exact keepsReg_trans (setPort_keepsReg ..) (raise_keepsReg h ..)
  · split
    · exact setPort_keepsReg ..
    · exact keepsReg_refl o s

/-- Noting which ports injection acts on leaves a port's count of flits since the last drop alone (R424). -/
theorem injEvents_dropCnt (s : State) (p : Nat) : (s.injEvents.port p).dropCnt = (s.port p).dropCnt := by
  have hset : ∀ (s : State) (q : Nat) (b : Bool), ((s.setPort q { s.port q with injRaised := b }).port p).dropCnt = (s.port p).dropCnt := by
    intro s q b
    by_cases hq : p = q
    · subst hq; rw [port_setPort_same]
    · rw [port_setPort_ne _ _ _ _ hq]
  refine foldl_same (fun s : State => (s.port p).dropCnt) _ (fun s q => ?_) _ s
  dsimp only
  split
  · split
    · rfl
    · rw [raise_port, hset]
  · split
    · exact hset s q false
    · rfl

/-! ### Violations (R616) -/

/-- Reporting a violation once, after it was counted, leaves every register alone but the count of lost events. -/
theorem reportOnce_keepsReg {o : Nat} (h : o ≠ rEVENT_LOST) (s : State) (r n ix : Nat) :
    State.keepsReg o s (if s.lockvSeen.contains r then s
      else ({ s with lockvSeen := r :: s.lockvSeen } : State).raise 0x7003 0 none [(1, n), (2, ix)]) := by
  split
  · exact keepsReg_refl o s
  · have hseen : State.keepsReg o s { s with lockvSeen := r :: s.lockvSeen } := ⟨⟨rfl, rfl, rfl, rfl, rfl⟩, rfl⟩
    exact keepsReg_trans hseen (raise_keepsReg h ..)

/-- A violation counts up and notes the register's index, then is reported; the report leaves other registers alone. -/
theorem lockViolation_counted {o off n base size : Nat} (hb : blockOf off = some (n, base, size)) (h : o ≠ rEVENT_LOST) (s : State) :
    State.keepsReg o ((s.setField (lockvOf base size) 0 48 (s.getField (lockvOf base size) 0 48 + 1)).setField (lockvOf base size) 48 16 ((off - base) / 8))
      (s.lockViolation off) := by
  unfold State.lockViolation
  rw [hb]
  exact reportOnce_keepsReg h _ _ _ _

/-- A violation leaves every register alone but its block's count and the count of lost events. -/
theorem lockViolation_keepsReg {o off n base size : Nat} (hb : blockOf off = some (n, base, size)) (ho : o ≠ lockvOf base size) (he : o ≠ rEVENT_LOST)
    (s : State) : State.keepsReg o s (s.lockViolation off) :=
  keepsReg_trans (keepsReg_trans (setField_keepsReg ho ..) (setField_keepsReg ho ..)) (lockViolation_counted hb he s)

/-- A violation is counted in its block's register. -/
theorem lockViolation_count {off n base size : Nat} (hb : blockOf off = some (n, base, size)) (he : lockvOf base size ≠ rEVENT_LOST)
    {s : State} (h : s.canonical) :
    (s.lockViolation off).getField (lockvOf base size) 0 48 = (s.getField (lockvOf base size) 0 48 + 1) % 2 ^ 48 := by
  rw [getField_of_keepsReg (lockViolation_counted hb he s), getField_setField_disjoint (canonical_setField h ..) _ _ _ _ _ _ (by omega) (by omega),
    getField_setField_same h _ _ _ _ (by omega)]

end Sys2Proof.Machine
end

section
/-! SUPPORT. A write of a whole register: which fields it reaches, what the new value is, and what carrying it out leaves (R16 to R18, R611, R615, R616). -/

namespace Sys2Proof.Machine

/-! ### Blocks and the rules that refuse a write -/

theorem blockIx_of_block {off n base size : Nat} (hb : blockOf off = some (n, base, size)) : blockIx off = n := by
  rw [blockIx, hb]

/-- Only the blocks HIF, TEN and TST refuse writes (R437, R614, R629). -/
theorem refuses_eq_false {off n base size : Nat} (hb : blockOf off = some (n, base, size)) (hn : n ≠ 2 ∧ n ≠ 3 ∧ n ≠ 11) (s : State) :
    s.refuses off = false := by
  obtain ⟨h2, h3, h11⟩ := hn
  simp [State.refuses, blockIx_of_block hb, h2, h3, h11]

/-- Block TST refuses a write exactly without a test grant (R629). -/
theorem refuses_tst {off base size : Nat} (hb : blockOf off = some (11, base, size)) (s : State) :
    s.refuses off = decide (s.getField rRAS_STATUS 9 1 = 0) := by
  simp [State.refuses, blockIx_of_block hb]

/-- Only the admin channel's setup is ignored (R435). -/
theorem ignores_eq_false {off : Nat} (h : off < 0x20008 ∨ 0x20020 < off) (s : State) : s.ignores off = false := by
  have : ¬ (0x20008 ≤ off ∧ off ≤ 0x20020) := by omega
  simp [State.ignores, this]

/-! ### The new value -/

/-- The fields of a register that a write can reach. -/
def writable (fs : List RField) : List RField := fs.filter (fun f => f.acc != .ro)

/-- Those that a write reaches now: a set LOCK keeps the lockable ones (R615). -/
def State.reached (s : State) (off : Nat) (fs : List RField) : List RField := (writable fs).filter (fun f => !(s.locked off) || f.acc != .rwl)

/-- A refused write counts as a violation and does nothing else (R616). -/
theorem regApply_refused {s : State} {off : Nat} {fs : List RField} (hw : writable fs ≠ []) (hr : s.refuses off = true) (val : Nat) :
    s.regApply off val fs = s.lockViolation off := by
  have hw' : ¬ (writable fs).isEmpty = true := by simpa using hw
  exact (if_neg hw').trans (if_pos hr)

/-- An allowed write gives each field it reaches what the field takes, and counts a violation where a lock kept one (R16, R615). -/
theorem regApply_allowed {s : State} {off : Nat} {fs : List RField} (hw : writable fs ≠ []) (hr : s.refuses off = false) (hi : s.ignores off = false)
    (val : Nat) :
    s.regApply off val fs =
      let t := s.regEffect off (clampReg off ((s.reached off fs).foldl (RField.written val) (s.reg off).toNat)) val (s.reached off fs)
      if s.locked off && (writable fs).any (fun f => f.acc == .rwl) then t.lockViolation off else t := by
  have hw' : ¬ (writable fs).isEmpty = true := by simpa using hw
  have hr' : ¬ s.refuses off = true := by simp [hr]
  have hi' : ¬ s.ignores off = true := by simp [hi]
  exact (if_neg hw').trans ((if_neg hr').trans (if_neg hi'))

/-- Where none of its fields can be locked, an allowed write reaches all it can, and nothing is counted. -/
theorem regApply_unlockable {s : State} {off : Nat} {fs : List RField} (hw : writable fs ≠ []) (hr : s.refuses off = false) (hi : s.ignores off = false)
    (hl : ∀ f ∈ writable fs, f.acc ≠ .rwl) (val : Nat) :
    s.regApply off val fs = s.regEffect off (clampReg off ((writable fs).foldl (RField.written val) (s.reg off).toNat)) val (writable fs) := by
  have hreached : s.reached off fs = writable fs := List.filter_eq_self.mpr (fun f hf => by simp [hl f hf])
  have hany : (writable fs).any (fun f => f.acc == .rwl) = false := List.any_eq_false.mpr (fun f hf => by simp [hl f hf])
  rw [regApply_allowed hw hr hi, hreached, hany, Bool.and_false]
  exact if_neg Bool.false_ne_true

theorem clampReg_eq {off : Nat} (h : off ≠ rPWR_CTRL ∧ off ≠ 0xA0000) (v : Nat) : clampReg off v = v := by
  rw [clampReg, if_neg h.1, if_neg h.2]

/-- Bringing values into range leaves bit 0, where LOCK stands, alone. -/
theorem clampReg_lockBit (off : Nat) (v : W64) : ∃ w : W64, clampReg off v.toNat = w.toNat ∧ bits w.toNat 0 1 = bits v.toNat 0 1 := by
  unfold clampReg
  split
  · refine ⟨_, rfl, ?_⟩
    simp only [BitVec.ofNat_toNat, BitVec.setWidth_eq]
    rw [bits_setBits_disjoint _ _ _ _ _ _ (by omega) (by omega), bits_setBits_disjoint _ _ _ _ _ _ (by omega) (by omega),
      bits_setBits_disjoint _ _ _ _ _ _ (by omega) (by omega), bits_setBits_disjoint _ _ _ _ _ _ (by omega) (by omega)]
  · split
    · refine ⟨_, rfl, ?_⟩
      rw [BitVec.ofNat_toNat, BitVec.setWidth_eq, bits_setBits_disjoint _ _ _ _ _ _ (by omega) (by omega)]
    · exact ⟨v, rfl, rfl⟩

/-! ### Carrying a write out -/

/-- A register whose write stores the value and hands no field to another unit's rules: not an enable of a channel, tenant, port or by-pass, a clock
request, or the Pavane control. -/
abbrev takesValue (off : Nat) : Prop :=
  off ≠ 0x20000 ∧ ¬ (0x31000 ≤ off ∧ off < 0x39000 ∧ (off - 0x31000) % 0x200 = 0) ∧ off ≠ 0x60010 ∧ off ≠ 0x60020 ∧
  ¬ (0x61000 ≤ off ∧ off < 0x62000 ∧ off % 0x100 = 0) ∧ ¬ (0x10100 ≤ off ∧ off < 0x10140) ∧ off ≠ rEVENT_LOST

theorem takesValue.ne_eventLost {off : Nat} (h : takesValue off) : off ≠ rEVENT_LOST := by
  obtain ⟨-, -, -, -, -, -, hev⟩ := h
  exact hev

theorem tenWindow_within {off t w : Nat} (h : tenWindow off = some (t, w)) : 0x31000 ≤ off ∧ off < 0x39000 ∧ (off - 0x31000) % 0x200 = w := by
  unfold tenWindow at h
  split at h
  · next hin => injection h with h; injection h with _ hw; exact ⟨hin.1, hin.2, hw⟩
  · cases h

/-- The register holds the new value; what follows a write leaves it and the module's data alone. -/
theorem regEffect_keepsReg {off : Nat} (h : takesValue off) {fs : List RField} (hfs : fs ≠ []) (s : State) (new val : Nat) :
    State.keepsReg off (s.setReg off (BitVec.ofNat 64 new)) (s.regEffect off new val fs) := by
  obtain ⟨hadm, hten, hbyp, hpav, hport, hclk, hev⟩ := h
  have hput := keepsReg_refl off (s.setReg off (BitVec.ofNat 64 new))
  have hne : ¬ fs.isEmpty = true := by simpa using hfs
  unfold State.regEffect
  dsimp only
  rw [if_neg hne, if_neg hadm, if_neg, if_neg hbyp, if_neg hpav, if_neg hport, if_neg hclk]
  · split
    · split
      · exact poolLimit_keepsReg hev _
      · exact hput
    split
    · exact keepsReg_trans (injEvents_keepsReg hev _) (keepsReg_foldl _ (fun s p => releaseHeld_keepsReg off s p) _ _)
    split
    · refine keepsReg_trans ?_ (injEvents_keepsReg hev _)
      split
      · exact setPort_keepsReg ..
      · split
        · exact setPort_keepsReg ..
        · exact hput
    · exact hput
  · split
    · next hw => have := tenWindow_within hw; rw [beq_iff_eq]; omega
    · simp

/-- N of a port's drop injection starts its count anew (R424). -/
theorem regEffect_dropCnt (p : PortId) {fs : List RField} (hfs : fs.any (fun f => f.lo == 0) = true) (s : State) (new val : Nat) :
    ((s.regEffect (injOff p 0) new val fs).port p).dropCnt = 0 := by
  have hne : ¬ fs.isEmpty = true := by rintro he; rw [List.isEmpty_iff.mp he] at hfs; cases hfs
  have hp := p.isLt
  have hoff : injOff p 0 = 0xE0100 + 0x20 * p := rfl
  generalize injOff p 0 = off at hoff
  have hport : (off - 0xE0100) / 0x20 = p := by omega
  unfold State.regEffect
  dsimp only
  rw [if_neg hne, if_neg (by omega), if_neg, if_neg (by omega), if_neg (by omega), if_neg (by omega), if_neg (by omega), if_neg (by omega),
    if_neg (by omega), if_pos (by omega), if_pos ⟨by omega, hfs⟩, hport, injEvents_dropCnt, port_setPort_same]
  split
  · next hw => have := tenWindow_within hw; omega
  · simp

/-! ### Whole registers -/

/-- The state in which an access of a requester to a register is carried out: no upper half of the block is latched for reading, and these lower halves
wait for writing (R611). -/
def State.withHalves (s : State) (req off : Nat) (halves : SMap Nat) : State := { s.unlatch req off with halfWr := halves }

/-- The state in which a write of a whole register is carried out: a lower half that waited there is dropped. -/
def State.accessed (s : State) (req off : Nat) : State := s.withHalves req off (SMap.erase s.halfWr (2 ^ 24 * req + off))

theorem withHalves_keepsReg (o : Nat) (s : State) (req off : Nat) (halves : SMap Nat) : State.keepsReg o s (s.withHalves req off halves) :=
  ⟨⟨rfl, rfl, rfl, rfl, rfl⟩, rfl⟩

theorem canonical_accessed {s : State} (h : s.canonical) (req off : Nat) : (s.accessed req off).canonical := canonical_same h rfl rfl

/-- An 8-byte write that BAR0 takes is carried out on all fields (R431, R611). -/
theorem access_whole {s : State} (hb : s.barUp = true) {off : Nat} (ha : off % 8 = 0) (hr : off + 8 ≤ 2 ^ 24) (req val : Nat) :
    s.access req off 8 val = .next ((s.accessed req off).regApply off (val % 2 ^ 64) (regFields off)) := by
  have hok : barOk off 8 = true := by simp [barOk, ha]; omega
  have ho : off / 8 * 8 = off := by omega
  simp only [State.access, hb, hok, Bool.not_true, Bool.false_eq_true, if_false, State.regWrite, if_true, ho]
  rfl

/-- A write of a lower half waits for its upper half, and is carried out on the fields that lie in it (R611). -/
theorem access_lower {s : State} (hb : s.barUp = true) {off : Nat} (ha : off % 8 = 0) (hr : off + 8 ≤ 2 ^ 24) (req val : Nat) :
    s.access req off 4 val = .next ((s.withHalves req off (SMap.set s.halfWr (2 ^ 24 * req + off) (val % 2 ^ 32))).regApply off (val % 2 ^ 32)
      ((regFields off).filter (fun f => decide (f.lo + f.len ≤ 32)))) := by
  have hok : barOk off 4 = true := by simp [barOk]; omega
  have ho : off / 8 * 8 = off := by omega
  simp only [State.access, hb, hok, Bool.not_true, Bool.false_eq_true, if_false, State.regWrite, ha, ho, if_true, show ¬ (4 = 8) by decide]
  rfl

/-- A write of an upper half is carried out with the lower half that waits for it on the fields that reach into it (R611). -/
theorem access_upper {s : State} (hb : s.barUp = true) {off : Nat} (ha : off % 8 = 0) (hr : off + 8 ≤ 2 ^ 24) (req val low : Nat)
    (hlow : SMap.find? s.halfWr (2 ^ 24 * req + off) = some low) :
    s.access req (off + 4) 4 val = .next ((s.withHalves req (off + 4) (SMap.erase s.halfWr (2 ^ 24 * req + off))).regApply off
      (low + 2 ^ 32 * (val % 2 ^ 32)) ((regFields off).filter (fun f => decide (32 < f.lo + f.len)))) := by
  have hok : barOk (off + 4) 4 = true := by simp [barOk]; omega
  have ho : (off + 4) / 8 * 8 = off := by omega
  have hup : ¬ (off + 4) % 8 = 0 := by omega
  have hget : ∀ d, SMap.get (s.unlatch req (off + 4)).halfWr (2 ^ 24 * req + off) d = low := fun d => by
    rw [SMap.get, show (s.unlatch req (off + 4)).halfWr = s.halfWr from rfl, hlow, Option.getD_some]
  simp only [State.access, hb, hok, Bool.not_true, Bool.false_eq_true, if_false, State.regWrite, ho, hup, hget, show ¬ (4 = 8) by decide]
  rfl

/-- A write of the register at `off` reaches exactly the fields `fs`, and nothing but storing them and the checks after it follows. -/
structure State.accepts (s : State) (off : Nat) (fs : List RField) : Prop where
  aligned : off % 8 = 0
  inBar : off + 8 ≤ 2 ^ 24
  fields : writable (regFields off) = fs
  nonempty : fs ≠ []
  disjoint : disjointFields fs
  unlockable : ∀ f ∈ fs, f.acc ≠ .rwl
  allowed : s.refuses off = false
  heeded : s.ignores off = false
  takes : takesValue off
  unclamped : off ≠ rPWR_CTRL ∧ off ≠ 0xA0000

theorem access_accepts {s : State} (hb : s.barUp = true) {off : Nat} {fs : List RField} (h : s.accepts off fs) (req val : Nat) :
    s.access req off 8 val =
      .next ((s.accessed req off).regEffect off (fs.foldl (RField.written (val % 2 ^ 64)) (s.reg off).toNat) (val % 2 ^ 64) fs) := by
  rw [access_whole hb h.aligned h.inBar, regApply_unlockable (s := s.accessed req off) (by rw [h.fields]; exact h.nonempty) h.allowed h.heeded
    (by rw [h.fields]; exact h.unlockable), h.fields, clampReg_eq h.unclamped]
  rfl

/-- What an accepted write does (R16): each field takes its bits by its access code, the register's other bits and the module's data stay. -/
theorem access_takes {s : State} (hb : s.barUp = true) (hc : s.canonical) {off : Nat} {fs : List RField} (h : s.accepts off fs) (req val : Nat) :
    ∃ t, s.access req off 8 val = .next t ∧ s.keepsData t ∧
      (∀ f ∈ fs, t.getField off f.lo f.len = f.takes (s.getField off f.lo f.len) (bits val f.lo f.len)) ∧
      (∀ lo len, lo + len ≤ 64 → (∀ f ∈ fs, f.misses lo len) → t.getField off lo len = s.getField off lo len) := by
  obtain ⟨w, hw⟩ := exists_foldl_written (val % 2 ^ 64) fs (s.reg off)
  have hstep := access_accepts hb h req val
  have hkeep := regEffect_keepsReg h.takes h.nonempty (s.accessed req off) w.toNat (val % 2 ^ 64)
  rw [hw] at hstep
  generalize (s.accessed req off).regEffect off w.toNat (val % 2 ^ 64) fs = t at hstep hkeep
  have hget : ∀ lo len, t.getField off lo len = bits (fs.foldl (RField.written (val % 2 ^ 64)) (s.reg off).toNat) lo len := by
    intro lo len
    rw [getField_of_keepsReg hkeep, getField_setReg_same (canonical_accessed hc req off), hw, BitVec.ofNat_toNat, BitVec.setWidth_eq]
  have hdata : s.keepsData t := keepsData_trans (withHalves_keepsReg off s req off _).1 (keepsData_trans (setReg_keepsData _ _ _) hkeep.1)
  refine ⟨t, hstep, hdata, fun f hf => ?_, fun lo len h64 hm => ?_⟩
  · rw [hget, bits_foldl_written_mem _ _ h.disjoint f hf, bits_mod_two_pow _ _ _ _ (h.disjoint.2 f hf), State.getField]
  · rw [hget, bits_foldl_written_misses _ _ _ _ h64 hm, State.getField]

/-- A refused write changes neither the register nor the module's data, and is counted in its block's register (R616). -/
theorem access_refused {s : State} (hb : s.barUp = true) (hc : s.canonical) {off n base size : Nat} (hblock : blockOf off = some (n, base, size))
    (ha : off % 8 = 0) (hr : off + 8 ≤ 2 ^ 24) (hw : writable (regFields off) ≠ []) (href : s.refuses off = true)
    (ho : off ≠ lockvOf base size ∧ off ≠ rEVENT_LOST) (hl : lockvOf base size ≠ rEVENT_LOST) (req val : Nat) :
    ∃ t, s.access req off 8 val = .next t ∧ State.keepsReg off s t ∧
      t.getField (lockvOf base size) 0 48 = (s.getField (lockvOf base size) 0 48 + 1) % 2 ^ 48 := by
  have hkeep : ∀ o, State.keepsReg o s (s.accessed req off) := fun o => withHalves_keepsReg o s req off _
  have hstep : s.access req off 8 val = .next ((s.accessed req off).lockViolation off) := by
    rw [access_whole hb ha hr, regApply_refused hw (by exact href)]
  refine ⟨_, hstep, keepsReg_trans (hkeep off) (lockViolation_keepsReg hblock ho.1 ho.2 _), ?_⟩
  rw [lockViolation_count hblock hl (canonical_accessed hc req off), getField_of_keepsReg (hkeep _)]

end Sys2Proof.Machine
end

section
/-! SUPPORT. Obligation O47: register writes by access code, locks, refused writes, and the writes of clocks, freezes and fault injection. -/

namespace Sys2Proof.Machine

/-! ### LOCK (R615) -/

theorem bits_or_one (v : Nat) : bits (v ||| 1) 0 1 = 1 := by
  rw [bits, Nat.pow_one, ← Nat.toNat_testBit, Nat.testBit_or]
  simp

/-- The value a write of LOCK's register brings has LOCK set, whether LOCK was clear and took the 1 or was set and kept it. -/
theorem reached_lockBit {s : State} {off : Nat} {fs rest : List RField} (hw : writable fs = rwl 0 1 :: rest) (hd : disjointFields (rwl 0 1 :: rest))
    (hl : s.locked off = true → s.getField off 0 1 = 1) (val : Nat) (hval : bits val 0 1 = 1) :
    bits ((s.reached off fs).foldl (RField.written val) (s.reg off).toNat) 0 1 = 1 := by
  rw [State.reached, hw]
  cases hs : s.locked off with
  | false =>
    rw [List.filter_eq_self.mpr (fun f _ => by simp)]
    exact (bits_foldl_written_mem val _ hd (rwl 0 1) List.mem_cons_self (s.reg off)).trans hval
  | true =>
    have hmiss : ∀ f ∈ (rwl 0 1 :: rest).filter (fun f => !true || f.acc != .rwl), f.misses 0 1 := by
      intro f hf
      obtain ⟨hf, hacc⟩ := List.mem_filter.mp hf
      rcases List.mem_cons.mp hf with rfl | hf
      · cases hacc
      · exact (List.pairwise_cons.mp hd.1).1 f hf
    rw [bits_foldl_written_misses val _ 0 1 (by omega) hmiss]
    exact hl hs

/-- A write of 1 to LOCK of a block sets it, and leaves the module's data alone. -/
theorem regApply_lock {s : State} (hc : s.canonical) {off n base size : Nat} (hb : blockOf off = some (n, base, size)) {fs rest : List RField}
    (hw : writable fs = rwl 0 1 :: rest) (hd : disjointFields (rwl 0 1 :: rest)) (hl : s.locked off = true → s.getField off 0 1 = 1)
    (hr : s.refuses off = false) (hi : s.ignores off = false) (ht : takesValue off) (hv : off ≠ lockvOf base size) (val : Nat) (hval : bits val 0 1 = 1) :
    (s.regApply off val fs).getField off 0 1 = 1 ∧ s.keepsData (s.regApply off val fs) := by
  have hbit := reached_lockBit hw hd hl val hval
  obtain ⟨w, hfold⟩ := exists_foldl_written val (s.reached off fs) (s.reg off)
  obtain ⟨w', hclamp, hbit'⟩ := clampReg_lockBit off w
  rw [hfold] at hbit
  have heff : ∀ gs, s.reached off fs = gs → (s.regEffect off w'.toNat val gs).getField off 0 1 = 1 ∧ s.keepsData (s.regEffect off w'.toNat val gs) := by
    intro gs hgs
    cases gs with
    | nil =>
      rw [hgs] at hfold
      have hsame : s.regEffect off w'.toNat val [] = s := rfl
      rw [hsame, State.getField]
      have hreg : (s.reg off).toNat = w.toNat := hfold
      exact ⟨by rw [hreg, hbit], (keepsReg_refl off s).1⟩
    | cons g gs =>
      have hkeep := regEffect_keepsReg ht (List.cons_ne_nil g gs) s w'.toNat val
      refine ⟨?_, hkeep.1⟩
      rw [getField_of_keepsReg hkeep, getField_setReg_same hc, BitVec.ofNat_toNat, BitVec.setWidth_eq, hbit', hbit]
  obtain ⟨hget, hdata⟩ := heff _ rfl
  rw [regApply_allowed (by rw [hw]; exact List.cons_ne_nil _ _) hr hi, hfold, hclamp]
  dsimp only
  split
  · have hkeep := lockViolation_keepsReg hb hv ht.ne_eventLost (s.regEffect off w'.toNat val (s.reached off fs))
    exact ⟨(getField_of_keepsReg hkeep 0 1).trans hget, keepsData_trans hdata hkeep.1⟩
  · exact ⟨hget, hdata⟩

/-- The registers that hold LOCK of their block, each at the block's base. -/
def lockRegs : List Nat := [bPWR, bFAB, bQDR, bSRV, bRAS]

/-- A block is locked only while LOCK stands in the register at its base. -/
theorem lockBit_of_locked {off : Nat} (h : off ∈ lockRegs) (s : State) (hl : s.locked off = true) : s.getField off 0 1 = 1 := by
  have hpwr : blockIx bPWR = 1 := rfl
  have hfab : blockIx bFAB = 5 := rfl
  have hqdr : blockIx bQDR = 7 := rfl
  have hsrv : blockIx bSRV = 8 := rfl
  have hras : blockIx bRAS = 9 := rfl
  simp only [lockRegs, List.mem_cons, List.not_mem_nil, or_false] at h
  rcases h with rfl | rfl | rfl | rfl | rfl <;> simpa [State.locked, hpwr, hfab, hqdr, hsrv, hras] using hl

/-- A write of such a register with LOCK set locks its block. -/
theorem access_lock {s : State} (hbar : s.barUp = true) (hc : s.canonical) {off n base size : Nat} (hoff : off ∈ lockRegs)
    (hb : blockOf off = some (n, base, size)) {rest : List RField} (hw : writable (regFields off) = rwl 0 1 :: rest) (hd : disjointFields (rwl 0 1 :: rest))
    (hn : n ≠ 2 ∧ n ≠ 3 ∧ n ≠ 11) (hv : off ≠ lockvOf base size) (req : Nat) :
    ∃ t, s.access req off 8 ((s.reg off).toNat ||| 1) = .next t ∧ t.getField off 0 1 = 1 ∧ s.keepsData t := by
  have hregs : ∀ o ∈ lockRegs, o % 8 = 0 ∧ o + 8 ≤ 2 ^ 24 ∧ (o < 0x20008 ∨ 0x20020 < o) ∧ takesValue o := by decide
  obtain ⟨ha, hin, hi, ht⟩ := hregs off hoff
  have hval : bits (((s.reg off).toNat ||| 1) % 2 ^ 64) 0 1 = 1 := by rw [bits_mod_two_pow _ _ _ _ (by omega), bits_or_one]
  exact ⟨_, access_whole hbar ha hin req _, regApply_lock (s := s.accessed req off) hc hb hw hd (lockBit_of_locked hoff _) (refuses_eq_false hb hn _)
    (ignores_eq_false hi _) ht hv _ hval⟩

theorem lockSet_locks {s : State} (hbar : s.barUp = true) (hc : s.canonical) (req : Fin 3) (block : Fin 5) :
    let off := [0x10000, 0x60000, 0xA0000, 0xB0000, 0xC0000].getD block 0
    ∃ t, exec (.lockSet req block) s = .next t ∧ t.getField off 0 1 = 1 ∧ s.keepsData t :=
  match block with
  | 0 => access_lock (off := bPWR) hbar hc (by decide) rfl rfl (by decide) (by decide) (by decide) req
  | 1 => access_lock (off := bFAB) hbar hc (by decide) rfl rfl (by decide) (by decide) (by decide) req
  | 2 => access_lock (off := bQDR) hbar hc (by decide) rfl rfl (by decide) (by decide) (by decide) req
  | 3 => access_lock (off := bSRV) hbar hc (by decide) rfl rfl (by decide) (by decide) (by decide) req
  | 4 => access_lock (off := bRAS) hbar hc (by decide) rfl rfl (by decide) (by decide) (by decide) req

/-! ### The registers of a tenant, an engine, a quadrant and a port (R575, R620, R623, R628) -/

theorem blockOf_pwr {off : Nat} (h : 0x10000 ≤ off ∧ off < 0x20000) : blockOf off = some (1, bPWR, 0x10000) := by
  rw [blockOf, if_neg (by omega), if_pos (by omega)]

theorem blockOf_ten {off : Nat} (h : 0x30000 ≤ off ∧ off < 0x40000) : blockOf off = some (3, bTEN, 0x10000) := by
  rw [blockOf, if_neg (by omega), if_neg (by omega), if_neg (by omega), if_pos (by omega)]

theorem blockOf_eng {off : Nat} (h : 0x80000 ≤ off ∧ off < 0xA0000) : blockOf off = some (6, bENG, 0x20000) := by
  rw [blockOf, if_neg (by omega), if_neg (by omega), if_neg (by omega), if_neg (by omega), if_neg (by omega), if_neg (by omega), if_pos (by omega)]

theorem blockOf_tst {off : Nat} (h : 0xE0000 ≤ off ∧ off < 0x100000) : blockOf off = some (11, bTST, 0x20000) := by
  rw [blockOf, if_neg (by omega), if_neg (by omega), if_neg (by omega), if_neg (by omega), if_neg (by omega), if_neg (by omega), if_neg (by omega),
    if_neg (by omega), if_neg (by omega), if_neg (by omega), if_neg (by omega), if_pos (by omega)]

theorem regFields_pwr {off : Nat} (h : 0x10000 ≤ off ∧ off < 0x1FFF8) : regFields off = pwrFields (off - 0x10000) := by
  have hv : off ≠ 0x1FFF8 := by omega
  simp [regFields, blockOf_pwr (off := off) ⟨h.1, by omega⟩, lockvOf, bPWR, hv]

theorem regFields_ten {off : Nat} (h : 0x30000 ≤ off ∧ off < 0x3FFF8) : regFields off = tenFields (off - 0x30000) := by
  have hv : off ≠ 0x3FFF8 := by omega
  simp [regFields, blockOf_ten (off := off) ⟨h.1, by omega⟩, lockvOf, bTEN, hv]

theorem regFields_eng {off : Nat} (h : 0x80000 ≤ off ∧ off < 0x9FFF8) : regFields off = engFields (off - 0x80000) := by
  have hv : off ≠ 0x9FFF8 := by omega
  simp [regFields, blockOf_eng (off := off) ⟨h.1, by omega⟩, lockvOf, bENG, hv]

theorem regFields_tst {off : Nat} (h : 0xE0000 ≤ off ∧ off < 0xFFFF8) : regFields off = tstFields (off - 0xE0000) := by
  have hv : off ≠ 0xFFFF8 := by omega
  simp [regFields, blockOf_tst (off := off) ⟨h.1, by omega⟩, lockvOf, bTST, hv]

theorem regFields_qclk (q : QuadId) : regFields (qclkOff q) = [rw 0 8 100, ro 8 16, ro 24 8 200, ro 32 3 4, ro 35 1, rw1c 36 1, ro 37 8] := by
  have hq := q.isLt
  have hoff : qclkOff q = 0x10100 + 8 * q := rfl
  rw [regFields_pwr (by omega), pwrFields, if_neg (by omega), if_neg (by omega), if_neg (by omega), if_neg (by omega), if_neg (by omega),
    if_neg (by omega), if_pos (by omega)]

theorem regFields_window (n : Fin 64) (w : Fin 16) : regFields (tenOff n (0x100 + 16 * w)) = [rw 12 52] := by
  have hn := n.isLt
  have hw := w.isLt
  have hoff : tenOff n (0x100 + 16 * w) = 0x31000 + 0x200 * n + (0x100 + 16 * w) := rfl
  rw [regFields_ten (by omega), tenFields, if_pos (by omega), if_neg (by omega), if_neg (by omega), if_pos (by omega), if_pos (by omega)]

theorem regFields_storeCtrl (e : EngId) : regFields (engOff e oSTORE_CTRL) = [ro 0 16, rw 16 8 0x40, rw 24 1 1, ro 25 1, rw1c 26 1] := by
  have he := e.isLt
  have hoff : engOff e oSTORE_CTRL = 0x81000 + 0x200 * e + 0x180 := rfl
  rw [regFields_eng (by omega), engFields, if_neg (by omega), if_neg (by omega), if_pos (by omega)]
  dsimp only
  rw [if_neg (by omega), if_neg (by omega), if_neg (by omega), if_neg (by omega), if_pos (by omega)]

/-- The fields of the three injection registers of a port (R424, R628). -/
theorem regFields_inj (p : PortId) :
    regFields (injOff p 0) = [rw 0 24] ∧ regFields (injOff p 8) = [rw 0 24, rw 24 8, rw 32 8] ∧ regFields (injOff p 0x10) = [rw 0 6] := by
  have hp := p.isLt
  have hoff : ∀ w, injOff p w = 0xE0100 + 0x20 * p + w := fun _ => rfl
  refine ⟨?_, ?_, ?_⟩
  · rw [hoff, regFields_tst (by omega), tstFields, if_neg (by omega), if_pos (by omega), if_pos (by omega)]
  · rw [hoff, regFields_tst (by omega), tstFields, if_neg (by omega), if_pos (by omega), if_neg (by omega), if_pos (by omega)]
  · rw [hoff, regFields_tst (by omega), tstFields, if_neg (by omega), if_pos (by omega), if_neg (by omega), if_neg (by omega), if_pos (by omega)]

/-! ### Scratch and half writes (R611) -/

theorem regApply_scratch (s : State) (val : Nat) : s.regApply 0x40 val [rw 0 64] = s.setReg 0x40 (BitVec.ofNat 64 val) := by
  have hblock : blockOf 0x40 = some (0, 0, 0x10000) := rfl
  have hfields : writable [rw 0 64] = [rw 0 64] := rfl
  have hnew : [rw 0 64].foldl (RField.written val) (s.reg 0x40).toNat = (BitVec.ofNat 64 val).toNat := by
    rw [← setBits_whole (s.reg 0x40) val]
    exact RField.written_eq (rw 0 64) val (s.reg 0x40)
  have heffect : ∀ new, s.regEffect 0x40 new val [rw 0 64] = s.setReg 0x40 (BitVec.ofNat 64 new) := fun _ => rfl
  rw [regApply_unlockable (by decide) (refuses_eq_false hblock (by decide) s) (ignores_eq_false (by decide) s) (by decide), hfields, hnew,
    clampReg_eq (by decide), heffect, BitVec.ofNat_toNat, BitVec.setWidth_eq]

theorem scratch_whole {s : State} (hb : s.barUp = true) (hc : s.canonical) (req val : Nat) :
    ∃ t, s.access req 0x40 8 val = .next t ∧ (t.reg 0x40).toNat = val % 2 ^ 64 ∧ s.keepsData t ∧ t.eng = s.eng ∧ t.chans = s.chans := by
  have hstored := regApply_scratch (s.accessed req 0x40) (val % 2 ^ 64)
  have hstep := access_whole hb (off := 0x40) rfl (by decide) req val
  rw [show regFields 0x40 = [rw 0 64] from rfl, hstored] at hstep
  refine ⟨_, hstep, ?_, keepsData_trans (withHalves_keepsReg 0 s req 0x40 _).1 (setReg_keepsData _ _ _), ?_, ?_⟩
  · rw [reg_setReg_same (s.accessed req 0x40) _ _ hc.2, BitVec.toNat_ofNat, Nat.mod_mod]
  · rw [setReg_eng]; rfl
  · rw [setReg_chans]; rfl

/-- Its lower half alone changes nothing, for one field fills the register. -/
theorem scratch_lower {s : State} (hb : s.barUp = true) (req val : Nat) :
    ∃ t, s.access req 0x40 4 val = .next t ∧ t.reg 0x40 = s.reg 0x40 ∧ SMap.find? t.halfWr (2 ^ 24 * req + 0x40) = some (val % 2 ^ 32) :=
  ⟨s.withHalves req 0x40 (SMap.set s.halfWr (2 ^ 24 * req + 0x40) (val % 2 ^ 32)), access_lower hb rfl (by decide) req val, rfl, SMap.find?_set_same ..⟩

/-- Its upper half brings the lower half that waited with it. -/
theorem scratch_upper {s : State} (hb : s.barUp = true) (hc : s.canonical) (req val low : Nat)
    (hlow : SMap.find? s.halfWr (2 ^ 24 * req + 0x40) = some low) (hlt : low < 2 ^ 32) :
    ∃ t, s.access req 0x44 4 val = .next t ∧ (t.reg 0x40).toNat = low + 2 ^ 32 * (val % 2 ^ 32) := by
  have hstored := regApply_scratch (s.withHalves req 0x44 (SMap.erase s.halfWr (2 ^ 24 * req + 0x40))) (low + 2 ^ 32 * (val % 2 ^ 32))
  refine ⟨_, (access_upper hb (off := 0x40) rfl (by decide) req val low hlow).trans (congrArg _ hstored), ?_⟩
  rw [reg_setReg_same (s.withHalves req 0x44 _) _ _ hc.2, BitVec.toNat_ofNat, Nat.mod_eq_of_lt (by omega)]

/-! ### Tenant windows (R437, R616) -/

theorem tenWindow_window (n : Fin 64) (w : Fin 16) : tenWindow (tenOff n (0x100 + 16 * w)) = some (n.val, 0x100 + 16 * w.val) := by
  have hn := n.isLt
  have hw := w.isLt
  have hoff : tenOff n (0x100 + 16 * w) = 0x31000 + 0x200 * n + (0x100 + 16 * w) := rfl
  rw [tenWindow, if_pos (by omega), show (tenOff n (0x100 + 16 * w) - 0x31000) / 0x200 = n by omega,
    show (tenOff n (0x100 + 16 * w) - 0x31000) % 0x200 = 0x100 + 16 * w by omega]

/-- A window of a tenant refuses writes exactly while the tenant is enabled. -/
theorem refuses_window {s : State} (hm : s.subMember = false) (n : Fin 64) (w : Fin 16) :
    s.refuses (tenOff n (0x100 + 16 * w)) = s.tenantEnabled n := by
  have hn := n.isLt
  have hw := w.isLt
  have hoff : tenOff n (0x100 + 16 * w) = 0x31000 + 0x200 * n + (0x100 + 16 * w) := rfl
  have hix := blockIx_of_block (blockOf_ten (off := tenOff n (0x100 + 16 * w)) (by omega))
  simp [State.refuses, hix, tenWindow_window, hm]

theorem window_accepts {s : State} (hm : s.subMember = false) (n : Fin 64) (w : Fin 16) (he : s.tenantEnabled n = false) :
    s.accepts (tenOff n (0x100 + 16 * w)) [rw 12 52] := by
  have hn := n.isLt
  have hw := w.isLt
  have hoff : tenOff n (0x100 + 16 * w) = 0x31000 + 0x200 * n + (0x100 + 16 * w) := rfl
  exact {
    aligned := by omega
    inBar := by omega
    fields := by rw [regFields_window]; rfl
    nonempty := by decide
    disjoint := by decide
    unlockable := by decide
    allowed := by rw [refuses_window hm, he]
    heeded := ignores_eq_false (by omega) s
    takes := by unfold takesValue rEVENT_LOST; omega
    unclamped := by unfold rPWR_CTRL; omega }

theorem window_write {s : State} (hb : s.barUp = true) (hc : s.canonical) (hm : s.subMember = false) (n : Fin 64) (w : Fin 16)
    (he : s.tenantEnabled n = false) (req val : Nat) :
    ∃ t, s.access req (tenOff n (0x100 + 16 * w)) 8 val = .next t ∧ t.getField (tenOff n (0x100 + 16 * w)) 12 52 = bits val 12 52 ∧ s.keepsData t := by
  obtain ⟨t, ht, hd, hf, -⟩ := access_takes hb hc (window_accepts hm n w he) req val
  exact ⟨t, ht, hf (rw 12 52) List.mem_cons_self, hd⟩

theorem window_refused {s : State} (hb : s.barUp = true) (hc : s.canonical) (hm : s.subMember = false) (n : Fin 64) (w : Fin 16)
    (he : s.tenantEnabled n = true) (req val : Nat) :
    ∃ t, s.access req (tenOff n (0x100 + 16 * w)) 8 val = .next t ∧ t.reg (tenOff n (0x100 + 16 * w)) = s.reg (tenOff n (0x100 + 16 * w)) ∧
      (t.reg 0x3FFF8).toNat % 2 ^ 48 = ((s.reg 0x3FFF8).toNat + 1) % 2 ^ 48 := by
  have hn := n.isLt
  have hw := w.isLt
  have hoff : tenOff n (0x100 + 16 * w) = 0x31000 + 0x200 * n + (0x100 + 16 * w) := rfl
  have hlockv : lockvOf bTEN 0x10000 = 0x3FFF8 := rfl
  obtain ⟨t, ht, ⟨-, hreg⟩, hcount⟩ := access_refused hb hc (blockOf_ten (off := tenOff n (0x100 + 16 * w)) (by omega)) (by omega) (by omega)
    (by rw [regFields_window]; decide) (by rw [refuses_window hm, he]) (by unfold rEVENT_LOST; omega) (by decide) req val
  refine ⟨t, ht, hreg, ?_⟩
  simp only [hlockv, State.getField, bits, Nat.pow_zero, Nat.div_one] at hcount
  rw [hcount, Nat.mod_add_mod]

/-! ### Status bits, engines, quadrants, telemetry (R17, R291, R567, R627) -/

theorem bypStatus_accepts (s : State) : s.accepts 0x60018 [rw1c 5 1] where
  aligned := rfl
  inBar := by decide
  fields := rfl
  nonempty := by decide
  disjoint := by decide
  unlockable := by decide
  allowed := refuses_eq_false (n := 5) rfl (by decide) s
  heeded := ignores_eq_false (by decide) s
  takes := by decide
  unclamped := by decide

/-- A one written to a status bit clears it. -/
theorem takes_rw1c_one (lo old x : Nat) (ho : old < 2) (hx : x = 1) : (rw1c lo 1).takes old x = 0 := by
  subst hx
  show old - (old &&& 1) = 0
  rw [Nat.and_one_is_mod]
  omega

theorem bits_of_bit {v i : Nat} (h : bit v i = true) : bits v i 1 = 1 := by
  rw [bits, Nat.pow_one, ← Nat.toNat_testBit]
  exact congrArg Bool.toNat h

theorem bypStatus_clear {s : State} (hb : s.barUp = true) (hc : s.canonical) (req : Fin 3) (val : Nat) (hv : bit val 5 = true) :
    ∃ t, exec (.rw1cWrite req 0x60018 val) s = .next t ∧ t.getField 0x60018 5 1 = 0 ∧ t.getField 0x60018 0 5 = s.getField 0x60018 0 5 ∧ s.keepsData t := by
  obtain ⟨t, ht, hd, hf, ho⟩ := access_takes hb hc (bypStatus_accepts s) req val
  have hstatus : (regFields 0x60018).any (fun f => f.acc == .rw1c) = true := rfl
  have hexec : exec (.rw1cWrite req 0x60018 val) s = s.access req 0x60018 8 val := by
    show execRw1cWrite req 0x60018 val s = _
    rw [execRw1cWrite, if_pos hstatus]
  refine ⟨t, hexec.trans ht, (hf (rw1c 5 1) List.mem_cons_self).trans ?_, ho 0 5 (by omega) (by decide), hd⟩
  exact takes_rw1c_one 5 _ _ (bits_lt _ 5 1) (bits_of_bit hv)

theorem storeCtrl_accepts (s : State) (e : EngId) : s.accepts (engOff e oSTORE_CTRL) [rw 16 8 0x40, rw 24 1 1, rw1c 26 1] := by
  have he := e.isLt
  have hoff : engOff e oSTORE_CTRL = 0x81000 + 0x200 * e + 0x180 := rfl
  exact {
    aligned := by omega
    inBar := by omega
    fields := by rw [regFields_storeCtrl]; rfl
    nonempty := by decide
    disjoint := by decide
    unlockable := by decide
    allowed := refuses_eq_false (blockOf_eng (by omega)) (by decide) s
    heeded := ignores_eq_false (by omega) s
    takes := by unfold takesValue rEVENT_LOST; omega
    unclamped := by unfold rPWR_CTRL; omega }

theorem storeCtrl_write {s : State} (hb : s.barUp = true) (hc : s.canonical) (req : Fin 3) (e : EngId) (en : Bool) (lim : BitVec 8) :
    ∃ t, exec (.engStoreCtrlEnWrite req e en lim) s = .next t ∧ t.getField (engOff e oSTORE_CTRL) 24 1 = (if en then 1 else 0) ∧
      t.getField (engOff e oSTORE_CTRL) 16 8 = lim.toNat ∧ t.getField (engOff e oSTORE_CTRL) 0 16 = s.getField (engOff e oSTORE_CTRL) 0 16 ∧ s.keepsData t := by
  have hlim := lim.isLt
  obtain ⟨t, ht, hd, hf, ho⟩ := access_takes hb hc (storeCtrl_accepts s e) req (2 ^ 16 * lim.toNat + toNatB en 24)
  have hen : bits (2 ^ 16 * lim.toNat + toNatB en 24) 24 1 = if en then 1 else 0 := by
    cases en <;> simp only [bits, toNatB, if_true, Bool.false_eq_true, if_false] <;> omega
  have hceLimit : bits (2 ^ 16 * lim.toNat + toNatB en 24) 16 8 = lim.toNat := by
    cases en <;> simp only [bits, toNatB, if_true, Bool.false_eq_true, if_false] <;> omega
  exact ⟨t, ht, (hf (rw 24 1 1) (by decide)).trans hen, (hf (rw 16 8 0x40) (by decide)).trans hceLimit, ho 0 16 (by omega) (by decide), hd⟩

theorem bits_toNatB (v : Bool) : bits (toNatB v 0) 0 1 = if v then 1 else 0 := by
  cases v <;> rfl

theorem freeze_accepts (s : State) : s.accepts 0xD0000 [rw 0 1] where
  aligned := rfl
  inBar := by decide
  fields := rfl
  nonempty := by decide
  disjoint := by decide
  unlockable := by decide
  allowed := refuses_eq_false (n := 10) rfl (by decide) s
  heeded := ignores_eq_false (by decide) s
  takes := by decide
  unclamped := by decide

theorem freeze_write {s : State} (hb : s.barUp = true) (hc : s.canonical) (req : Fin 3) (v : Bool) :
    ∃ t, exec (.tlmFreezeWrite req v) s = .next t ∧ t.getField 0xD0000 0 1 = (if v then 1 else 0) ∧ s.keepsData t := by
  obtain ⟨t, ht, hd, hf, -⟩ := access_takes hb hc (freeze_accepts s) req (toNatB v 0)
  exact ⟨t, ht, (hf (rw 0 1) List.mem_cons_self).trans (bits_toNatB v), hd⟩

/-- A clock request takes the nearest clock from 400 MHz to the grade's (R567, R586). -/
theorem qclkReq_clamps {s : State} (hc : s.canonical) (q : QuadId) (val : Nat) :
    (s.qclkReq q val).getField (qclkOff q) 0 8 = min (max val 40) s.gradeClk ∧ s.keepsData (s.qclkReq q val) := by
  have hq := q.isLt
  have hoff : qclkOff q = 0x10100 + 8 * q := rfl
  have hgrade : s.gradeClk < 2 ^ 8 := bits_lt _ 1 8
  have hset : (s.setField (qclkOff q) 0 8 (min (max val 40) s.gradeClk)).getField (qclkOff q) 0 8 = min (max val 40) s.gradeClk := by
    rw [getField_setField_same hc _ _ _ _ (by omega), Nat.mod_eq_of_lt (by omega)]
  unfold State.qclkReq
  dsimp only
  split
  · exact ⟨hset, setReg_keepsData s _ _⟩
  · have hkeep : ∀ u : State, State.keepsReg (qclkOff q) u ((u.setField rPWR_STATUS 8 1 1).raise 0x6008 0 none [(1, q), (1, val)]) := fun u =>
      keepsReg_trans (setField_keepsReg (by unfold rPWR_STATUS; omega) u _ _ _) (raise_keepsReg (by unfold rEVENT_LOST; omega) _ _ _ _ _)
    refine ⟨?_, keepsData_trans (keepsData_trans (setReg_keepsData s _ _) (setReg_keepsData _ _ _)) (hkeep _).1⟩
    rw [getField_of_keepsReg (hkeep _), getField_setField_disjoint (canonical_setField hc ..) _ _ _ _ _ _ (by omega) (by omega), hset]

theorem regEffect_qclk (q : QuadId) {fs : List RField} (hfs : fs.any (fun f => f.lo == 0) = true) (s : State) (new val : Nat) :
    s.regEffect (qclkOff q) new val fs = (s.setField (qclkOff q) 36 1 (bits new 36 1)).qclkReq q (bits new 0 8) := by
  have hne : ¬ fs.isEmpty = true := by rintro he; rw [List.isEmpty_iff.mp he] at hfs; cases hfs
  have hq := q.isLt
  have hoff : qclkOff q = 0x10100 + 8 * q := rfl
  have hquad : (qclkOff q - 0x10100) / 8 = q := by omega
  unfold State.regEffect
  dsimp only
  rw [if_neg hne, if_neg (by omega), if_neg, if_neg (by omega), if_neg (by omega), if_neg (by omega), if_pos (by omega), if_pos hfs, hquad]
  split
  · next hw => have := tenWindow_within hw; omega
  · simp

/-- A write of a quadrant's clock register asks for the clock written; bit 36 is a status bit (R586). -/
theorem regApply_qclk (s : State) (q : QuadId) (val : Nat) :
    ∃ x, s.regApply (qclkOff q) val (regFields (qclkOff q)) = (s.setField (qclkOff q) 36 1 x).qclkReq q (bits val 0 8) := by
  have hq := q.isLt
  have hoff : qclkOff q = 0x10100 + 8 * q := rfl
  have hw : writable (regFields (qclkOff q)) = [rw 0 8 100, rw1c 36 1] := by rw [regFields_qclk]; rfl
  have hreq : bits ([rw 0 8 100, rw1c 36 1].foldl (RField.written val) (s.reg (qclkOff q)).toNat) 0 8 = bits val 0 8 :=
    bits_foldl_written_mem _ _ (by decide) (rw 0 8 100) List.mem_cons_self _
  exact ⟨_, by rw [regApply_unlockable (by rw [hw]; decide) (refuses_eq_false (blockOf_pwr (by omega)) (by decide) s) (ignores_eq_false (by omega) s)
    (by rw [hw]; decide), hw, clampReg_eq (by unfold rPWR_CTRL; omega), regEffect_qclk q rfl, hreq]⟩

theorem qclk_write {s : State} (hb : s.barUp = true) (hc : s.canonical) (req : Fin 3) (q : QuadId) (val : BitVec 8) :
    ∃ t, exec (.pwrQclkReqWrite req q val) s = .next t ∧ t.getField (qclkOff q) 0 8 = min (max val.toNat 40) s.gradeClk ∧ s.keepsData t := by
  have hq := q.isLt
  have hoff : qclkOff q = 0x10100 + 8 * q := rfl
  have hval : bits (val.toNat % 2 ^ 64) 0 8 = val.toNat := by have := val.isLt; unfold bits; omega
  obtain ⟨x, hx⟩ := regApply_qclk (s.accessed req (qclkOff q)) q (val.toNat % 2 ^ 64)
  have hstep : exec (.pwrQclkReqWrite req q val) s = .next (((s.accessed req (qclkOff q)).setField (qclkOff q) 36 1 x).qclkReq q val.toNat) := by
    refine (access_whole hb (by omega) (by omega) req val.toNat).trans ?_
    rw [hx, hval]
  have hkeep : State.keepsReg 0x10 s ((s.accessed req (qclkOff q)).setField (qclkOff q) 36 1 x) :=
    keepsReg_trans (withHalves_keepsReg 0x10 s req _ _) (setField_keepsReg (by omega) _ 36 1 x)
  have hgrade : ((s.accessed req (qclkOff q)).setField (qclkOff q) 36 1 x).gradeClk = s.gradeClk := getField_of_keepsReg hkeep 1 8
  obtain ⟨hclk, hd⟩ := qclkReq_clamps (canonical_setField (canonical_accessed hc req (qclkOff q)) (qclkOff q) 36 1 x) q val.toNat
  exact ⟨_, hstep, by rw [hclk, hgrade], keepsData_trans hkeep.1 hd⟩

/-! ### Fault injection (R423, R424, R629, R630) -/

theorem injEnable_accepts {s : State} (hg : s.getField rRAS_STATUS 9 1 = 1) : s.accepts 0xE0000 [rw 0 1] where
  aligned := rfl
  inBar := by decide
  fields := rfl
  nonempty := by decide
  disjoint := by decide
  unlockable := by decide
  allowed := by rw [refuses_tst (base := bTST) (size := 0x20000) rfl, hg]; rfl
  heeded := ignores_eq_false (by decide) s
  takes := by decide
  unclamped := by decide

theorem injEnable_write {s : State} (hb : s.barUp = true) (hc : s.canonical) (hg : s.getField rRAS_STATUS 9 1 = 1) (req : Fin 3) (v : Bool) :
    ∃ t, exec (.tstInjEnableWrite req v) s = .next t ∧ t.getField 0xE0000 0 1 = (if v then 1 else 0) ∧ s.keepsData t := by
  obtain ⟨t, ht, hd, hf, -⟩ := access_takes hb hc (injEnable_accepts hg) req (toNatB v 0)
  exact ⟨t, ht, (hf (rw 0 1) List.mem_cons_self).trans (bits_toNatB v), hd⟩

theorem injEnable_refused {s : State} (hb : s.barUp = true) (hc : s.canonical) (hg : s.getField rRAS_STATUS 9 1 = 0) (req : Fin 3) (v : Bool) :
    ∃ t, exec (.tstInjEnableWrite req v) s = .next t ∧ t.reg 0xE0000 = s.reg 0xE0000 ∧ s.keepsData t := by
  obtain ⟨t, ht, ⟨hd, hreg⟩, -⟩ := access_refused hb hc (off := 0xE0000) (n := 11) (base := bTST) (size := 0x20000) rfl rfl (by decide) (by decide)
    (by rw [refuses_tst (base := bTST) (size := 0x20000) rfl, hg]; rfl) (by decide) (by decide) req (toNatB v 0)
  exact ⟨t, ht, hreg, hd⟩

/-- With a test grant, a port's injection register takes what is written. -/
theorem inj_accepts {s : State} (hg : s.getField rRAS_STATUS 9 1 = 1) (p : PortId) (w : Nat) (hw : w % 8 = 0 ∧ w < 0x20) {fs : List RField}
    (hf : writable (regFields (injOff p w)) = fs) (hne : fs ≠ []) (hd : disjointFields fs) (hl : ∀ f ∈ fs, f.acc ≠ .rwl) : s.accepts (injOff p w) fs := by
  have hp := p.isLt
  have hoff : injOff p w = 0xE0100 + 0x20 * p + w := rfl
  exact {
    aligned := by omega
    inBar := by omega
    fields := hf
    nonempty := hne
    disjoint := hd
    unlockable := hl
    allowed := by rw [refuses_tst (blockOf_tst (by omega)), hg]; rfl
    heeded := ignores_eq_false (by omega) s
    takes := by unfold takesValue rEVENT_LOST; omega
    unclamped := by unfold rPWR_CTRL; omega }

theorem injDrop_write {s : State} (hb : s.barUp = true) (hc : s.canonical) (hg : s.getField rRAS_STATUS 9 1 = 1) (req : Fin 3) (p : PortId) (n : BitVec 24) :
    ∃ t, exec (.tstInjDropWrite req p n) s = .next t ∧ t.getField (injOff p.toNat 0) 0 24 = n.toNat ∧ (t.port p.toNat).dropCnt = 0 ∧ s.keepsData t := by
  have ha := inj_accepts hg p 0 (by decide) (fs := [rw 0 24]) (by rw [(regFields_inj p).1]; rfl) (by decide) (by decide) (by decide)
  obtain ⟨t, ht, hd, hf, -⟩ := access_takes hb hc ha req n.toNat
  have hval : bits n.toNat 0 24 = n.toNat := by have := n.isLt; unfold bits; omega
  refine ⟨t, ht, (hf (rw 0 24) List.mem_cons_self).trans hval, ?_, hd⟩
  injection ht.symm.trans (access_accepts hb ha req n.toNat) with ht
  rw [ht]
  exact regEffect_dropCnt p rfl _ _ _

theorem injFlip_write {s : State} (hb : s.barUp = true) (hc : s.canonical) (hg : s.getField rRAS_STATUS 9 1 = 1) (req : Fin 3) (p : PortId) (n : BitVec 24)
    (b m : BitVec 8) :
    ∃ t, exec (.tstInjFlipWrite req p n b m) s = .next t ∧ t.getField (injOff p.toNat 8) 0 24 = n.toNat ∧
      t.getField (injOff p.toNat 8) 24 8 = b.toNat ∧ t.getField (injOff p.toNat 8) 32 8 = m.toNat ∧ s.keepsData t := by
  have ha := inj_accepts hg p 8 (by decide) (fs := [rw 0 24, rw 24 8, rw 32 8]) (by rw [(regFields_inj p).2.1]; rfl) (by decide) (by decide) (by decide)
  obtain ⟨t, ht, hd, hf, -⟩ := access_takes hb hc ha req (n.toNat + 2 ^ 24 * b.toNat + 2 ^ 32 * m.toNat)
  have hn := n.isLt
  have hbyte := b.isLt
  have hmask := m.isLt
  refine ⟨t, ht, (hf (rw 0 24) (by decide)).trans ?_, (hf (rw 24 8) (by decide)).trans ?_, (hf (rw 32 8) (by decide)).trans ?_, hd⟩
  · show (n.toNat + 2 ^ 24 * b.toNat + 2 ^ 32 * m.toNat) / 2 ^ 0 % 2 ^ 24 = n.toNat
    omega
  · show (n.toNat + 2 ^ 24 * b.toNat + 2 ^ 32 * m.toNat) / 2 ^ 24 % 2 ^ 8 = b.toNat
    omega
  · show (n.toNat + 2 ^ 24 * b.toNat + 2 ^ 32 * m.toNat) / 2 ^ 32 % 2 ^ 8 = m.toNat
    omega

theorem injReorder_write {s : State} (hb : s.barUp = true) (hc : s.canonical) (hg : s.getField rRAS_STATUS 9 1 = 1) (req : Fin 3) (p : PortId)
    (w : BitVec 6) :
    ∃ t, exec (.tstInjReorderWrite req p w) s = .next t ∧ t.getField (injOff p.toNat 0x10) 0 6 = w.toNat ∧ s.keepsData t := by
  have ha := inj_accepts hg p 0x10 (by decide) (fs := [rw 0 6]) (by rw [(regFields_inj p).2.2]; rfl) (by decide) (by decide) (by decide)
  obtain ⟨t, ht, hd, hf, -⟩ := access_takes hb hc ha req w.toNat
  have hval : bits w.toNat 0 6 = w.toNat := by have := w.isLt; unfold bits; omega
  exact ⟨t, ht, (hf (rw 0 6) List.mem_cons_self).trans hval, hd⟩

/-! ### The obligation -/

/-- Settles O47: each write goes through one rule per access code (`access_takes`), one for a refused write (`access_refused`), and those of LOCK, clock
requests and the halves of a register. -/
theorem registerWrites : Obligations.RegisterWrites := by
  unfold Obligations.RegisterWrites
  intro s req hb hc
  refine ⟨scratch_whole hb hc req, scratch_lower hb req, scratch_upper hb hc req,
    fun n w val hm => ⟨fun he => window_write hb hc hm n w he req val, fun he => window_refused hb hc hm n w he req val⟩,
    bypStatus_clear hb hc req, lockSet_locks hb hc req, storeCtrl_write hb hc req, qclk_write hb hc req, freeze_write hb hc req,
    fun hg => ⟨injEnable_write hb hc hg req, injDrop_write hb hc hg req, injFlip_write hb hc hg req, injReorder_write hb hc hg req⟩,
    fun hg => injEnable_refused hb hc hg req⟩

end Sys2Proof.Machine
end

section
/-! SUPPORT. An engine that issues its bundles alone and whose bundle is open: how the engine stands after an update of its own fields, a stall's end, an
empty send queue, and what a token adds to its counter (R124, R129 to R131). -/

namespace Sys2Proof.Machine

/-! ### Maps whose unlisted keys read as zero -/

/-- A nonzero value written is read back, in any map. -/
theorem SMap.get_put_of_ne_zero {n : Nat} (m : SMap (BitVec n)) (i : Nat) {v : BitVec n} (hv : v ≠ 0) : SMap.get (SMap.put m i v) i 0 = v := by
  rw [SMap.put, if_neg hv, SMap.get_set_same]

/-- In a map of canonical form zero is read back too: its key is not listed any more. -/
theorem SMap.get_put_same {n : Nat} {m : SMap (BitVec n)} (h : SMap.wf m = true) (i : Nat) (v : BitVec n) : SMap.get (SMap.put m i v) i 0 = v := by
  by_cases hv : v = 0
  · rw [SMap.put, if_pos hv, SMap.get, SMap.find?_erase_same m i h, hv]
    rfl
  · exact SMap.get_put_of_ne_zero m i hv

/-! ### Updates of one engine -/

theorem setEngine_keepsData (s : State) (e : Nat) (x : Engine) : s.keepsData (s.setEngine e x) := ⟨rfl, rfl, rfl, rfl, rfl⟩

/-- An engine's lockstep group follows from its work item and its logical number alone. -/
theorem group_setEngine (s : State) (e : Nat) (x : Engine) (hitem : x.item = (s.engine e).item) (hlog : x.logical = (s.engine e).logical) :
    (s.setEngine e x).group e = s.group e := by
  simp only [State.group, engine_setEngine_same, hitem, hlog]
  rfl

/-- An engine keeps its open bundle through an update that leaves its place in the work item and no position due to end. -/
theorem bundleOpen_setEngine {s : State} {e : Nat} (h : s.bundleOpen e) (x : Engine) (hitem : x.item = (s.engine e).item)
    (hlog : x.logical = (s.engine e).logical) (hclosed : x.closed = (s.engine e).closed) (hbub : x.bubbles = (s.engine e).bubbles) :
    (s.setEngine e x).bundleOpen e := by
  obtain ⟨hg, hc, hb⟩ := h
  refine ⟨(group_setEngine s e x hitem hlog).trans hg, ?_, ?_⟩
  · rw [engine_setEngine_same, hclosed, hc]
  · rw [engine_setEngine_same, hbub, hb]

/-- A counter of a register file of canonical form has gone up after it counted (R156). -/
theorem counted_count {s : State} (h : s.canonical) (off n : Nat) : s.counted (s.count off n) off n := by
  obtain ⟨-, hregs⟩ := h
  rw [State.counted, State.count, reg_setReg_same s off _ hregs, BitVec.toNat_ofNat]
  omega

/-! ### Settling, the end of a stall, the send queue -/

/-- Where the bundle is open no position ends: nothing settles (R124, R655). -/
theorem settle_of_bundleOpen {s : State} {e : Nat} (h : s.bundleOpen e) (n : Nat) : s.settle e n = s := by
  obtain ⟨hg, hc, hb⟩ := h
  have hend : (s.engine e).atEnd = false := by simp [Engine.atEnd, hc, hb]
  have hdue : ((s.runners e).isEmpty || !(s.runners e).all (fun m => (s.engine m).atEnd)) = true := by
    rw [State.runners, hg]
    by_cases hrun : (s.engine e).st = .running <;> simp [hrun, hend]
  cases n with
  | zero => rfl
  | succ n => rw [State.settle, hdue, Bool.true_or, if_pos rfl]

/-- The engine after a stall of `n` cycles ended: its watchdog saw them, unless it waited at a yield point (R140). -/
def Engine.stallOver (en : Engine) (n : Nat) (yield : Bool) : Engine :=
  { en with held := max en.held n, wd := if yield then en.wd else en.wd + (n - en.held) }

/-- The stall of an engine that issues alone ends: its counter counts it (R124). -/
theorem holdEnds_of_alone {s : State} {e : Nat} (h : s.group e = [e]) (off n : Nat) (yield : Bool) :
    s.holdEnds e off n yield = (s.count (engOff e off) n).setEngine e ((s.engine e).stallOver n yield) := by
  have hen : (s.count (engOff e off) n).engine e = s.engine e := rfl
  simp [State.holdEnds, h, hen, Engine.stallOver]

theorem engine_holdEnds {s : State} {e : Nat} (h : s.group e = [e]) (off n : Nat) (yield : Bool) :
    (s.holdEnds e off n yield).engine e = (s.engine e).stallOver n yield := by
  rw [holdEnds_of_alone h, engine_setEngine_same]

theorem holdEnds_keepsData {s : State} {e : Nat} (h : s.group e = [e]) (off n : Nat) (yield : Bool) : s.keepsData (s.holdEnds e off n yield) := by
  rw [holdEnds_of_alone h]
  exact keepsData_trans (setReg_keepsData ..) (setEngine_keepsData ..)

/-- The end of a stall leaves the bundle open. -/
theorem bundleOpen_holdEnds {s : State} {e : Nat} (h : s.bundleOpen e) (off n : Nat) (yield : Bool) : (s.holdEnds e off n yield).bundleOpen e := by
  rw [holdEnds_of_alone h.1]
  have hcount : (s.count (engOff e off) n).bundleOpen e := h
  exact bundleOpen_setEngine hcount _ rfl rfl rfl rfl

theorem kickQueue_of_empty {s : State} {e : Nat} (h : (s.engine e).queue = []) (cycles n : Nat) : s.kickQueue e cycles n = s := by
  cases n with
  | zero => rfl
  | succ n => simp [State.kickQueue, h]

/-- An engine without the head of its send queue (R131). -/
def Engine.withoutHead (en : Engine) : Engine := { en with queue := en.queue.drop 1 }

/-- Where nothing holds the engine, its queue's head leaves and no entry moves in (R131). -/
theorem popHead_of_unheld {s : State} {e : Nat} (h : (s.engine e).hold = []) (cycles : Nat) : s.popHead e cycles = s.setEngine e (s.engine e).withoutHead := by
  simp [State.popHead, Engine.popQueue, Engine.withoutHead, h]

/-! ### Token counters -/

/-- A counter saturates at 65,535 (R129). -/
theorem tkAdd_toNat (c : BitVec 16) (n : Nat) : (tkAdd c n).1.toNat = min 65535 (c.toNat + n) := by
  simp only [tkAdd]
  split
  · next h => rw [Nat.min_eq_left (Nat.le_of_lt h)]; rfl
  · next h => rw [BitVec.toNat_ofNat]; omega

/-- A token adds its increment to its counter, in a map of any form: an increment that is not 0 leaves no counter at 0. -/
theorem addToken_counter (s : State) (e tk n : Nat) :
    (SMap.get ((s.addToken e tk n).engine e).core.tk tk 0).toNat = min 65535 ((SMap.get (s.engine e).core.tk tk 0).toNat + n) := by
  by_cases hn : n = 0
  · rw [State.addToken, if_pos hn, hn]
    have := (SMap.get (s.engine e).core.tk tk 0).isLt
    omega
  · have hsum := tkAdd_toNat (SMap.get (s.engine e).core.tk tk 0) n
    have hne : (tkAdd (SMap.get (s.engine e).core.tk tk 0) n).1 ≠ 0 := by
      intro h0
      rw [h0, show (0 : BitVec 16).toNat = 0 from rfl] at hsum
      omega
    rw [State.addToken, if_neg hn, engine_setEngine_same, SMap.get_put_of_ne_zero _ _ hne, hsum]

/-- A token changes its engine's counters, and of the state nothing but that engine. -/
theorem addToken_frame (s : State) (e tk n : Nat) : s.keepsData (s.addToken e tk n) ∧ (s.addToken e tk n).tokens = s.tokens ∧
    ((s.addToken e tk n).engine e).core.scal = (s.engine e).core.scal ∧ ((s.addToken e tk n).engine e).core.loam = (s.engine e).core.loam := by
  unfold State.addToken
  split
  · exact ⟨⟨rfl, rfl, rfl, rfl, rfl⟩, rfl, rfl, rfl⟩
  · simp [setEngine_keepsData]

end Sys2Proof.Machine
end

section
/-! SUPPORT. Obligation O26: tokens leave and arrive, waits resume, acknowledgements release, accesses repeat (R25, R124, R126, R129 to R131). -/

namespace Sys2Proof.Machine

/-- A token that stands alone in the queue goes onto the network once the stores before it are acknowledged (R131). -/
theorem tokenRelease_sends {s : State} {e : EngId} (cycles : Nat) {q : SqE} {d tk inc : Nat} (ho : s.bundleOpen e) (hq : (s.engine e).queue = [q])
    (hh : (s.engine e).hold = []) (hk : q.kind = .token d tk inc) (hacked : ∀ n ∈ (s.engine e).unacked, q.after ≤ n) :
    ∃ t, exec (.tokenRelease e cycles) s = .next t ∧ (t.engine e).queue = [] ∧ (t.engine e).core = (s.engine e).core ∧ s.keepsData t ∧
      t.tokens = s.tokens ++ [{ src := e, dst := d, tk := tk, inc := inc, item := (s.engine e).item, tc := (s.item (s.engine e).item).tc, sent := s.netSent }] := by
  have hready : (s.engine e).entryReady q = true := by simpa [Engine.entryReady] using hacked
  have hopen : (s.setEngine e (s.engine e).withoutHead).bundleOpen e := bundleOpen_setEngine ho _ rfl rfl rfl rfl
  obtain ⟨t, ht⟩ : ∃ t, t = (s.setEngine e (s.engine e).withoutHead).startEntry e (.token d tk inc) := ⟨_, rfl⟩
  -- a token's start changes no engine
  have hten : t.engine e = (s.engine e).withoutHead := ht ▸ engine_setEngine_same ..
  have htopen : t.bundleOpen e := ht ▸ hopen
  have hempty : (t.engine e).queue = [] := by rw [hten, Engine.withoutHead, hq, List.drop_one, List.tail_cons]
  refine ⟨t, ?_, hempty, by rw [hten]; rfl, ht ▸ setEngine_keepsData s e (s.engine e).withoutHead, ?_⟩
  · show execTokenRelease e cycles s = _
    simp only [execTokenRelease, hq, hready, Bool.not_true, Bool.false_eq_true, if_false, popHead_of_unheld hh, hk, ← ht]
    rw [kickQueue_of_empty hempty, settle_of_bundleOpen htopen]
  · rw [ht, State.startEntry, engine_setEngine_same]
    rfl

/-- The state with these tokens on the network. -/
def State.withTokens (s : State) (l : List TokenMsg) : State := { s with tokens := l }

/-- The oldest token between two engines, which no message goes before, adds its increment to its counter (R25, R129). -/
theorem tokenArrival_adds {s : State} {src e : EngId} {tk : Fin 32} {m : TokenMsg} {rest : List TokenMsg} (hm : s.tokens = m :: rest)
    (hsrc : m.src = src.val) (hdst : m.dst = e.val) (htk : m.tk = tk.val) (hitem : m.item = (s.engine e).item)
    (hmay : s.mayArrive (netPath src e) m.wire = true) :
    ∃ t, exec (.tokenArrival src e tk) s = .next t ∧ t.tokens = rest ∧ s.keepsData t ∧
      (SMap.get (t.engine e).core.tk tk 0).toNat = min 65535 ((SMap.get (s.engine e).core.tk tk 0).toNat + m.inc) ∧
      (t.engine e).core.scal = (s.engine e).core.scal ∧ (t.engine e).core.loam = (s.engine e).core.loam := by
  obtain ⟨hdata, htok, hscal, hloam⟩ := addToken_frame (s.withTokens rest) e m.tk m.inc
  have hcounter := addToken_counter (s.withTokens rest) e m.tk m.inc
  refine ⟨(s.withTokens rest).addToken e m.tk m.inc, ?_, htok, hdata, htk ▸ hcounter, hscal, hloam⟩
  show execTokenArrival src e tk s = _
  have hfirst : takeFirst (fun t : TokenMsg => decide (t.src = src.val ∧ t.dst = e.val)) s.tokens = some (m, rest) := by
    rw [hm, takeFirst, if_pos (by simp [hsrc, hdst])]
  have hgo : ¬(m.tk ≠ tk.val ∨ (!s.mayArrive (netPath src e) m.wire) = true) := by simp [htk, hmay]
  simp only [execTokenArrival, hfirst, if_neg hgo]
  exact congrArg Host.Outcome.next (if_pos hitem.symm)

/-- A token counter left at `v` (R130). -/
def Core.leaveToken (c : Core) (tk v : Nat) : Core := { c with tk := SMap.put c.tk tk (BitVec.ofNat 16 v) }

/-- The engine after its only wait, for counter `tk`, ended with `v` left in it (R130). -/
def Engine.waited (en : Engine) (tk v : Nat) : Engine := { en with core := en.core.leaveToken tk v, snap := en.snap.leaveToken tk v, hold := [] }

/-- A wait whose counter holds the threshold ends: the decrement is subtracted and nothing holds the engine (R130). -/
theorem waitSatisfied_resumes {s : State} {e : EngId} (cycles : Nat) {tk th dec : Nat} {y : Bool} (ho : s.bundleOpen e)
    (hh : (s.engine e).hold = [.wait tk th dec y]) (hrun : (s.engine e).st = .running) (hfrz : s.frozen = false)
    (hth : th ≤ (SMap.get (s.engine e).core.tk tk 0).toNat) (hwf : SMap.wf (s.engine e).core.tk = true) :
    ∃ t, exec (.waitSatisfied e cycles) s = .next t ∧ (t.engine e).hold = [] ∧ s.keepsData t ∧
      (SMap.get (t.engine e).core.tk tk 0).toNat = (SMap.get (s.engine e).core.tk tk 0).toNat - dec := by
  obtain ⟨v, hv⟩ : ∃ v, v = (SMap.get (s.engine e).core.tk tk 0).toNat - dec := ⟨_, rfl⟩
  have hopen : (s.setEngine e ((s.engine e).waited tk v)).bundleOpen e := bundleOpen_setEngine ho _ rfl rfl rfl rfl
  have hheld : ¬((s.engine e).st ≠ .running ∨ s.frozen = true ∨ (SMap.get (s.engine e).core.tk tk 0).toNat < th) := by
    simpa only [hrun, hfrz, ne_eq, not_true_eq_false, Bool.false_eq_true, false_or, Nat.not_lt] using hth
  have hexec : exec (.waitSatisfied e cycles) s =
      .next (((s.setEngine e ((s.engine e).waited tk v)).holdEnds e oSTALL_WAIT cycles y).settle e 16) := by
    have hnone : [Hold.wait tk th dec y].filter (fun h => decide (h ≠ .wait tk th dec y)) = [] := by simp
    show execWaitSatisfied e cycles s = _
    simp only [execWaitSatisfied, hh, List.findSome?_cons, if_neg hheld, hnone, ← hv]
    rfl
  rw [settle_of_bundleOpen (bundleOpen_holdEnds hopen ..)] at hexec
  have hen : ((s.setEngine e ((s.engine e).waited tk v)).holdEnds e oSTALL_WAIT cycles y).engine e = ((s.engine e).waited tk v).stallOver cycles y := by
    rw [engine_holdEnds hopen.1, engine_setEngine_same]
  refine ⟨_, hexec, by rw [hen]; rfl, keepsData_trans (setEngine_keepsData ..) (holdEnds_keepsData hopen.1 ..), ?_⟩
  have hlt := (SMap.get (s.engine e).core.tk tk 0).isLt
  rw [hen, show (((s.engine e).waited tk v).stallOver cycles y).core.tk = SMap.put (s.engine e).core.tk tk (BitVec.ofNat 16 v) from rfl,
    SMap.get_put_same hwf, BitVec.toNat_ofNat]
  omega

/-- The engine after the acknowledgement of a write; `free` says whether its stall for a 64th store ends with it (R124). -/
def Engine.released (en : Engine) (seq : Nat) (free : Bool) : Engine :=
  { en.acked seq with hold := if free then en.hold.filter (fun h => decide (h ≠ .stores)) else en.hold }

/-- The oldest acknowledgement frees one of the outstanding stores, whether or not a stall ends with it (R26, R124). -/
theorem storeAck_releases {s : State} {e : EngId} (cycles : Nat) {a : Nat × Nat × Nat} {rest : List (Nat × Nat × Nat)} (ho : s.bundleOpen e)
    (ha : (s.engine e).acks = a :: rest) (hq : (s.engine e).queue = []) :
    ∃ t, exec (.storeAck e cycles) s = .next t ∧ (t.engine e).acks = rest.filter (fun b => b.1 != a.1) ∧
      (t.engine e).unacked = (s.engine e).unacked.erase a.1 ∧ (t.engine e).outstanding = (s.engine e).outstanding - 1 ∧
      (t.engine e).core = (s.engine e).core ∧ s.keepsData t := by
  obtain ⟨free, hfree⟩ : ∃ b, b = (decide (((s.engine e).acked a.1).outstanding < 64) && (s.engine e).hold.contains .stores) := ⟨_, rfl⟩
  obtain ⟨x, hx⟩ : ∃ x, x = (s.engine e).released a.1 free := ⟨_, rfl⟩
  have hopen : (s.setEngine e x).bundleOpen e := by rw [hx]; exact bundleOpen_setEngine ho _ rfl rfl rfl rfl
  have hacks : ((s.engine e).acked a.1).acks = rest.filter (fun b => b.1 != a.1) := by simp [Engine.acked, ha]
  obtain ⟨t, ht⟩ : ∃ t, t = if free then (s.setEngine e x).holdEnds e oSTALL_QUEUE cycles false else s.setEngine e x := ⟨_, rfl⟩
  have hexec : exec (.storeAck e cycles) s = .next ((t.kickQueue e cycles 16).settle e 16) := by
    show execStoreAck e cycles s = _
    rw [ht, hx]
    simp only [execStoreAck, ha, ← hfree]
    rfl
  have hafter : t.bundleOpen e ∧ s.keepsData t ∧ ∃ held wd, t.engine e = { x with held := held, wd := wd } := by
    rw [ht]
    split
    · exact ⟨bundleOpen_holdEnds hopen .., keepsData_trans (setEngine_keepsData ..) (holdEnds_keepsData hopen.1 ..), _, _,
        (engine_holdEnds hopen.1 ..).trans (congrArg (Engine.stallOver · cycles false) (engine_setEngine_same ..))⟩
    · exact ⟨hopen, setEngine_keepsData .., _, _, engine_setEngine_same ..⟩
  obtain ⟨htopen, hdata, held, wd, hen⟩ := hafter
  rw [hx] at hen
  rw [kickQueue_of_empty (by rw [hen]; exact hq), settle_of_bundleOpen htopen] at hexec
  refine ⟨t, hexec, ?_, ?_, ?_, ?_, hdata⟩ <;> rw [hen]
  · exact hacks
  all_goals rfl

/-- The engine after a cycle of repeats; the watchdog sees a cycle that no other condition has accounted for, unless a yield point waits (R124, R140). -/
def Engine.repeated (en : Engine) : Engine :=
  { en with
    stall := en.stall - 1, cyc := en.cyc + 1, held := max en.held (en.cyc + 1),
    wd := if decide (en.held < en.cyc + 1) && !en.hold.any (fun h => match h with | .wait _ _ _ y => y | _ => false) then en.wd + 1 else en.wd }

/-- A cycle of repeats at an engine that issues alone and still has some: its counter counts the cycle (R126). -/
theorem busyCycle_of_alone {s : State} {e : Nat} (hg : s.group e = [e]) (hst : 0 < (s.engine e).stall) :
    s.busyCycle e = (s.count (engOff e oSTALL_BUSY) 1).setEngine e (s.engine e).repeated := by
  simp only [State.busyCycle, hg, List.foldl_cons, List.foldl_nil, if_pos hst]
  rfl

/-- An access that lost its bank repeats in a stalled cycle of its engine (R126). -/
theorem busyRepeat_counts {s : State} {e : EngId} (ho : s.bundleOpen e) (hfrz : s.frozen = false) (hst : 0 < (s.engine e).stall) (hc : s.canonical) :
    ∃ t, exec (.busyRepeat e) s = .next t ∧ (t.engine e).stall = (s.engine e).stall - 1 ∧ (t.engine e).core = (s.engine e).core ∧ s.keepsData t ∧
      s.counted t (engOff e oSTALL_BUSY) 1 := by
  have hcount : (s.count (engOff e oSTALL_BUSY) 1).bundleOpen e := ho
  have hopen := bundleOpen_setEngine hcount (s.engine e).repeated rfl rfl rfl rfl
  have hexec : exec (.busyRepeat e) s = .next ((s.busyCycle e).settle e 16) := by
    show execBusyRepeat e s = _
    simp only [execBusyRepeat, hfrz, Bool.false_eq_true, if_false, if_pos hst]
  rw [busyCycle_of_alone ho.1 hst, settle_of_bundleOpen hopen] at hexec
  refine ⟨_, hexec, ?_, ?_, keepsData_trans (setReg_keepsData ..) (setEngine_keepsData ..), counted_count hc ..⟩
  · rw [engine_setEngine_same]; rfl
  · rw [engine_setEngine_same]; rfl

/-- Settles O26: an engine whose bundle is open settles nothing (`settle_of_bundleOpen`), so each command leaves what it did itself. -/
theorem tokensWaitsAndAcknowledgements : Obligations.TokensWaitsAndAcknowledgements := by
  unfold Obligations.TokensWaitsAndAcknowledgements
  intro s e cycles
  exact ⟨fun _ _ _ _ ho hq hh hk hacked => tokenRelease_sends cycles ho hq hh hk hacked,
    fun _ _ _ _ hm hsrc hdst htk hitem hmay => tokenArrival_adds hm hsrc hdst htk hitem hmay,
    fun _ _ _ _ ho hh hrun hfrz hth _ hwf => waitSatisfied_resumes cycles ho hh hrun hfrz hth hwf,
    fun _ _ ho ha hq => storeAck_releases cycles ho ha hq,
    fun ho hfrz hst hc => busyRepeat_counts ho hfrz hst hc⟩

end Sys2Proof.Machine
end

section
/-! SUPPORT. Reads of a store without latent errors: such a read finds nothing to correct or mark and changes nothing, on the engine port, for a checker
or from outside (R261, R285, R286). -/

namespace Sys2Proof.Machine

/-! ### A store without errors -/

/-- No word of the store is in error and no row of it carries a mark. -/
def Store.spotless (st : Store) : Prop := st.errs = [] ∧ st.marks = []

/-- Without errors a read corrects nothing and loses nothing (R285, R286). -/
theorem read_of_noErrs {st : Store} (h : st.errs = []) (id : StoreId) (free a n : Nat) :
    Store.read st id free a n = ⟨Memory.readN st.data a n, [], [], st.maxMark (rowsOf a n)⟩ := by
  simp [Store.read, Store.errsIn, h, meetRead]

theorem maxMark_of_noMarks {st : Store} (h : st.marks = []) (rows : List Nat) : st.maxMark rows = 0 := by
  have hrow : ∀ r, st.mark r = 0 := fun r => by simp [Store.mark, h, SMap.get, SMap.find?]
  induction rows with
  | nil => rfl
  | cons r rows ih => rwa [Store.maxMark, List.foldl_cons, hrow, Nat.max_self]

/-- A read that found no word in error leaves the store as it was. -/
theorem afterRead_of_noWords (st : Store) (id : StoreId) {r : Rd} (hwords : r.words = []) (hrows : r.rows = []) : st.afterRead id r = st := by
  simp [Store.afterRead, hwords, hrows]

theorem setStore_store (c : Core) (id : StoreId) : c.setStore id (c.store id) = c := by
  cases id <;> rfl

/-- An engine takes nothing from a read of its spotless Kaolin store. -/
theorem tookRead_of_spotless {en : Engine} (h : en.core.kaolin.spotless) (free a n : Nat) :
    en.tookRead .kaolin (Store.read en.core.kaolin .kaolin free a n) = en := by
  obtain ⟨herrs, hmarks⟩ := h
  have hstore : en.core.setStore .kaolin (en.core.store .kaolin) = en.core := setStore_store ..
  rw [Engine.tookRead, read_of_noErrs herrs, afterRead_of_noWords _ _ rfl rfl, hstore, maxMark_of_noMarks hmarks]
  simp [Engine.setCore, Engine.stageIt, Rd.corrected, Rd.ue, eccStaged]

/-- The bytes of a store without errors reach a reader as they are. -/
theorem dirty_of_noErrs {st : Store} (h : st.errs = []) (free : Nat) : st.dirty free = st.data := by
  simp [Store.dirty, h]

/-! ### Engines and the state -/

theorem SMap.set_set {α : Type} (m : SMap α) (i : Nat) (v w : α) : SMap.set (SMap.set m i v) i w = SMap.set m i w := by
  induction m with
  | nil => simp [SMap.set]
  | cons c t ih =>
    obtain ⟨k, u⟩ := c
    rcases Nat.lt_trichotomy i k with h | h | h
    · simp [SMap.set, h]
    · simp [SMap.set, h]
    · simp [SMap.set, Nat.lt_asymm h, Nat.ne_of_gt h, ih]

theorem setEngine_setEngine (s : State) (e : Nat) (x y : Engine) : (s.setEngine e x).setEngine e y = s.setEngine e y := by
  simp [State.setEngine, SMap.set_set]

/-- One change made to the committed core and to the open bundle's view alike. -/
def Engine.onCores (en : Engine) (f : Core → Core) : Engine := { en with core := f en.core, snap := f en.snap }

/-- An engine keeps its open bundle where the engines stay as they are, and its work item keeps its group size and its engines. -/
theorem bundleOpen_of_eng {s t : State} {e : Nat} (h : s.bundleOpen e) (heng : t.eng = s.eng)
    (hhdr : (t.item (s.engine e).item).hdr = (s.item (s.engine e).item).hdr)
    (hengines : (t.item (s.engine e).item).engines = (s.item (s.engine e).item).engines) : t.bundleOpen e := by
  have hen : t.engine e = s.engine e := by rw [State.engine, heng, State.engine]
  obtain ⟨hgroup, hclosed, hbubbles⟩ := h
  refine ⟨?_, hen ▸ hclosed, hen ▸ hbubbles⟩
  rw [← hgroup]
  simp only [State.group, hen, hhdr, hengines]

/-- Noting a status leaves every work item its header and its engines. -/
theorem addStatus_place (s : State) (it st ev j : Nat) :
    ((s.addStatus it st ev).item j).hdr = (s.item j).hdr ∧ ((s.addStatus it st ev).item j).engines = (s.item j).engines := by
  unfold State.addStatus
  split
  · exact ⟨rfl, rfl⟩
  · split
    · exact ⟨rfl, rfl⟩
    · next w hw =>
      by_cases hj : j = it
      · subst hj
        have hitem : s.item j = w := by simp [State.item, SMap.get, hw]
        rw [item_setItem_same, hitem]
        exact ⟨rfl, rfl⟩
      · rw [item_setItem_ne _ _ _ _ hj]
        exact ⟨rfl, rfl⟩

end Sys2Proof.Machine
end

section
/-! SUPPORT. A block checker's verdict and the XOPEN that waits for it (R261 to R263). -/

namespace Sys2Proof.Machine

/-! ### Contexts -/

@[simp] theorem x_setX_same (c : Core) (i : Nat) (x : XCtx) : (c.setX i x).x i = x := by
  unfold Core.setX Core.x
  split <;> rfl

@[simp] theorem setX_kaolin (c : Core) (i : Nat) (x : XCtx) : (c.setX i x).kaolin = c.kaolin := by
  unfold Core.setX
  split <;> rfl

@[simp] theorem x_poisonTile (c : Core) (t m i : Nat) : (c.poisonTile t m).x i = c.x i := by
  unfold Core.poisonTile
  dsimp only
  split <;> rfl

/-- A block failure fails its context, whichever tiles have read the block (R263). -/
theorem failBlock_failed (c : Core) (xc rows mark : Nat) : ((c.failBlock xc rows mark).x xc).failed = true := by
  have hx : ∀ (l : List Nat) (c : Core), (l.foldl (fun c t => c.poisonTile t mark) c).x xc = c.x xc := by
    intro l
    induction l with
    | nil => exact fun _ => rfl
    | cons t l ih => exact fun c => (ih _).trans (x_poisonTile ..)
  rw [Core.failBlock, hx, x_setX_same]

/-- The checker of a context is done. -/
def Core.checked (c : Core) (xc : Nat) : Core := c.setX xc { c.x xc with checking := false }

/-- Over a spotless Kaolin store the checker's reads of the rest of its block change nothing (R261, R285). -/
theorem checkRest_of_spotless {en : Engine} (hcore : en.core.kaolin.spotless) (hsnap : en.snap.kaolin.spotless) (free xc : Nat) :
    en.checkRest free xc = en := by
  have hread : ∀ (c : Core), c.kaolin.spotless → ∀ l : List Nat,
      l.foldl (fun (e : Engine) r => e.tookRead .kaolin (Store.read e.core.kaolin .kaolin free (256 * r) 256)) { core := c } = { core := c } := by
    intro c hc l
    induction l with
    | nil => rfl
    | cons r l ih =>
      have htook : ({ core := c } : Engine).tookRead .kaolin (Store.read c.kaolin .kaolin free (256 * r) 256) = { core := c } :=
        tookRead_of_spotless hc ..
      rw [List.foldl_cons, htook, ih]
  unfold Engine.checkRest
  simp [hread _ hcore, hread _ hsnap]

/-! ### The verdict -/

/-- The state after the checker of a context has read the rest of its block, which counts and reports what it met. -/
def State.checkerReads (s : State) (e xc : Nat) : State :=
  let en := (s.engine e).checkRest s.freeCtr xc
  (s.setEngine e { en with staged := (s.engine e).staged }).stageAll e (en.staged.drop (s.engine e).staged.length)

/-- The first bytes of the checker's block; `s0` is the state after its reads, here and below. -/
def State.blockHead (s s0 : State) (e xc : Nat) : Bytes :=
  Memory.readN ((s0.engine e).snap.kaolin.dirty s.freeCtr) ((s.engine e).snap.x xc).base 512

/-- The fault that the checker finds; in a block that failed before it finds none (R262, R263). -/
def State.blockFault (s s0 : State) (e xc : Nat) : Option (Nat × Nat) :=
  let x := (s.engine e).snap.x xc
  if x.failed then none else checkBlock ((s0.engine e).snap.kaolin.dirty s.freeCtr) (s.blockHead s0 e xc) x.base

/-- The checker's block fails (R263). -/
def State.failedEngine (s s0 : State) (e xc : Nat) : Engine :=
  (s0.engine e).onCores (fun c => (c.failBlock xc (blockRows (field (s.blockHead s0 e xc) 8 4) ((s.engine e).snap.x xc).extent) 1).checked xc)

/-- A block failure is counted, noted in its work item and reported (R263). -/
def State.reportsBlock (s : State) (e item : Nat) (tenant : Option Nat) (det : List (Nat × Nat)) : State :=
  ((s.count (engOff e oXP_FAIL) 1).addStatus item stDECODE_ERROR 0x2001).raise 0x2001 0 tenant det

/-- The state after the checker's verdict: a good block is checked, a failed one is counted and reported besides (R261, R263). -/
def State.verdict (s s0 : State) (e xc : Nat) : State :=
  let en := s0.engine e
  let x := (s.engine e).snap.x xc
  match s.blockFault s0 e xc with
  | none => s0.setEngine e (en.onCores (·.checked xc))
  | some (sub, chk) =>
    (s0.setEngine e (s.failedEngine s0 e xc)).reportsBlock e en.item (some (s.item en.item).tenant)
      [(1, e), (4, x.base), (4, x.tensorTag), (4, x.blockIndex), (1, sub), (1, chk)]

/-- The block of an XOPEN that waits for the checker of a context. -/
def Engine.waitingBlock (en : Engine) (xc : Nat) : Option XCtx :=
  en.hold.findSome? (fun q => match q with | .checker c y => if c = xc then some y else none | _ => none)

/-- The XOPEN that waited for a checker opens its block (R261). -/
def State.opensWaiting (s : State) (e xc : Nat) (y : XCtx) : State :=
  let en := s.engine e
  s.setEngine e { en.onCores (·.setX xc y) with hold := en.hold.filter (fun q => decide (q ≠ .checker xc y)) }

/-- A checker that runs reads the rest of its block and gives its verdict; an XOPEN that waits for it then opens its block, and its stall ends (R261). -/
theorem exec_checkerDone {s : State} {e : EngId} {xc : Fin 2} (cycles : Nat) (hx : ((s.engine e).snap.x xc).checking = true) :
    exec (.checkerDone e xc cycles) s =
      match ((s.checkerReads e xc).engine e).waitingBlock xc with
      | none => .next (s.verdict (s.checkerReads e xc) e xc)
      | some y => .next ((((s.verdict (s.checkerReads e xc) e xc).opensWaiting e xc y).holdEnds e oSTALL_QUEUE cycles false).settle e 16) := by
  show execCheckerDone e xc cycles s = _
  unfold execCheckerDone
  rw [if_neg (by rw [hx]; decide)]
  rfl

/-- Over a spotless Kaolin store the reads change nothing (R261, R285). -/
theorem checkerReads_of_spotless {s : State} {e : Nat} (hcore : (s.engine e).core.kaolin.spotless) (hsnap : (s.engine e).snap.kaolin.spotless) (xc : Nat) :
    s.checkerReads e xc = s.setEngine e (s.engine e) := by
  rw [State.checkerReads, checkRest_of_spotless hcore hsnap, List.drop_length]
  rfl

/-- The fault of the block that a context checks, by the bytes that stand in the store (R262). -/
def Engine.storedFault (en : Engine) (xc : Nat) : Option (Nat × Nat) :=
  checkBlock en.snap.kaolin.data (Memory.readN en.snap.kaolin.data (en.snap.x xc).base 512) (en.snap.x xc).base

/-- Over a spotless Kaolin store the checker judges the bytes that stand in it. -/
theorem blockFault_of_spotless {s : State} {e : Nat} (hsnap : (s.engine e).snap.kaolin.spotless) {xc : Nat}
    (hopen : ((s.engine e).snap.x xc).failed = false) :
    s.blockFault (s.setEngine e (s.engine e)) e xc = (s.engine e).storedFault xc := by
  simp [State.blockFault, State.blockHead, Engine.storedFault, hopen, dirty_of_noErrs hsnap.1]

/-! ### What a verdict leaves -/

theorem reportsBlock_eng (s : State) (e item : Nat) (tenant : Option Nat) (det : List (Nat × Nat)) : (s.reportsBlock e item tenant det).eng = s.eng := by
  obtain ⟨m, hm⟩ := addStatus_only (s.count (engOff e oXP_FAIL) 1) item stDECODE_ERROR 0x2001
  rw [State.reportsBlock, eventOnly_eng (raise_eventOnly ..), hm]
  rfl

theorem reportsBlock_keepsData (s : State) (e item : Nat) (tenant : Option Nat) (det : List (Nat × Nat)) :
    s.keepsData (s.reportsBlock e item tenant det) := by
  obtain ⟨m, hm⟩ := addStatus_only (s.count (engOff e oXP_FAIL) 1) item stDECODE_ERROR 0x2001
  have hstatus : s.keepsData ((s.count (engOff e oXP_FAIL) 1).addStatus item stDECODE_ERROR 0x2001) := by
    rw [hm]
    exact ⟨rfl, rfl, rfl, rfl, rfl⟩
  exact keepsData_trans hstatus (eventOnly_keepsData (raise_eventOnly ..))

/-- The failure counter of an engine goes up (R263). -/
theorem reportsBlock_counted {s : State} (h : s.canonical) (e : EngId) (item : Nat) (tenant : Option Nat) (det : List (Nat × Nat)) :
    s.counted (s.reportsBlock e item tenant det) (engOff e oXP_FAIL) 1 := by
  obtain ⟨m, hm⟩ := addStatus_only (s.count (engOff e oXP_FAIL) 1) item stDECODE_ERROR 0x2001
  have hoff : engOff e oXP_FAIL ≠ rEVENT_LOST := by simp only [engOff, oXP_FAIL, rEVENT_LOST]; omega
  have hreg : (s.reportsBlock e item tenant det).reg (engOff e oXP_FAIL) = (s.count (engOff e oXP_FAIL) 1).reg (engOff e oXP_FAIL) := by
    rw [State.reportsBlock, raise_reg _ _ _ _ _ hoff, hm]
    rfl
  rw [State.counted, hreg]
  exact counted_count h ..

theorem reportsBlock_bundleOpen {s : State} {e : Nat} (h : s.bundleOpen e) (item : Nat) (tenant : Option Nat) (det : List (Nat × Nat)) :
    (s.reportsBlock e item tenant det).bundleOpen e := by
  obtain ⟨hhdr, hengines⟩ := addStatus_place (s.count (engOff e oXP_FAIL) 1) item stDECODE_ERROR 0x2001 (s.engine e).item
  have hitem : (s.reportsBlock e item tenant det).item (s.engine e).item =
      ((s.count (engOff e oXP_FAIL) 1).addStatus item stDECODE_ERROR 0x2001).item (s.engine e).item := by
    rw [State.item, State.reportsBlock, eventOnly_items (raise_eventOnly ..), State.item]
  exact bundleOpen_of_eng h (reportsBlock_eng ..) (hitem ▸ hhdr) (hitem ▸ hengines)

theorem verdict_keepsData (s s0 : State) (e xc : Nat) : s0.keepsData (s.verdict s0 e xc) := by
  unfold State.verdict
  dsimp only
  split
  · exact setEngine_keepsData ..
  · exact keepsData_trans (setEngine_keepsData ..) (reportsBlock_keepsData ..)

/-- A verdict leaves the open bundle of its engine open. -/
theorem verdict_bundleOpen (s : State) {s0 : State} {e : Nat} (h : s0.bundleOpen e) (xc : Nat) : (s.verdict s0 e xc).bundleOpen e := by
  unfold State.verdict
  dsimp only
  split
  · exact bundleOpen_setEngine h _ rfl rfl rfl rfl
  · exact reportsBlock_bundleOpen (bundleOpen_setEngine h (s.failedEngine s0 e xc) rfl rfl rfl rfl) ..

/-- A verdict says nothing of what the engine waits for. -/
theorem verdict_hold (s s0 : State) (e xc : Nat) : ((s.verdict s0 e xc).engine e).hold = (s0.engine e).hold := by
  unfold State.verdict
  dsimp only
  split
  · rw [engine_setEngine_same]; rfl
  · rw [State.engine, reportsBlock_eng, ← State.engine, engine_setEngine_same]; rfl

/-! ### The command, over a spotless Kaolin store -/

section

variable {s : State} {e : EngId} {xc : Fin 2} (cycles : Nat) (hx : ((s.engine e).snap.x xc).checking = true)
  (hcore : (s.engine e).core.kaolin.spotless) (hsnap : (s.engine e).snap.kaolin.spotless)

include hx hcore hsnap

/-- Where nothing waits for the checker, its command gives the verdict. -/
theorem exec_checkerDone_unawaited (hhold : (s.engine e).hold = []) :
    exec (.checkerDone e xc cycles) s = .next (s.verdict (s.setEngine e (s.engine e)) e xc) := by
  have hwait : (s.engine e).waitingBlock xc = none := by rw [Engine.waitingBlock, hhold]; rfl
  rw [exec_checkerDone cycles hx, checkerReads_of_spotless hcore hsnap, engine_setEngine_same, hwait]

/-- A checker that finds no fault leaves its context's block good (R261, R262). -/
theorem checkerDone_good (hopen : ((s.engine e).snap.x xc).failed = false) (hhold : (s.engine e).hold = [])
    (hgood : (s.engine e).storedFault xc = none) :
    ∃ t, exec (.checkerDone e xc cycles) s = .next t ∧ s.keepsData t ∧
      (t.engine e).snap.x xc = { (s.engine e).snap.x xc with checking := false } ∧ (t.engine e).core.kaolin = (s.engine e).core.kaolin := by
  have hen : (s.verdict (s.setEngine e (s.engine e)) e xc).engine e = (s.engine e).onCores (·.checked xc) := by
    rw [State.verdict, blockFault_of_spotless hsnap hopen, hgood, engine_setEngine_same, engine_setEngine_same]
  refine ⟨_, exec_checkerDone_unawaited cycles hx hcore hsnap hhold, keepsData_trans (setEngine_keepsData ..) (verdict_keepsData ..), ?_, ?_⟩
  · rw [hen]
    exact x_setX_same ..
  · rw [hen]
    exact setX_kaolin ..

/-- A checker that finds a fault fails the block and counts it (R262, R263). -/
theorem checkerDone_bad (hopen : ((s.engine e).snap.x xc).failed = false) (hhold : (s.engine e).hold = []) {sub chk : Nat}
    (hbad : (s.engine e).storedFault xc = some (sub, chk)) (hc : s.canonical) :
    ∃ t, exec (.checkerDone e xc cycles) s = .next t ∧ s.keepsData t ∧ s.counted t (engOff e oXP_FAIL) 1 ∧
      ((t.engine e).snap.x xc).checking = false ∧ ((t.engine e).snap.x xc).failed = true := by
  obtain ⟨s0, hs0⟩ : ∃ s0, s0 = s.setEngine e (s.engine e) := ⟨_, rfl⟩
  obtain ⟨item, tenant, det, hverdict⟩ : ∃ item tenant det,
      s.verdict s0 e xc = (s0.setEngine e (s.failedEngine s0 e xc)).reportsBlock e item tenant det := by
    rw [State.verdict, hs0, blockFault_of_spotless hsnap hopen, hbad]
    exact ⟨_, _, _, rfl⟩
  have hen : (s.verdict s0 e xc).engine e = s.failedEngine s0 e xc := by
    rw [hverdict, State.engine, reportsBlock_eng, ← State.engine, engine_setEngine_same]
  have hfailed : ((s.failedEngine s0 e xc).snap.x xc).checking = false ∧ ((s.failedEngine s0 e xc).snap.x xc).failed = true := by
    simp [State.failedEngine, Engine.onCores, Core.checked, failBlock_failed]
  refine ⟨s.verdict s0 e xc, hs0 ▸ exec_checkerDone_unawaited cycles hx hcore hsnap hhold,
    keepsData_trans (hs0 ▸ setEngine_keepsData ..) (verdict_keepsData ..), ?_, by rwa [hen]⟩
  rw [hverdict, hs0]
  exact reportsBlock_counted (canonical_setEngine (canonical_setEngine hc ..) ..) ..

/-- After the checker's verdict, whichever it is, the XOPEN that waited for it has opened its block, and nothing holds the engine (R261). -/
theorem checkerDone_opens {y : XCtx} (hhold : (s.engine e).hold = [.checker xc y]) (ho : s.bundleOpen e) :
    ∃ t, exec (.checkerDone e xc cycles) s = .next t ∧ s.keepsData t ∧ (t.engine e).snap.x xc = y ∧ (t.engine e).hold = [] := by
  obtain ⟨v, hv⟩ : ∃ v, v = s.verdict (s.setEngine e (s.engine e)) e xc := ⟨_, rfl⟩
  have hvopen : v.bundleOpen e := hv ▸ verdict_bundleOpen s (bundleOpen_setEngine ho _ rfl rfl rfl rfl) xc
  have hvhold : (v.engine e).hold = [.checker xc y] := by rw [hv, verdict_hold, engine_setEngine_same, hhold]
  have hopen : (v.opensWaiting e xc y).bundleOpen e := bundleOpen_setEngine hvopen _ rfl rfl rfl rfl
  have hwait : (s.engine e).waitingBlock xc = some y := by simp [Engine.waitingBlock, hhold]
  have hexec : exec (.checkerDone e xc cycles) s = .next ((v.opensWaiting e xc y).holdEnds e oSTALL_QUEUE cycles false) := by
    rw [exec_checkerDone cycles hx, checkerReads_of_spotless hcore hsnap, engine_setEngine_same, hwait, ← hv]
    exact congrArg _ (settle_of_bundleOpen (bundleOpen_holdEnds hopen ..) 16)
  have hvdata : s.keepsData v := hv ▸ keepsData_trans (setEngine_keepsData ..) (verdict_keepsData ..)
  refine ⟨_, hexec, keepsData_trans hvdata (keepsData_trans (setEngine_keepsData ..) (holdEnds_keepsData hopen.1 ..)), ?_, ?_⟩
  · rw [engine_holdEnds hopen.1, State.opensWaiting, engine_setEngine_same]
    exact x_setX_same ..
  · rw [engine_holdEnds hopen.1, State.opensWaiting, engine_setEngine_same]
    simp [Engine.stallOver, hvhold]

end

end Sys2Proof.Machine
end

section
/-! SUPPORT. Obligation O28: write-backs of corrected words, block checkers and the scrub of the Kaolin store (R261 to R263, R285, R290). -/

namespace Sys2Proof.Machine

/-! ### Write-backs (R285) -/

/-- A pending write-back makes its word clean and drops out of the list. -/
theorem writeBack_of_pending {st : Store} {word : Nat} (h : st.wb.contains word = true) :
    st.writeBack word = { st with wb := st.wb.filter (· != word), errs := SMap.erase st.errs word } := if_pos h

theorem kaolinWriteback_cleans {s : State} {e : EngId} {word : Nat} (h : (s.engine e).core.kaolin.wb.contains word = true) :
    ∃ t, exec (.kaolinWriteback e false word) s = .next t ∧ s.keepsData t ∧
      (t.engine e).core.kaolin = { (s.engine e).core.kaolin with
        wb := (s.engine e).core.kaolin.wb.filter (· != word), errs := SMap.erase (s.engine e).core.kaolin.errs word } ∧
      (t.engine e).core.loam = (s.engine e).core.loam := by
  refine ⟨_, rfl, setEngine_keepsData .., ?_, ?_⟩
  · rw [engine_setEngine_same]
    exact writeBack_of_pending h
  · rw [engine_setEngine_same]
    rfl

/-! ### Reads from outside the engine (R270, R275, R285) -/

/-- `t` is what reads of engine `e` left of `s` that changed neither the engine nor a register. -/
def State.readsOnly (e : Nat) (s t : State) : Prop := s.keepsData t ∧ t.regs = s.regs ∧ t.engine e = s.engine e

theorem readsOnly_trans {e : Nat} {s t u : State} (h : State.readsOnly e s t) (k : State.readsOnly e t u) : State.readsOnly e s u := by
  obtain ⟨hdata, hregs, hen⟩ := h
  obtain ⟨kdata, kregs, ken⟩ := k
  exact ⟨keepsData_trans hdata kdata, kregs.trans hregs, ken.trans hen⟩

/-- An engine whose store has been read from outside: committed store and the open bundle's view take what the read leaves (R285). -/
def Engine.extTook (en : Engine) (id : StoreId) (r : Rd) : Engine := en.onCores (fun c => c.setStore id ((c.store id).afterRead id r))

theorem extTook_of_noWords (en : Engine) (id : StoreId) {r : Rd} (hwords : r.words = []) (hrows : r.rows = []) : en.extTook id r = en := by
  simp only [Engine.extTook, Engine.onCores, afterRead_of_noWords _ _ hwords hrows, setStore_store]

/-- The state after one unit of 32 bytes has been read from outside without a race. -/
def State.unitRead (s : State) (e : Nat) (id : StoreId) (a : Nat) : State :=
  let r := Store.read ((s.engine e).snap.store id) id s.freeCtr a 32
  let s1 := s.setEngine e ((s.engine e).extTook id r)
  ({ s1 with freeCtr := s1.freeCtr + 65536 } : State).stageAll e (eccStaged id r.corrected r.ue)

theorem extUnits_succ_of_noRace {s : State} {e : Nat} {id : StoreId} {a : Nat} (h : (s.engine e).races id a (a + 32) false = false) (n : Nat) :
    (s.extUnits e id a (n + 1)).2 = ((s.unitRead e id a).extUnits e id (a + 32) n).2 := by
  rw [State.extUnits]
  dsimp only
  rw [h]
  rfl

/-- A unit read from a store without errors corrects nothing. -/
theorem unitRead_readsOnly {s : State} {e : Nat} (h : (s.engine e).snap.kaolin.errs = []) (a : Nat) : State.readsOnly e s (s.unitRead e .kaolin a) := by
  rw [State.unitRead, Core.store, read_of_noErrs h, extTook_of_noWords _ _ rfl rfl]
  exact ⟨⟨rfl, rfl, rfl, rfl, rfl⟩, rfl, engine_setEngine_same s e (s.engine e)⟩

/-- External reads of a Kaolin store without errors, beside an engine that has issued nothing, meet no race and correct nothing. -/
theorem extUnits_readsOnly (e n : Nat) (s : State) (a : Nat) (hsnap : (s.engine e).snap.kaolin.errs = []) (hissued : (s.engine e).issued = []) :
    State.readsOnly e s (s.extUnits e .kaolin a n).2 := by
  induction n generalizing s a with
  | zero => exact ⟨⟨rfl, rfl, rfl, rfl, rfl⟩, rfl, rfl⟩
  | succ n ih =>
    have hrace : (s.engine e).races .kaolin a (a + 32) false = false := by simp [Engine.races, hissued]
    obtain ⟨hdata, hregs, hen⟩ := unitRead_readsOnly hsnap a
    rw [extUnits_succ_of_noRace hrace]
    exact readsOnly_trans ⟨hdata, hregs, hen⟩ (ih _ _ (hen ▸ hsnap) (hen ▸ hissued))

/-- Accesses from outside to an engine's stores in the cycle at hand. -/
def Engine.extNow (en : Engine) (now : Nat) : List (StoreId × Nat × Nat) := if en.extAt = (now, en.core.pos) then en.extAcc else []

/-- An engine with an access of scrub noted. -/
def Engine.scrubAccess (en : Engine) (now row : Nat) : Engine :=
  { en with extAt := (now, en.core.pos), extAcc := en.extNow now ++ [(.kaolin, bankOf .kaolin row, srcScrub)] }

/-- Where no access from outside is at its bank, scrub has the bank at once: the engine notes the access and nothing is counted (R273, R290). -/
theorem extBank_of_free {s : State} {e row : Nat} (h : s.extBusy e .kaolin row = false) :
    s.extBank e srcScrub .kaolin row = s.setEngine e ((s.engine e).scrubAccess s.now row) := by
  have hnone : ((s.engine e).extNow s.now).filter (fun x => decide (x.1 = .kaolin ∧ x.2.1 = bankOf .kaolin row ∧ x.2.2 ≠ srcScrub)) = [] := by
    unfold Engine.extNow
    split
    · next hnow =>
      rw [List.filter_eq_nil_iff]
      simpa [State.extBusy, hnow] using h
    · rfl
  have hlength := congrArg List.length hnone
  exact if_pos hlength

theorem rowsOf_row (row : Nat) : rowsOf (256 * row) (32 * 8) = [row] := by
  have hlast : (256 * row + 32 * 8 - 1) / 256 - 256 * row / 256 + 1 = 1 := by omega
  rw [rowsOf, if_neg (by decide), hlast]
  simp

/-! ### Scrub (R290, R291) -/

/-- The scrub position of an engine: the next row, and the passes done. -/
def scrubOff (e : Nat) : Nat := engOff e 0x178

theorem scrubOff_ne (e : EngId) : scrubOff e ≠ rEVENT_LOST := by simp only [scrubOff, engOff, rEVENT_LOST]; omega

/-- Words of a row that scrub corrects. -/
def Engine.scrubFinds (en : Engine) (row : Nat) : SMap Nat :=
  (en.snap.kaolin.errs.filter (fun kv => decide (8 * row ≤ kv.1 ∧ kv.1 < 8 * row + 8))).filter (fun kv => decide (eccClass .kaolin (popcount 256 kv.2) 0 = 1))

/-- The engine after scrub has corrected words of a row. -/
def Engine.scrubbed (en : Engine) (row : Nat) (fixed : SMap Nat) : Engine :=
  { en.onCores (fun c => { c with kaolin := fixed.foldl (fun st kv => st.writeBack kv.1) c.kaolin }) with
    scrubCe := if fixed.isEmpty then en.scrubCe else en.scrubCe ++ [(row, fixed.length)] }

/-- The scrub position after a pass: the first row again, one pass more, and the words that the pass corrected. -/
def State.passCounted (s : State) (e n : Nat) : State :=
  ((s.setField (scrubOff e) 0 13 0).setField (scrubOff e) 16 16 (s.getField (scrubOff e) 16 16 + 1)).setField (scrubOff e) 32 16 (satN 16 n)

/-- The state after the last row of a pass: the pass is counted, and reported where more words were corrected than the limit allows (R291). -/
def State.closePass (s : State) (e : Nat) (ce : List (Nat × Nat)) : State :=
  let n := (ce.map (·.2)).sum
  let lim := s.getField (engOff e oSTORE_CTRL) 16 8
  let s3 := s.passCounted e n
  let s4 := (s3.setEngine e { s3.engine e with scrubCe := [] }).bgDone 0 e
  if lim ≠ 0 ∧ lim < n then s4.raise 0x3101 0 none ((1, e) :: (4, n) :: (worstRows ce).map (fun r => (2, r))) else s4

/-- Scrub that may run, at a row whose bank is free, reads and corrects the row and goes on (R290). -/
theorem exec_kaolinScrub {s : State} {e : EngId} {row : Nat} (hst : (s.engine e).st ≠ .clearing)
    (hoff : s.getField (0x10100 + 8 * (e.val / 24)) 32 3 ≠ 4) (hrow : s.getField (scrubOff e) 0 13 = row) (hfree : s.extBusy e .kaolin row = false) :
    exec (.kaolinScrub e) s =
      let s1 := (s.extRead e srcScrub .kaolin (256 * row) 8).2
      let x := (s1.engine e).scrubbed row ((s.engine e).scrubFinds row)
      if row < 8191 then .next ((s1.setEngine e x).setField (scrubOff e) 0 13 (row + 1)) else .next ((s1.setEngine e x).closePass e x.scrubCe) := by
  show execKaolinScrub e s = _
  unfold execKaolinScrub
  rw [if_neg (by simp [hst, hoff]), ← scrubOff, hrow, if_neg (by simp [hfree])]
  -- how far the read of the row goes is of no matter here
  rcases s.extRead e srcScrub .kaolin (256 * row) 8 with ⟨units, s1⟩
  rfl

/-- Where no word of the store is in error, the read of a row leaves the engine's cores as they were, and no register changes. -/
theorem scrubRead_frame {s : State} {e row : Nat} (hsnap : (s.engine e).snap.kaolin.errs = []) (hissued : (s.engine e).issued = [])
    (hfree : s.extBusy e .kaolin row = false) :
    let s1 := (s.extRead e srcScrub .kaolin (256 * row) 8).2
    s.keepsData s1 ∧ s1.regs = s.regs ∧ (s1.engine e).core = (s.engine e).core := by
  obtain ⟨x, hx⟩ : ∃ x, x = (s.engine e).scrubAccess s.now row := ⟨_, rfl⟩
  have hen : (s.setEngine e x).engine e = x := engine_setEngine_same ..
  have hread : (s.extRead e srcScrub .kaolin (256 * row) 8).2 = ((s.setEngine e x).extUnits e .kaolin (256 * row) 8).2 := by
    rw [State.extRead, rowsOf_row, State.extBanks, List.foldl_cons, List.foldl_nil, extBank_of_free hfree, hx]
  obtain ⟨hdata, hregs, hengine⟩ := extUnits_readsOnly e 8 (s.setEngine e x) (256 * row) (by rw [hen, hx]; exact hsnap) (by rw [hen, hx]; exact hissued)
  dsimp only
  rw [hread]
  exact ⟨keepsData_trans (setEngine_keepsData ..) hdata, hregs, by rw [hengine, hen, hx]; rfl⟩

theorem engine_setField (s : State) (off lo len x e : Nat) : (s.setField off lo len x).engine e = s.engine e := rfl

theorem setField_keepsData (s : State) (off lo len x : Nat) : s.keepsData (s.setField off lo len x) := setReg_keepsData ..

theorem passCounted_frame (s : State) (e n : Nat) : s.keepsData (s.passCounted e n) ∧ (s.passCounted e n).engine e = s.engine e := by
  refine ⟨keepsData_trans (keepsData_trans (setField_keepsData ..) (setField_keepsData ..)) (setField_keepsData ..), ?_⟩
  rw [State.passCounted, engine_setField, engine_setField, engine_setField]

theorem setEngine_keepsReg (o : Nat) (s : State) (e : Nat) (x : Engine) : State.keepsReg o s (s.setEngine e x) := ⟨setEngine_keepsData .., rfl⟩

theorem bgDone_keepsReg (o : Nat) (s : State) (a u : Nat) : State.keepsReg o s (s.bgDone a u) := ⟨⟨rfl, rfl, rfl, rfl, rfl⟩, rfl⟩

theorem engine_bgDone (s : State) (a u e : Nat) : (s.bgDone a u).engine e = s.engine e := rfl

/-- Closing a pass leaves of the state what counting it leaves, in the data, in the scrub position and in the engine's cores. -/
theorem closePass_frame {s : State} (e : EngId) (ce : List (Nat × Nat)) :
    ∃ n, State.keepsReg (scrubOff e) (s.passCounted e n) (s.closePass e ce) ∧ ((s.closePass e ce).engine e).core = (s.engine e).core := by
  refine ⟨(ce.map (·.2)).sum, ?_⟩
  unfold State.closePass
  generalize (ce.map (·.2)).sum = n
  obtain ⟨-, hen⟩ := passCounted_frame s e n
  obtain ⟨c, hc⟩ : ∃ c, c = ((s.passCounted e n).setEngine e { (s.passCounted e n).engine e with scrubCe := [] }).bgDone 0 e := ⟨_, rfl⟩
  have hreg : State.keepsReg (scrubOff e) (s.passCounted e n) c := hc ▸ keepsReg_trans (setEngine_keepsReg ..) (bgDone_keepsReg ..)
  have hcore : (c.engine e).core = (s.engine e).core := by rw [hc, engine_bgDone, engine_setEngine_same, hen]
  dsimp only
  rw [← hc]
  split
  · refine ⟨keepsReg_trans hreg (raise_keepsReg (scrubOff_ne e) ..), ?_⟩
    rw [State.engine, eventOnly_eng (raise_eventOnly ..), ← State.engine, hcore]
  · exact ⟨hreg, hcore⟩

/-- After a pass the position is the first row again, and one pass more is counted. -/
theorem passCounted_fields {s : State} (h : s.canonical) (e n : Nat) :
    (s.passCounted e n).getField (scrubOff e) 0 13 = 0 ∧
    (s.passCounted e n).getField (scrubOff e) 16 16 = (s.getField (scrubOff e) 16 16 + 1) % 2 ^ 16 := by
  have h1 : (s.setField (scrubOff e) 0 13 0).canonical := canonical_setField h ..
  have h2 : ((s.setField (scrubOff e) 0 13 0).setField (scrubOff e) 16 16 (s.getField (scrubOff e) 16 16 + 1)).canonical := canonical_setField h1 ..
  constructor
  · rw [State.passCounted, getField_setField_disjoint h2 _ _ _ _ _ _ (by decide) (by decide),
      getField_setField_disjoint h1 _ _ _ _ _ _ (by decide) (by decide), getField_setField_same h _ _ _ _ (by decide), Nat.zero_mod]
  · rw [State.passCounted, getField_setField_disjoint h2 _ _ _ _ _ _ (by decide) (by decide), getField_setField_same h1 _ _ _ _ (by decide)]

/-- A scrub of a row without errors goes on to the next row, and after the last counts a pass and begins again (R290). -/
theorem kaolinScrub_goesOn {s : State} {e : EngId} {row : Nat} (hst : (s.engine e).st ≠ .clearing)
    (hoff : s.getField (0x10100 + 8 * (e.val / 24)) 32 3 ≠ 4) (hsnap : (s.engine e).snap.kaolin.errs = []) (hissued : (s.engine e).issued = [])
    (hc : s.canonical) (hrow : s.getField (scrubOff e) 0 13 = row) (hfree : s.extBusy e .kaolin row = false) :
    ∃ t, exec (.kaolinScrub e) s = .next t ∧ s.keepsData t ∧ (t.engine e).core = (s.engine e).core ∧
      (row < 8191 → t.getField (scrubOff e) 0 13 = row + 1 ∧ t.getField (scrubOff e) 16 16 = s.getField (scrubOff e) 16 16) ∧
      (row = 8191 → t.getField (scrubOff e) 0 13 = 0 ∧ t.getField (scrubOff e) 16 16 = (s.getField (scrubOff e) 16 16 + 1) % 2 ^ 16) := by
  have hexec := exec_kaolinScrub hst hoff hrow hfree
  obtain ⟨hdata, hregs, hcore⟩ := scrubRead_frame hsnap hissued hfree
  have hfinds : (s.engine e).scrubFinds row = [] := by simp [Engine.scrubFinds, hsnap]
  rw [hfinds] at hexec
  generalize (s.extRead e srcScrub .kaolin (256 * row) 8).2 = s1 at hexec hdata hregs hcore
  -- no word was corrected: the engine stays as the read left it
  obtain ⟨s2, hs2⟩ : ∃ s2, s2 = s1.setEngine e ((s1.engine e).scrubbed row []) := ⟨_, rfl⟩
  have hdata2 : s.keepsData s2 := hs2 ▸ keepsData_trans hdata (setEngine_keepsData ..)
  have hcore2 : (s2.engine e).core = (s.engine e).core := by
    rw [hs2, engine_setEngine_same, ← hcore]
    rfl
  have hregs2 : s2.regs = s.regs := hs2 ▸ hregs
  have hc2 : s2.canonical := canonical_same hc (congrArg (·.data) hdata2.1) hregs2
  have hfield : ∀ lo len, s2.getField (scrubOff e) lo len = s.getField (scrubOff e) lo len := fun lo len => by
    rw [State.getField, State.reg, hregs2, ← State.reg, ← State.getField]
  dsimp only at hexec
  rw [← hs2] at hexec
  by_cases hlast : row < 8191
  · rw [if_pos hlast] at hexec
    refine ⟨_, hexec, keepsData_trans hdata2 (setField_keepsData ..), hcore2, fun _ => ⟨?_, ?_⟩, fun h => absurd h (Nat.ne_of_lt hlast)⟩
    · rw [getField_setField_same hc2 _ _ _ _ (by decide), Nat.mod_eq_of_lt (by omega)]
    · rw [getField_setField_disjoint hc2 _ _ _ _ _ _ (by decide) (by decide), hfield]
  · rw [if_neg hlast] at hexec
    obtain ⟨n, hreg, hcore3⟩ := closePass_frame (s := s2) e ((s1.engine e).scrubbed row []).scrubCe
    obtain ⟨hfirst, hpasses⟩ := passCounted_fields hc2 e n
    refine ⟨_, hexec, keepsData_trans hdata2 (keepsData_trans (passCounted_frame s2 e n).1 hreg.1), hcore3.trans hcore2,
      fun h => absurd h hlast, fun _ => ⟨?_, ?_⟩⟩
    · rw [getField_of_keepsReg hreg, hfirst]
    · rw [getField_of_keepsReg hreg, hpasses, hfield]

/-! ### The obligation -/

/-- Settles O28: over a Kaolin store without errors the reads of checker and scrub change nothing, so what each command leaves is its verdict or its
next row. -/
theorem writeBacksCheckersAndScrub : Obligations.WriteBacksCheckersAndScrub := by
  unfold Obligations.WriteBacksCheckersAndScrub
  intro s e
  refine ⟨fun _ hwb _ => kaolinWriteback_cleans hwb, ?_, fun hst hoff hsnap _ hissued hc hfree => kaolinScrub_goesOn hst hoff hsnap hissued hc rfl hfree⟩
  rintro xc cycles x hx ⟨hcoreErrs, hsnapErrs, hcoreMarks, hsnapMarks⟩
  have hcore : (s.engine e).core.kaolin.spotless := ⟨hcoreErrs, hcoreMarks⟩
  have hsnap : (s.engine e).snap.kaolin.spotless := ⟨hsnapErrs, hsnapMarks⟩
  exact ⟨fun hopen hhold => ⟨checkerDone_good cycles hx hcore hsnap hopen hhold,
      fun _ _ hbad hc => checkerDone_bad cycles hx hcore hsnap hopen hhold hbad hc⟩,
    fun _ hhold ho => checkerDone_opens cycles hx hcore hsnap hhold ho⟩

end Sys2Proof.Machine
end

section
/-! SUPPORT. What gating idle quadrants, setting their clocks and reporting a pool limit leave alone: the module's data, every engine, and the events held
so far (R500, R567, R569). -/

namespace Sys2Proof.Machine

/-! ### Events held (R605) -/

theorem hostWr_evHeld (s : State) (flow tc ten : Nat) (st : Bool) (who : Option ReadWho) (iova : Nat) (b : Bytes) :
    (s.hostWr flow tc ten st who iova b).evHeld = s.evHeld := by
  unfold State.hostWr
  split
  · rfl
  · exact foldl_same State.evHeld _ (fun s a => by rcases a with ⟨c, i⟩; rfl) _ s

theorem signal_evHeld (s : State) (flow : Nat) (v : Option Nat) : (s.signal flow v).evHeld = s.evHeld := by
  unfold State.signal
  repeat' split
  all_goals rfl

/-- A ring's record is not among the events held for the device ring. -/
theorem toRing_evHeld (s : State) (key : Nat) (e : Ev) : (s.toRing key e).evHeld = s.evHeld := by
  unfold State.toRing
  split
  · rfl
  · split
    · exact count_evHeld ..
    · rw [signal_evHeld, hostWr_evHeld]

/-- Delivering an event to the device keeps the events held so far, in their order. -/
theorem toDevice_keepsHeld (s : State) (e : Ev) : s.evHeld <+: (s.toDevice e).evHeld := by
  unfold State.toDevice
  split
  · exact ⟨[], by rw [toRing_evHeld, List.append_nil]⟩
  · split
    · exact ⟨[e], rfl⟩
    · exact ⟨[], List.append_nil _⟩

/-! ### Engines spared -/

/-- The module's data and every engine are as they were, and the events held so far are still held. -/
def State.sparesEngines (s t : State) : Prop := s.keepsData t ∧ t.eng = s.eng ∧ s.evHeld <+: t.evHeld

theorem sparesEngines_of_same {s t : State} (hdata : s.keepsData t) (heng : t.eng = s.eng) (hheld : t.evHeld = s.evHeld) : s.sparesEngines t :=
  ⟨hdata, heng, [], by rw [List.append_nil, hheld]⟩

theorem sparesEngines_refl (s : State) : s.sparesEngines s := sparesEngines_of_same ⟨rfl, rfl, rfl, rfl, rfl⟩ rfl rfl

theorem sparesEngines_trans {s t u : State} (h : s.sparesEngines t) (k : t.sparesEngines u) : s.sparesEngines u := by
  obtain ⟨hdata, heng, hheld⟩ := h
  obtain ⟨kdata, keng, kheld⟩ := k
  exact ⟨keepsData_trans hdata kdata, keng.trans heng, hheld.trans kheld⟩

theorem sparesEngines_foldl {α : Type} (f : State → α → State) (hf : ∀ (s : State) a, s.sparesEngines (f s a)) (l : List α) :
    ∀ s : State, s.sparesEngines (l.foldl f s) := by
  induction l with
  | nil => exact sparesEngines_refl
  | cons a l ih => exact fun s => sparesEngines_trans (hf s a) (ih _)

theorem sparesEngines_ite {p : Prop} [Decidable p] {s t u : State} (ht : s.sparesEngines t) (hu : s.sparesEngines u) :
    s.sparesEngines (if p then t else u) := by
  split
  · exact ht
  · exact hu

theorem engine_of_sparesEngines {s t : State} (h : s.sparesEngines t) (e : Nat) : t.engine e = s.engine e := by
  rw [State.engine, h.2.1, State.engine]

theorem setField_sparesEngines (s : State) (off lo len x : Nat) : s.sparesEngines (s.setField off lo len x) :=
  sparesEngines_of_same (setField_keepsData ..) rfl rfl

theorem raise_sparesEngines (s : State) (code handle : Nat) (det : List (Nat × Nat)) : s.sparesEngines (s.raise code handle none det) := by
  have honly := raise_eventOnly s code handle none det
  have hdevice : ∀ s0 : State, s0.evHeld = s.evHeld → ∀ ev, s.evHeld <+: (s0.toDevice ev).evHeld := fun s0 h0 ev => h0 ▸ toDevice_keepsHeld s0 ev
  exact ⟨eventOnly_keepsData honly, eventOnly_eng honly, hdevice _ (by split <;> rfl) _⟩

theorem poolLimit_sparesEngines (s : State) : s.sparesEngines s.poolLimit := by
  unfold State.poolLimit
  split
  · exact raise_sparesEngines ..
  · exact sparesEngines_refl s

/-! ### Clocks and gating (R567, R569) -/

theorem refreshCeil_sparesEngines (s : State) (q : Nat) : s.sparesEngines (s.refreshCeil q) := setField_sparesEngines ..

theorem setNeed_sparesEngines (s : State) (q extra : Nat) : s.sparesEngines (s.setNeed q extra) := by
  have hset : ∀ x w, s.sparesEngines (((s.setField (qclkOff q) 16 8 x).setField (qclkOff q) 35 1 w).refreshCeil q) := fun x w =>
    sparesEngines_trans (sparesEngines_trans (setField_sparesEngines ..) (setField_sparesEngines ..)) (refreshCeil_sparesEngines ..)
  exact sparesEngines_ite (hset _ _) (sparesEngines_trans (hset _ _)
    (sparesEngines_trans (sparesEngines_trans (setField_sparesEngines ..) (setField_sparesEngines ..)) (raise_sparesEngines ..)))

theorem setQState_sparesEngines (s : State) (q st : Nat) : s.sparesEngines (s.setQState q st) := by
  have hsince : s.sparesEngines { s with qSince := SMap.set s.qSince q s.now } :=
    sparesEngines_of_same ⟨rfl, rfl, rfl, rfl, rfl⟩ rfl rfl
  exact sparesEngines_trans hsince (setField_sparesEngines ..)

/-- Gating the quadrants on which nothing runs changes clocks only. -/
theorem gateIdle_sparesEngines (s : State) : s.sparesEngines s.gateIdle := by
  refine sparesEngines_foldl _ (fun s q => ?_) _ s
  split
  · exact sparesEngines_trans (setNeed_sparesEngines ..) (setQState_sparesEngines ..)
  · exact setNeed_sparesEngines ..

end Sys2Proof.Machine
end

section
/-! SUPPORT. Obligation O32: engines clear, leave service, change pool; the balancer without load keeps to the limits (R292 to R294, R497 to R500). -/

namespace Sys2Proof.Machine

/-! ### Clearing (R292 to R294) -/

/-- An engine that has begun to clear at a time: it is bound to no tenant and holds no image, its expanders are closed and its send queue is empty (R292,
R293). -/
def Engine.clearingSince (en : Engine) (at_ : Nat) : Engine :=
  let c : Core := { en.core with x0 := {}, x1 := {}, cmp := none }
  { en with st := .clearing, clearAt := at_, bound := none, resident := none, core := c, snap := c, queue := [] }

/-- An idle engine in an ACTIVE quadrant begins to clear: it is bound to no tenant, holds no image and counts as clearing (R292, R293). -/
theorem engineClear_begins {s : State} {e : EngId} (hst : (s.engine e).st = .idle) (hitem : (s.engine e).item = 0) (hfail : (s.engine e).clrFail = false)
    (hfrz : s.frozen = false) (hq : s.qState (quadOf e) = 0) (hc : s.canonical) :
    ∃ t, exec (.engineClear e) s = .next t ∧ (t.engine e).st = .clearing ∧ (t.engine e).bound = none ∧ (t.engine e).resident = none ∧
      (t.engine e).clearAt = s.eff ∧ t.getField (engOff e oSTORE_CTRL) 25 1 = 1 ∧ s.keepsData t := by
  obtain ⟨u, hu⟩ : ∃ u, u = (s.quadsTaken [quadOf e]).setEngine e ((s.engine e).clearingSince s.eff) := ⟨_, rfl⟩
  have hexec : exec (.engineClear e) s = .next (u.setClearing e true) := by
    rw [hu]
    exact (if_neg (by simp [hst, hitem, hfail, hfrz])).trans (if_neg (by simp [hq]))
  have hen : (u.setClearing e true).engine e = (s.engine e).clearingSince s.eff := by rw [State.setClearing, engine_setField, hu, engine_setEngine_same]
  have hcu : u.canonical := hu ▸ canonical_same hc rfl rfl
  have hclearing : (u.setClearing e true).getField (engOff e oSTORE_CTRL) 25 1 = 1 := getField_setField_same hcu _ _ _ _ (by decide)
  exact ⟨_, hexec, by rw [hen]; rfl, by rw [hen]; rfl, by rw [hen]; rfl, by rw [hen]; rfl, hclearing, hu ▸ ⟨rfl, rfl, rfl, rfl, rfl⟩⟩

/-- After a quadrant reset, an engine that has cleared is in service again (R596). -/
def State.serviceBack (s : State) (e : Nat) (back : Bool) : State :=
  if back then (s.setField (engOff e oSTORE_CTRL) 24 1 1).setField (engOff e oSTORE_CTRL) 26 1 0 else s

theorem serviceBack_sparesEngines (s : State) (e : Nat) (back : Bool) : s.sparesEngines (s.serviceBack e back) := by
  unfold State.serviceBack
  split
  · exact sparesEngines_trans (setField_sparesEngines ..) (setField_sparesEngines ..)
  · exact sparesEngines_refl s

/-- When clearing is done, the engine is a cleared one and every other engine is as it was (R292, R293). -/
theorem clearingDone_clears {s : State} {e : EngId} (hst : (s.engine e).st = .clearing) (hfrz : s.frozen = false) (hq : s.qState (quadOf e) = 0) :
    ∃ t, exec (.clearingDone e) s = .next t ∧ t.engine e = (s.engine e).cleared ∧ (∀ d, d ≠ e.val → t.engine d = s.engine d) ∧ s.keepsData t := by
  obtain ⟨u, hu⟩ : ∃ u, u = s.setEngine e (s.engine e).cleared := ⟨_, rfl⟩
  have hexec : exec (.clearingDone e) s =
      .next (((u.setClearing e false).setField (engOff e oSTORE_CTRL) 0 16 0).serviceBack e (s.engine e).resetClr).gateIdle := by
    rw [hu]
    exact if_neg (by simp [hst, hfrz, hq])
  have hctrl : u.sparesEngines ((u.setClearing e false).setField (engOff e oSTORE_CTRL) 0 16 0) :=
    sparesEngines_trans (setField_sparesEngines ..) (setField_sparesEngines ..)
  have hafter := sparesEngines_trans hctrl (sparesEngines_trans (serviceBack_sparesEngines _ e (s.engine e).resetClr) (gateIdle_sparesEngines _))
  refine ⟨_, hexec, ?_, fun d hd => ?_, keepsData_trans (hu ▸ setEngine_keepsData ..) hafter.1⟩
  · rw [engine_of_sparesEngines hafter, hu, engine_setEngine_same]
  · rw [engine_of_sparesEngines hafter, hu, engine_setEngine_ne _ _ _ _ hd]

/-- The module notes that an engine that a quadrant reset left to clear is dead (R596). -/
def State.noteDead (s : State) (e : Nat) (dead : Bool) : State :=
  if dead then { s with clrDead := if s.clrDead.contains e then s.clrDead else e :: s.clrDead } else s

/-- The state after engine `e` has left service as `x`: it neither clears nor is enabled (R294). -/
def State.outOfService (s : State) (e : Nat) (x : Engine) : State :=
  (((s.setEngine e x).setClearing e false).setField (engOff e oSTORE_CTRL) 24 1 0).setField (engOff e oSTORE_CTRL) 26 1 1

theorem engine_outOfService (s : State) (e : Nat) (x : Engine) : (s.outOfService e x).engine e = x := by
  rw [State.outOfService, State.setClearing, engine_setField, engine_setField, engine_setField, engine_setEngine_same]

/-- An engine whose clearing failed. -/
def Engine.clearFailed (en : Engine) : Engine := { en with st := .idle, clearedOnce := false, resetClr := false, clrFail := true }

theorem noteDead_frame (s : State) (e : Nat) (dead : Bool) :
    s.keepsData (s.noteDead e dead) ∧ (s.noteDead e dead).evHeld = s.evHeld ∧ (s.noteDead e dead).rings = s.rings ∧ (s.noteDead e dead).pav = s.pav := by
  cases dead <;> exact ⟨⟨rfl, rfl, rfl, rfl, rfl⟩, rfl, rfl, rfl⟩

/-- Clearing that has not ended in 3 µs of unstretched time fails: the engine leaves service, and the failure is the first event (R294, R575). -/
theorem clearFail_leavesService {s : State} {e : EngId} (hst : (s.engine e).st = .clearing) (hlate : (s.engine e).clearAt + 3000 < s.eff)
    (hheld : s.holdsEvents) :
    ∃ t, exec (.clearFail e) s = .next t ∧ t.engine e = (s.engine e).clearFailed ∧ s.told t 0x3105 0 none [(1, e.val)] ∧ s.keepsData t := by
  obtain ⟨hdead, hevs, hrings, hpav⟩ := noteDead_frame s e (s.engine e).resetClr
  obtain ⟨u, hu⟩ : ∃ u, u = (s.noteDead e (s.engine e).resetClr).outOfService e (s.engine e).clearFailed := ⟨_, rfl⟩
  have hexec : exec (.clearFail e) s = .next ((u.raise 0x3105 0 none [(1, e.val)]).poolLimit).gateIdle := by
    rw [hu]
    exact if_neg (not_or.mpr ⟨not_not_intro hst, Nat.not_le.mpr hlate⟩)
  have hudata : s.keepsData u := hu ▸ hdead
  have huevs : u.evHeld = s.evHeld := hu ▸ hevs
  have hupav : u.pav = s.pav := hu ▸ hpav
  have huheld : u.holdsEvents := ⟨hu ▸ hrings ▸ hheld.1, huevs ▸ hheld.2⟩
  have hraise := raise_told u 0x3105 0 none [(1, e.val)] huheld
  have hafter := sparesEngines_trans (poolLimit_sparesEngines (u.raise 0x3105 0 none [(1, e.val)])) (gateIdle_sparesEngines _)
  refine ⟨_, hexec, ?_, ?_, ?_⟩
  · rw [engine_of_sparesEngines hafter, engine_of_sparesEngines (raise_sparesEngines ..), hu, engine_outOfService]
  · rw [huevs, hupav] at hraise
    exact hraise.trans hafter.2.2
  · exact keepsData_trans hudata (keepsData_trans (raise_sparesEngines ..).1 hafter.1)

/-- An engine whose clear failed is not in service (R294, R497). -/
theorem inService_of_clrFail {s : State} {e : Nat} (h : (s.engine e).clrFail = true) : s.inService e = false := by
  simp [State.inService, h]

/-! ### Pools (R497 to R500) -/

/-- The first engine that the scheduled moves take changes pool, and the move is counted (R498, R499). -/
theorem enginePoolMove_moves {s : State} {e : EngId} (hfirst : s.reserved.head? = some e.val) (hc : s.canonical) :
    ∃ t, exec (.enginePoolMove e) s = .next t ∧ t.engine e = { s.engine e with pool := s.movesUp } ∧ t.moves = s.moves - 1 ∧ s.counted t 0xB0020 1 ∧
      s.keepsData t := by
  obtain ⟨u, hu⟩ : ∃ u, u = ({ s with moves := s.moves - 1 } : State).setEngine e { s.engine e with pool := s.movesUp } := ⟨_, rfl⟩
  have hexec : exec (.enginePoolMove e) s = .next (u.count 0xB0020 1) := by
    rw [hu]
    exact if_neg (not_not_intro hfirst)
  have hcounted : s.counted (u.count 0xB0020 1) 0xB0020 1 := by
    have hcu : u.canonical := hu ▸ canonical_same hc rfl rfl
    have := counted_count hcu 0xB0020 1
    rwa [State.counted, show u.reg 0xB0020 = s.reg 0xB0020 from hu ▸ rfl] at this
  refine ⟨_, hexec, ?_, hu ▸ rfl, hcounted, hu ▸ ⟨rfl, rfl, rfl, rfl, rfl⟩⟩
  rw [hu]
  exact engine_setEngine_same ..

theorem clampI_of_mem {x lo hi : Int} (hlo : lo ≤ x) (hhi : x ≤ hi) : clampI x lo hi = x := by
  rw [clampI, Int.max_eq_left hlo, Int.min_eq_left hhi]

/-- Where nothing waits and both minimums are met, a wish that the decode limits bring to `n` becomes `n` if the prefill limits allow it (R499, R500). -/
theorem limited_of_noLoad {e dmin dmax pmin pmax n : Nat} {t : Int} (hmin : dmin + pmin ≤ e) (hn : clampI t dmin dmax = n) (hlo : e ≤ n + pmax)
    (hhi : n + pmin ≤ e) : limited e dmin dmax pmin pmax 0 0 t = n := by
  have hprefill : clampI n ((e : Int) - pmax) ((e : Int) - pmin) = n := clampI_of_mem (by omega) (by omega)
  have hall : clampI n 0 (e : Int) = n := clampI_of_mem (by omega) (by omega)
  simp only [limited, if_neg (Nat.not_lt.mpr hmin), hn, hprefill, Nat.lt_irrefl, false_and, if_false, hall, Int.toNat_natCast]

/-- The moves that bring the decode pool to `n` engines are scheduled, at most eight of them (R499). -/
def State.scheduleMoves (s : State) (n : Nat) : State :=
  { s.fresh.2 with moves := min 8 (n - s.decodeSize + (s.decodeSize - n)), movesUp := decide (s.decodeSize < n) }

/-- The decode pool on its way to `n` engines: the moves are scheduled and the target is shown (R499). -/
def State.headedFor (s : State) (n : Nat) : State := (s.scheduleMoves n).setField rSRV_POOLS 16 8 n

/-- With the balancer off, engines move exactly where the limits ask for another size, at most eight of them (R499, R500). -/
theorem moves_of_forced (n size : Nat) :
    (if (decide (0 < if n < size then size - n else n - size) && decide ((n : Int) ≠ size)) = true then
      min 8 (if n < size then size - n else n - size) else 0) = min 8 (n - size + (size - n)) := by
  have hgap : (if n < size then size - n else n - size) = n - size + (size - n) := by split <;> omega
  rw [hgap]
  split
  · rfl
  · next hstay =>
    rw [Bool.and_eq_true, decide_eq_true_eq, decide_eq_true_eq] at hstay
    omega

/-- With the balancer off and nothing waiting, the limits alone make the target: engines move where it is not the size that the pool has (R499, R500). -/
theorem reelBalancer_off {s : State} (hoff : s.getField rSRV_CTRL 1 1 = 0) (hidle : ∀ k ∈ s.items, k.2.phase ≠ .waiting) {n : Nat}
    (hn : limited s.availCount (s.getField rSRV_LIMITS 16 8) (s.getField rSRV_LIMITS 24 8) (s.getField rSRV_LIMITS 0 8) (s.getField rSRV_LIMITS 8 8) 0 0
      s.decodeSize = n) :
    exec .reelBalancerEvaluation s = .next (s.headedFor n) := by
  have hnone : s.items.filter (fun k => decide (k.2.phase = .waiting) && k.2.job.isNone) = [] :=
    List.filter_eq_nil_iff.mpr (fun k hk => by simp [hidle k hk])
  show execReelBalancerEvaluation s = _
  unfold execReelBalancerEvaluation
  simp only [hnone, hoff, List.map_nil, List.filter_nil, List.length_nil, List.sum_nil, Nat.zero_ne_one, decide_false, Bool.not_false, Bool.true_or,
    if_true, Bool.false_and, Bool.false_or, hn, moves_of_forced]
  rfl

theorem headedFor_frame (s : State) (n : Nat) : (s.headedFor n).moves = min 8 (n - s.decodeSize + (s.decodeSize - n)) ∧
    (s.headedFor n).movesUp = decide (s.decodeSize < n) ∧ (s.headedFor n).eng = s.eng ∧ s.keepsData (s.headedFor n) :=
  ⟨rfl, rfl, rfl, ⟨rfl, rfl, rfl, rfl, rfl⟩⟩

theorem headedFor_target {s : State} (hc : s.canonical) (n : Nat) : (s.headedFor n).getField rSRV_POOLS 16 8 = n % 2 ^ 8 := by
  have hmoves : (s.scheduleMoves n).canonical := canonical_same hc rfl rfl
  rw [State.headedFor, getField_setField_same hmoves _ _ _ _ (by decide)]

theorem getField_lt (s : State) (off lo len : Nat) : s.getField off lo len < 2 ^ len := bits_lt ..

/-- Within all limits no engine is to move (R499). -/
theorem reelBalancer_stays {s : State} (hoff : s.getField rSRV_CTRL 1 1 = 0) (hidle : ∀ k ∈ s.items, k.2.phase ≠ .waiting) (hc : s.canonical)
    (hmin : s.getField rSRV_LIMITS 0 8 + s.getField rSRV_LIMITS 16 8 ≤ s.availCount) (hdmin : s.getField rSRV_LIMITS 16 8 ≤ s.decodeSize)
    (hdmax : s.decodeSize ≤ s.getField rSRV_LIMITS 24 8) (hpmax : s.availCount ≤ s.decodeSize + s.getField rSRV_LIMITS 8 8)
    (hpmin : s.decodeSize + s.getField rSRV_LIMITS 0 8 ≤ s.availCount) :
    ∃ t, exec .reelBalancerEvaluation s = .next t ∧ t.moves = 0 ∧ t.eng = s.eng ∧ t.getField rSRV_POOLS 16 8 = s.decodeSize % 256 ∧ s.keepsData t := by
  have hdecode := clampI_of_mem (Int.ofNat_le.mpr hdmin) (Int.ofNat_le.mpr hdmax)
  obtain ⟨hmoves, -, heng, hdata⟩ := headedFor_frame s s.decodeSize
  refine ⟨_, reelBalancer_off hoff hidle (limited_of_noLoad (by omega) hdecode hpmax hpmin), ?_, heng, headedFor_target hc _, hdata⟩
  rw [hmoves, Nat.sub_self, Nat.min_zero]

/-- A decode pool below its minimum grows to it, at most eight engines at a time (R499, R500). -/
theorem reelBalancer_fillsDecode {s : State} (hoff : s.getField rSRV_CTRL 1 1 = 0) (hidle : ∀ k ∈ s.items, k.2.phase ≠ .waiting) (hc : s.canonical)
    (hsmall : s.decodeSize < s.getField rSRV_LIMITS 16 8) (hd : s.getField rSRV_LIMITS 16 8 ≤ s.getField rSRV_LIMITS 24 8)
    (hpmax : s.availCount ≤ s.getField rSRV_LIMITS 16 8 + s.getField rSRV_LIMITS 8 8)
    (hpmin : s.getField rSRV_LIMITS 16 8 + s.getField rSRV_LIMITS 0 8 ≤ s.availCount) :
    ∃ t, exec .reelBalancerEvaluation s = .next t ∧ t.moves = min 8 (s.getField rSRV_LIMITS 16 8 - s.decodeSize) ∧ t.movesUp = true ∧ t.eng = s.eng ∧
      t.getField rSRV_POOLS 16 8 = s.getField rSRV_LIMITS 16 8 ∧ s.keepsData t := by
  have hdecode : clampI (s.decodeSize : Int) (s.getField rSRV_LIMITS 16 8) (s.getField rSRV_LIMITS 24 8) = s.getField rSRV_LIMITS 16 8 := by
    rw [clampI, Int.max_eq_right (by omega), Int.min_eq_left (by omega)]
  obtain ⟨hmoves, hup, heng, hdata⟩ := headedFor_frame s (s.getField rSRV_LIMITS 16 8)
  refine ⟨_, reelBalancer_off hoff hidle (limited_of_noLoad hpmin hdecode hpmax hpmin), ?_, ?_, heng, ?_, hdata⟩
  · rw [hmoves, Nat.sub_eq_zero_of_le (Nat.le_of_lt hsmall), Nat.add_zero]
  · rw [hup, decide_eq_true hsmall]
  · rw [headedFor_target hc, Nat.mod_eq_of_lt (getField_lt ..)]

/-! ### The obligation -/

/-- Settles O32: gating and reports that follow a clear spare the engines; without load the balancer's target is what the limits make of the pool's
size. -/
theorem clearingAndPools : Obligations.ClearingAndPools := by
  unfold Obligations.ClearingAndPools
  intro s e
  refine ⟨engineClear_begins, clearingDone_clears, fun hst hlate hheld _ => ?_, enginePoolMove_moves, fun hoff hidle hc => ?_⟩
  · obtain ⟨t, hexec, hen, htold, hdata⟩ := clearFail_leavesService hst hlate hheld
    refine ⟨t, hexec, ?_, ?_, inService_of_clrFail ?_, htold, hdata⟩ <;> rw [hen, Engine.clearFailed]
  · exact ⟨reelBalancer_stays hoff hidle hc, reelBalancer_fillsDecode hoff hidle hc⟩

end Sys2Proof.Machine
end
